-- ==== Sys2Proof/Word.lean ====
section
/-! DEFINITION. The widths the manual works in (R7: bit 0 is the least significant bit). Bit fields, byte order and
sign extension are in Machine/Bits.lean. -/

namespace Sys2Proof

abbrev Byte := BitVec 8
abbrev W16 := BitVec 16
abbrev W32 := BitVec 32
abbrev Word := BitVec 64

/-- A 16-bit status code (R337). -/
abbrev Status := BitVec 16

end Sys2Proof
end

