-- ==== Sys2Proof/Machine/Bits.lean ====
section
/-! DEFINITION. Bit fields, byte order (R7: little-endian) and two's complement. -/

namespace Sys2Proof.Machine

/-- Bits [hi:lo] of a number (R7: the range includes both ends). -/
def bitsN (n hi lo : Nat) : Nat := (n >>> lo) % 2 ^ (hi + 1 - lo)

/-- Bits [hi:lo] of a 64-bit word. -/
def fld (w : Word) (hi lo : Nat) : Nat := bitsN w.toNat hi lo

/-- Bit i of a 64-bit word. -/
def bitAt (w : Word) (i : Nat) : Bool := w.toNat.testBit i

/-- The bits a write covers take its data; the field mask keeps the rest of the register at 0. -/
def mergeW (field old new cover : Word) : Word := ((old &&& ~~~cover) ||| (new &&& cover)) &&& field

/-- The number of a Bool. -/
def b2n (b : Bool) : Nat := if b then 1 else 0

/-- Word i of a list of words; 0 past its end. -/
def wordAt (ws : List Word) (i : Nat) : Word := ws.getD i 0

/-- Insert an element before the first one it does not follow. -/
def insertBy {α : Type} (le : α → α → Bool) (x : α) : List α → List α
  | [] => [x]
  | y :: ys => if le x y then x :: y :: ys else y :: insertBy le x ys

/-- A list in order, equals as they stood. -/
def sortBy {α : Type} (le : α → α → Bool) (l : List α) : List α := l.foldr (insertBy le) []

/-- The n bytes of a number, least significant first (R7). -/
def leBytes : Nat → Nat → List Byte
  | 0, _ => []
  | k + 1, v => BitVec.ofNat 8 v :: leBytes k (v / 256)

/-- The number a list of bytes spells, least significant first (R7). -/
def leNat : List Byte → Nat
  | [] => 0
  | b :: bs => b.toNat + 256 * leNat bs

/-- The number a byte string spells, most significant first: digests, keys and curve points (R283). -/
def beNat (bs : List Byte) : Nat := bs.foldl (fun a b => a * 256 + b.toNat) 0

/-- The n bytes of a number, most significant first (R283). -/
def beBytes (n v : Nat) : List Byte := (leBytes n v).reverse

/-- The 8-byte words a list of bytes spells; the last word is padded with zeros. -/
def wordsOfBytes : List Byte → List Word
  | a :: b :: c :: d :: e :: f :: g :: h :: rest =>
    BitVec.ofNat 64 (leNat [a, b, c, d, e, f, g, h]) :: wordsOfBytes rest
  | [] => []
  | bs => [BitVec.ofNat 64 (leNat bs)]

/-- The bytes of a list of 8-byte words. -/
def bytesOfWords (ws : List Word) : List Byte := ws.flatMap (fun w => leBytes 8 w.toNat)

/-- The signed number of a w-bit two's complement value. -/
def signedN (w v : Nat) : Int :=
  let u := v % 2 ^ w
  if 2 ^ (w - 1) ≤ u then (u : Int) - (2 ^ w : Nat) else u

/-- The w-bit two's complement value of a number. -/
def unsignedN (w : Nat) (i : Int) : Nat := (i % ((2 ^ w : Nat) : Int)).toNat

/-- n zero bytes. -/
def zeroBytes (n : Nat) : List Byte := List.replicate n 0

/-- The first n bytes of a list, padded with zeros to exactly n. -/
def padBytes (n : Nat) (bs : List Byte) : List Byte := (bs ++ zeroBytes (n - bs.length)).take n

/-- Round up to a multiple of m. -/
def roundUp (n m : Nat) : Nat := (n + (m - 1)) / m * m

/-- The quotient rounded up. -/
def ceilDiv (n m : Nat) : Nat := (n + (m - 1)) / m

/-- The largest k with 2^k at most n (0 for 0). -/
def log2N (n : Nat) : Nat := Nat.log2 n

/-- A counter that saturates at its limit. -/
def satAdd (limit a b : Nat) : Nat := min limit (a + b)

/-- The numbers of the set bits of a mask below n, ascending. -/
def bitList (n mask : Nat) : List Nat := (List.range n).filter (fun i => mask.testBit i)

/-- The mask of a list of bit numbers. -/
def maskOf (l : List Nat) : Nat := l.foldl (fun m i => m ||| 2 ^ i) 0

/-- ASCII bytes of a string. -/
def ascii (s : String) : List Byte := s.toList.map (fun c => BitVec.ofNat 8 c.toNat)

end Sys2Proof.Machine
end

