-- ==== Sys2Proof/Machine/Aes.lean ====
section
/-! DEFINITION. AES-256 (FIPS 197) and AES-256-GCM (SP 800-38D), which R293, R297 and R298 name. -/

namespace Sys2Proof.Machine

/-! ## The cipher -/

/-- The S-box (FIPS 197): row r holds the values of 32 r to 32 r + 31, the first lowest. -/
def aesTable : List Nat :=
  [0xC072A49CAFA2D4ADF04759FA7DC982CA76ABD7FE2B670130C56F6BF27B777C63,
   0x75B227EBE28012079A059618C323C7041531D871F1E5A534CCF73F362693FDB7,
   0xCF584C4A39BECB6A5BB1FC20ED00D153842FE329B3D63B52A05A6E1B1A2C8309,
   0xD2F3FF1021DAB6BCF5389D928F40A351A89F3C507F02F94585334D43FBAAEFD0,
   0xDB0B5EDE14B8EE4688902A22DC4F816073195D643D7EA7C41744975FEC130CCD,
   0x08AE7A65EAF4566CA94ED58D6D37C8E779E4959162ACD3C25C2406490A3A32E0,
   0x9E1DC186B95735610EF6034866B53E708A8BBD4B1F74DDE8C6B4A61C2E2578BA,
   0x16BB54B00F2D99416842E6BF0D89A18CDF2855CEE9871E9B948ED9691198F8E1]

/-- The S-box's value. -/
def aesSub (a : Byte) : Byte := BitVec.ofNat 8 (aesTable.getD (a.toNat / 32) 0 >>> (8 * (a.toNat % 32)))

/-- Twice a byte in the cipher's field. -/
def aesTwice (a : Byte) : Byte := if a.getLsbD 7 then (a <<< 1) ^^^ 0x1B else a <<< 1

/-- Two byte strings added bit by bit. -/
def xorBytes (a b : List Byte) : List Byte := (a.zip b).map (fun p => p.1 ^^^ p.2)

/-- The key schedule of a 32-byte key: n further words, the list newest first, from word number i. -/
def aesExpand : Nat → Nat → List (List Byte) → List (List Byte)
  | 0, _, ws => ws
  | n + 1, i, ws =>
    let t := ws.headD []
    let u := if i % 8 = 0 then
        xorBytes ((t.drop 1 ++ t.take 1).map aesSub) [BitVec.ofNat 8 (2 ^ (i / 8 - 1)), 0, 0, 0]
      else if i % 8 = 4 then t.map aesSub
      else t
    aesExpand n (i + 1) (xorBytes (ws.getD 7 []) u :: ws)

/-- The fifteen round keys of sixteen bytes. -/
def aesKeys (key : List Byte) : List (List Byte) :=
  let w0 := (List.range 8).map (fun i => (key.drop (4 * i)).take 4)
  let ws := (aesExpand 52 8 w0.reverse).reverse
  (List.range 15).map (fun r => ((ws.drop (4 * r)).take 4).flatten)

/-- Rows of the state shift. -/
def aesShift (s : List Byte) : List Byte := (List.range 16).map (fun i => s.getD ((i + 4 * (i % 4)) % 16) 0)

/-- One column is mixed. -/
def aesMixCol (c : List Byte) : List Byte :=
  (List.range 4).map (fun i =>
    let b := c.getD ((i + 1) % 4) 0
    aesTwice (c.getD i 0) ^^^ aesTwice b ^^^ b ^^^ c.getD ((i + 2) % 4) 0 ^^^ c.getD ((i + 3) % 4) 0)

/-- The columns are mixed. -/
def aesMix (s : List Byte) : List Byte := (List.range 4).flatMap (fun j => aesMixCol ((s.drop (4 * j)).take 4))

/-- The rounds under the keys that are left; the last mixes no columns. -/
def aesRounds : List (List Byte) → List Byte → List Byte
  | [], s => s
  | [k], s => xorBytes (aesShift (s.map aesSub)) k
  | k :: ks, s => aesRounds ks (xorBytes (aesMix (aesShift (s.map aesSub))) k)

/-- A block of sixteen bytes enciphered. -/
def aesBlock (ks : List (List Byte)) (b : List Byte) : List Byte :=
  match ks with
  | [] => b
  | k :: rest => aesRounds rest (xorBytes b k)

/-! ## Galois counter mode -/

/-- The product of two blocks in the mode's field, bit 0 of a block being its most significant. -/
def gcmMul (x y : BitVec 128) : BitVec 128 :=
  ((List.range 128).foldl (fun (r : BitVec 128 × BitVec 128) i =>
    (if x.getMsbD i then r.1 ^^^ r.2 else r.1,
     if r.2.getLsbD 0 then (r.2 >>> 1) ^^^ BitVec.ofNat 128 (0xE1 * 2 ^ 120) else r.2 >>> 1)) (0, y)).1

/-- A byte string in blocks of sixteen, the last padded with zeros. -/
def gcmBlocks : Nat → List Byte → List (List Byte)
  | 0, _ => []
  | n + 1, bs => if bs.isEmpty then [] else padBytes 16 (bs.take 16) :: gcmBlocks n (bs.drop 16)

/-- The hash of blocks under the hash key. -/
def gcmHash (h : BitVec 128) (blocks : List (List Byte)) : BitVec 128 :=
  blocks.foldl (fun y b => gcmMul (y ^^^ BitVec.ofNat 128 (beNat b)) h) 0

/-- The key stream over a byte string, from a counter on. -/
def gcmCtr (ks : List (List Byte)) (iv : List Byte) : Nat → Nat → List Byte → List Byte
  | 0, _, _ => []
  | n + 1, ctr, bs =>
    if bs.isEmpty then []
    else xorBytes (bs.take 16) (aesBlock ks (iv ++ beBytes 4 ctr)) ++ gcmCtr ks iv n (ctr + 1) (bs.drop 16)

/-- The tag of a ciphertext with its additional data. -/
def gcmTag (ks : List (List Byte)) (iv aad cipher : List Byte) : List Byte :=
  let h := BitVec.ofNat 128 (beNat (aesBlock ks (zeroBytes 16)))
  let s := gcmHash h (gcmBlocks aad.length aad ++ gcmBlocks cipher.length cipher ++
                      [beBytes 8 (8 * aad.length) ++ beBytes 8 (8 * cipher.length)])
  xorBytes (beBytes 16 s.toNat) (aesBlock ks (iv ++ beBytes 4 1))

/-- Open a ciphertext under a 32-byte key with a 12-byte IV: the plaintext where the tag verifies. -/
def gcmOpen (key iv aad cipher tag : List Byte) : Option (List Byte) :=
  let ks := aesKeys key
  if gcmTag ks iv aad cipher = tag then some (gcmCtr ks iv cipher.length 2 cipher) else none

end Sys2Proof.Machine
end

