-- ==== Sys2Proof/Machine/Curve.lean ====
section
/-! DEFINITION. The elliptic curve P-384 (FIPS 186-5, SP 800-56A): ECDSA signatures and the ECDH product, which R283, R297,
R298, R304 and R382 name. Numbers stand in byte strings most significant byte first, as those standards write them. -/

namespace Sys2Proof.Machine

/-- The field's prime, the curve's constant, the order of the base point, and the base point. -/
def p384 : Nat := 2 ^ 384 - 2 ^ 128 - 2 ^ 96 + 2 ^ 32 - 1
def p384B : Nat := 0xB3312FA7E23EE7E4988E056BE3F82D19181D9C6EFE8141120314088F5013875AC656398D8A2ED19D2A85C8EDD3EC2AEF
def p384N : Nat := 0xFFFFFFFFFFFFFFFFFFFFFFFFFFFFFFFFFFFFFFFFFFFFFFFFC7634D81F4372DDF581A0DB248B0A77AECEC196ACCC52973
def p384Gx : Nat := 0xAA87CA22BE8B05378EB1C71EF320AD746E1D3B628BA79B9859F741E082542A385502F25DBF55296C3A545E3872760AB7
def p384Gy : Nat := 0x3617DE4A96262C6F5D9E98BF9292DC29F8F41DBD289A147CE9DA3113B5F0B8C00A60B1CE1D7E819D7A431D7C90EA0E5F

/-- A number's 384 bits, the most significant first. -/
def bits384 (n : Nat) : List Bool := (List.range 384).map (fun i => n.testBit (383 - i))

/-- x to the k modulo m. -/
def powMod (x k m : Nat) : Nat := (bits384 k).foldl (fun a b => if b then a * a % m * x % m else a * a % m) 1

/-- The inverse modulo a prime. -/
def invMod (x m : Nat) : Nat := powMod x (m - 2) m

/-- Arithmetic of the field. -/
def pmul (a b : Nat) : Nat := a * b % p384
def psub (a b : Nat) : Nat := (a + (p384 - b)) % p384

/-- A point in Jacobian coordinates; z is 0 at infinity. -/
structure CurvePt where
  x : Nat
  y : Nat
  z : Nat

/-- The point at infinity, and a point given by its coordinates. -/
def CurvePt.zero : CurvePt := ⟨1, 1, 0⟩
def CurvePt.at (x y : Nat) : CurvePt := ⟨x, y, 1⟩

/-- Twice a point. -/
def CurvePt.dbl (a : CurvePt) : CurvePt :=
  let d := pmul a.z a.z
  let g := pmul a.y a.y
  let b := pmul a.x g
  let al := pmul 3 (pmul (psub a.x d) ((a.x + d) % p384))
  let x := psub (pmul al al) (pmul 8 b)
  let yz := (a.y + a.z) % p384
  ⟨x, psub (pmul al (psub (pmul 4 b) x)) (pmul 8 (pmul g g)), psub (psub (pmul yz yz) g) d⟩

/-- The sum of two points. -/
def CurvePt.add (a b : CurvePt) : CurvePt :=
  if a.z = 0 then b
  else if b.z = 0 then a
  else
    let za := pmul a.z a.z
    let zb := pmul b.z b.z
    let u := pmul a.x zb
    let v := pmul b.x za
    let s := pmul a.y (pmul zb b.z)
    let t := pmul b.y (pmul za a.z)
    if u = v then (if s = t then a.dbl else CurvePt.zero)
    else
      let h := psub v u
      let r := psub t s
      let hh := pmul h h
      let hc := pmul hh h
      let w := pmul u hh
      let x := psub (psub (pmul r r) hc) (pmul 2 w)
      ⟨x, psub (pmul r (psub w x)) (pmul s hc), pmul h (pmul a.z b.z)⟩

/-- A multiple of a point. -/
def CurvePt.mul (k : Nat) (a : CurvePt) : CurvePt :=
  (bits384 k).foldl (fun q b => if b then q.dbl.add a else q.dbl) CurvePt.zero

/-- The coordinates of a point; none at infinity. -/
def CurvePt.coords (a : CurvePt) : Option (Nat × Nat) :=
  if a.z = 0 then none
  else
    let i := invMod a.z p384
    let ii := pmul i i
    some (pmul a.x ii, pmul a.y (pmul ii i))

/-- The base point. -/
def p384G : CurvePt := CurvePt.at p384Gx p384Gy

/-- The coordinates X then Y of 48 bytes each lie on the curve. -/
def onCurve (x y : Nat) : Bool :=
  decide (x < p384) && decide (y < p384) && pmul y y == (psub (pmul x (pmul x x)) (pmul 3 x) + p384B) % p384

/-- A public point from its 96 bytes. -/
def curvePoint (bs : List Byte) : Option CurvePt :=
  let x := beNat (bs.take 48)
  let y := beNat (bs.drop 48)
  if bs.length = 96 && onCurve x y then some (CurvePt.at x y) else none

/-- The public point of a private key, X then Y. -/
def publicKey (d : Nat) : List Byte :=
  match (p384G.mul d).coords with
  | some (x, y) => beBytes 48 x ++ beBytes 48 y
  | none => []

/-- The x-coordinate of the ECDH product (R297); none where the point does not lie on the curve. -/
def ecdh (d : Nat) (pub : List Byte) : Option (List Byte) :=
  match curvePoint pub with
  | none => none
  | some q => (q.mul d).coords.map (fun c => beBytes 48 c.1)

/-- The signature of a message, r then s, under a private key with a per-message secret (FIPS 186-5). -/
def ecdsaSign (d k : Nat) (msg : List Byte) : List Byte :=
  let r := match (p384G.mul k).coords with | some c => c.1 % p384N | none => 0
  let s := invMod k p384N * (beNat (sha384 msg) + r * d) % p384N
  beBytes 48 r ++ beBytes 48 s

/-- A signature verifies: public key, message, signature. -/
def ecdsaVerify (pub msg sig : List Byte) : Bool :=
  let r := beNat (sig.take 48)
  let s := beNat (sig.drop 48)
  match curvePoint pub with
  | none => false
  | some q =>
    if sig.length ≠ 96 ∨ r = 0 ∨ p384N ≤ r ∨ s = 0 ∨ p384N ≤ s then false
    else
      let w := invMod s p384N
      match ((p384G.mul (beNat (sha384 msg) * w % p384N)).add (q.mul (r * w % p384N))).coords with
      | some c => c.1 % p384N == r
      | none => false

end Sys2Proof.Machine
end

