-- ==== Sys2Proof/Config.lean ====
section
/-! DEFINITION. What the spec leaves open: free values and the functions it names without computing. Nothing here has a
body, so no proof can see what it is (logs 5 and 7). -/

namespace Sys2Proof.Config

/-- A free 64-bit value, one for each reading of State.freeCtr. -/
opaque freeWord : Nat → Word

/-- A free number, one for each reading of State.freeCtr. -/
opaque freeNat : Nat → Nat

/-- A free byte of a free byte string: reading of the counter, position. -/
opaque freeByte : Nat → Nat → Byte

/-- PATCH of ID_VERSION (Table 16.9). -/
opaque idPatch : BitVec 16

/-- How the fields of a capability-table entry lie in its bytes: section, fields, byte (Table 3.14 lists the fields and the
size of an entry, not their places; log 15). -/
opaque capEntry : Nat → List Nat → Nat → Byte

/-- The bytes of section 0x0001 (Limits) or 0x0009 (Fused-off units), whose layout the spec does not give, as a function of
what they show (log 15): section, the capacities present, or the fuse words. -/
opaque capBytes : Nat → List Nat → List Byte

/-- How a section that the operator queries shows the contexts in REMOVING, in a byte that otherwise reads as given: section,
contexts, byte number, byte (R87; Table 3.14 gives no field for it; log 15). -/
opaque capRemoving : Nat → List Nat → Nat → Byte → Byte

/-- The cluster a hub reports in section 0x0003 (log 15). -/
opaque clusterId : Nat → Nat

/-- The first 64 KiB page of the Notch's private region, and the bytes it has beyond 512 KiB (log 34). -/
opaque notchPage : Nat
opaque notchExtra : Nat

/-- The physical address of the Notch's private region, where the security queue's ring and index line lie (R95). -/
def notchBase : Nat := notchPage * 65536

/-- The size of the Notch's private region in bytes (R146). -/
def notchSize : Nat := 524288 + notchExtra

/-- The secret number of a signature, which FIPS 186-5 has the signer draw for each message (R305, log 7): the message. -/
opaque signSecret : List Byte → Nat

/-- The number a private key is made from: secret and label (R305 gives no derivation; log 7). -/
opaque deriveNat : List Byte → List Byte → Nat

/-- Whether a certificate chain verifies below a root, and the leaf's public key (R305, R415). -/
opaque chainLeaf : List Byte → Option (List Byte)

/-- The certificates of slot 0 beside the device identity certificate (R305): 0 the Kolsonis root, 1 the product CA, and
what the attestation certificate says of the attestation key's public point and the firmware digest in its extension, and a
certificate made of what it says and its signature (the spec gives no layout; log 7). -/
opaque kolsonisCert : Nat → List Byte
opaque attestBody : List Byte → List Byte → List Byte
opaque certificate : List Byte → List Byte → List Byte

/-- The value of a leaf certificate's Kolsonis debug authorisation extension (R415 check 5). -/
opaque debugExtension : List Byte → List Byte

/-- The set of a set-associative table a key falls in: table number, size of the table in sets, key (R221, R324,
R353). -/
opaque setIndex : Nat → List Nat → Nat

/-- The bytes that an SPDM signature is over (R293, R306), which DSP0274 gives and the spec does not restate (log 7):
the kind of the response, 1 to 3, and what it carries. -/
opaque spdmSigned : Nat → List Byte → List Byte

/-- A quotient of the Veld's formulas where its divisor is 0, which the spec does not state: the operands (log 17). -/
opaque unpriced : List Nat → Nat

/-- The voltage of a hub that no settings record assigns to a rail, in mV (log 17). -/
opaque hubMv : Nat → Nat

/-- A layer's predicted duration at a frequency outside its two observations, which R324 does not state: the two
durations and frequencies, and the frequency (log 17). -/
opaque predict : List Nat → Nat

/-- The occupancy of a channel's full queues, which R57 does not number (log 20). -/
opaque fullOcc : Nat → Nat

/-- The virtual place of the i-th unit of a kind that BIND0 binds, which R366 does not give (log 26): kind, number of
units, i. -/
opaque bind0Place : Nat → Nat → Nat → Nat × Nat

/-- The cause of a unit set DEFECT at a bring-up stage for which Table 14.5 lists none (log 26): the stage. -/
opaque bootCause : Nat → Nat

/-- The number of SRAM arrays that stage 3 tests (log 26). -/
opaque arrayCount : Nat

/-- The segments of a known-answer run's command, which R373 does not place (log 26): the type of endpoint. -/
opaque karSegs : Nat → List (Nat × Nat × Nat)

end Sys2Proof.Config
end

