-- ==== Sys2Proof/Machine/Table.lean ====
section
/-! DEFINITION. Sparse tables: the block's arrays as lists of (key, value) with strictly rising keys and no entry equal
to what an unlisted key reads as, so that equal tables are equal data. A byte table is a list of Host.Cell. -/

namespace Sys2Proof.Machine

/-- A sparse array keyed by numbers. -/
abbrev Table (α : Type) := List (Nat × α)

/-- The value at a key; `d` where the table lists none. -/
def tget {α : Type} (d : α) : Table α → Nat → α
  | [], _ => d
  | (k, v) :: t, i => if k = i then v else tget d t i

/-- Put an entry at its place, whatever its value. -/
def tput {α : Type} : Table α → Nat → α → Table α
  | [], i, x => [(i, x)]
  | (k, v) :: t, i, x => if i < k then (i, x) :: (k, v) :: t else if k = i then (i, x) :: t else (k, v) :: tput t i x

/-- Remove the entry of a key. -/
def tdel {α : Type} (t : Table α) (i : Nat) : Table α := t.filter (fun e => decide (e.1 ≠ i))

/-- Write a value; writing what an unlisted key reads as removes the entry. -/
def tset {α : Type} [DecidableEq α] (d : α) (t : Table α) (i : Nat) (x : α) : Table α :=
  if x = d then tdel t i else tput t i x

/-- Change the value at a key. -/
def tmod {α : Type} [DecidableEq α] (d : α) (t : Table α) (i : Nat) (f : α → α) : Table α :=
  tset d t i (f (tget d t i))

/-- The canonical form: keys strictly rise and no entry reads as an unlisted key does. -/
def twf {α : Type} [DecidableEq α] (d : α) (t : Table α) : Bool :=
  decide (t.Pairwise (fun a b => a.1 < b.1)) && t.all (fun e => decide (e.2 ≠ d))

/-- A byte table: the block's addressed buffers (MBX_DATA, DBG_AUTH_DATA). -/
abbrev Memory := List Host.Cell

/-- What an unlisted byte reads as: the reset value 0 of Tables 11.6 and 16.8. -/
def Memory.unlisted : Byte := 0

/-- The canonical form of a byte table. -/
def Memory.wf (m : Memory) : Bool := twf Memory.unlisted m

/-- One byte. -/
def Memory.read (m : Memory) (a : Nat) : Byte := tget Memory.unlisted m a

/-- Store one byte. -/
def Memory.write (m : Memory) (a : Nat) (b : Byte) : Memory := tset Memory.unlisted m a b

/-- n consecutive bytes from an address. -/
def Memory.readBytes (m : Memory) (a n : Nat) : List Byte := (List.range n).map (fun i => Memory.read m (a + i))

/-- Store consecutive bytes from an address. -/
def Memory.writeBytes : Memory → Nat → List Byte → Memory
  | m, _, [] => m
  | m, a, b :: bs => Memory.writeBytes (Memory.write m a b) (a + 1) bs

end Sys2Proof.Machine
end

