-- ==== Sys2Proof/Machine/Ports.lean ====
section
/-! DEFINITION. What crosses the block's ports inward: the operands of the commands (R25, Table 2.1). -/

namespace Sys2Proof.Machine

/-- What the memory system answers to the reads of one step: (physical address, byte). An address not listed answered
with an error, RespErr or Poison (R45). -/
abbrev MemView := List Host.Cell

/-- The views of the register window (R407, Table 16.4). -/
inductive View where
  | tenant (c : Nat)
  | operator
  | management
  | security
  | debug
deriving DecidableEq, Repr

/-- A transaction of the host port (Tables 2.3 and 2.6): its ID, the address of its first beat, the beat size in bytes,
whether the burst type is INCR, the first beat's strobes, and the later beats as data and strobes (a read's later beats
carry neither). `atomic` says that hfe_awatop is not 0, `poison` that any beat is poisoned. Bit i of a beat's strobes is
the strobe of its byte i, and its data has the byte at the beat's address lowest. The lock bit and hfe_awprot change
nothing (R31, Table 2.3) and are not carried. -/
structure HostReq where
  cls : BitVec 2
  bit15 : Bool
  twin : Bool
  ctx : BitVec 14
  atomic : Bool
  poison : Bool
  id : BitVec 8
  addr : BitVec 25
  size : Nat
  incr : Bool
  strobes : BitVec 8
  more : List (Word × BitVec 8)
deriving DecidableEq, Repr

/-- A transaction of one beat. -/
def HostReq.single (r : HostReq) : Bool := r.more.isEmpty

/-- The number of beats. -/
def HostReq.beats (r : HostReq) : Nat := r.more.length + 1

/-- One access to the register window as 8 bytes at an 8-aligned offset: the data and the 32-bit halves it reaches. -/
structure RegBeat where
  off : Nat
  data : Word
  lo : Bool
  hi : Bool
deriving DecidableEq, Repr

/-- A register access: from the host port, the management port (R63), the Notch and recovery loader (security view,
R413) or the register access instrument (R414). `wide` is an 8-byte access. -/
inductive RegReq where
  | host (r : HostReq) (data : Word)
  | mgmt (addr : BitVec 16) (data : W32) (strb : BitVec 4)
  | security (off : BitVec 20) (wide : Bool) (data : Word)
  | debug (off : BitVec 20) (wide : Bool) (data : Word)
deriving DecidableEq, Repr

/-- The requests an endpoint makes upstream (R193): ALLOC, FREE, or one that parses as neither. -/
inductive UpKind where
  | alloc
  | free
  | other
deriving DecidableEq, Repr

/-- The kinds of located unit (R374: 0 endpoint, 1 hub, 2 memory channel, 3 link). -/
inductive UnitKind where
  | endpoint
  | hub
  | channel
  | link
deriving DecidableEq, Repr

/-- What discovery returned for one endpoint (R371). -/
structure Found where
  ep : BitVec 14
  kind : BitVec 2
  log2Kib : BitVec 5
  mhz : BitVec 11
deriving DecidableEq, Repr

/-- What stage 5 took in for one memory channel: its state (R57, R372) and the capacity and bandwidth the capability
table reports (Table 3.14); `base` is its first granule. -/
structure ChanIn where
  chan : BitVec 5
  state : BitVec 2
  base : Nat
  granules : Nat
  gbps : Nat
deriving DecidableEq, Repr

/-- What stage 5 took in for one link endpoint (R372). -/
structure LinkIn where
  ep : BitVec 14
  state : BitVec 2
  peer : BitVec 16
deriving DecidableEq, Repr

/-- The error a scrub read or array read met (R349). -/
inductive EccRead where
  | clean
  | corrected
  | uncorrectable
deriving DecidableEq, Repr

/-- What the word of an array belongs to (Tables 13.7 and 16.13); `other` is a word of an array that Table 13.7 does not
list. -/
inductive EccItem where
  | queueRec (q : BitVec 18)
  | waiter (q : BitVec 18)
  | launchRec (lane : BitVec 3) (rec : BitVec 13)
  | jobState (q : BitVec 18)
  | firmware
  | fanBuffer (n : BitVec 5)
  | ctxRecord (c : BitVec 14)
  | keySlot (k : BitVec 12)
  | syncCache (c : BitVec 14) (id : BitVec 24)
  | xltCache
  | fenceLine (l : BitVec 16)
  | ringEntry (ep : BitVec 14) (i : BitVec 4)
  | traceBuffer (i : BitVec 18)
  | schedEntry (c : BitVec 14)
  | learner (i : Nat)
  | historyEntry (i : Nat)
  | layerCounter (i : Nat)
  | unitState (k : UnitKind) (u : BitVec 14)
  | defectCopy
  | other
deriving DecidableEq, Repr

/-- The memory requests that can be waiting for a protocol credit (R45): those made for a queue, its fence recheck among
them; a fence atomic, by its place among those in flight; a re-read of a fence-cache line; any other access, by its place
in State.out. -/
inductive ChiWait where
  | piRead
  | entryRead
  | fragRead
  | recordWrite
  | ciWrite
  | recheck
  | atomic (n : Nat)
  | line (l : BitVec 16)
  | other (i : Nat)
deriving DecidableEq, Repr

/-- What the firmware of a dispatch processor does while it executes a packet: the processor of the slice, the instructions
it retires as pairs of address and word (Table 13.9, KIND 1), and whether it ends in an exception (R351). The spec gives
neither the firmware nor its instruction set, so the command carries them (log 39). -/
structure FwRun where
  proc : BitVec 3
  retired : List (BitVec 32 × BitVec 32)
  exception : Bool
deriving DecidableEq, Repr

/-- What a known-answer run or self-test gives back (R373, R378): the outputs its issues left in memory, in order; whether a
channel's patterns read back as written; or nothing within 10 ms. -/
inductive RunResult where
  | outputs (os : List (List Byte))
  | patterns (ok : Bool)
  | timeout
deriving DecidableEq, Repr

/-- The parties of an SPDM message: the session it arrived in, if it was secured (R294, R296). -/
abbrev SessionRef := Option (BitVec 16)

/-- A window of the Veld's calibration: its measurement and the activity words that its hubs sent (R53, R317). -/
structure CalWindow where
  mw : BitVec 20
  acts : List (BitVec 9 × W32)
deriving DecidableEq, Repr

/-- Where a peer message comes from: its die, and the link and channel it arrived on (Table 2.17). -/
structure PeerSrc where
  die : BitVec 16
  link : BitVec 7
  chan : BitVec 4
deriving DecidableEq, Repr

/-- The transfer modes of the serial memory, slowest first (R62). -/
inductive SpiMode where
  | m111
  | m112
  | m122
  | m114
  | m144
deriving DecidableEq, Repr

end Sys2Proof.Machine
end

