-- ==== Sys2Proof/Syntax.lean ====
section
/-! DEFINITION. The commands: one constructor for each row of spec/opcode_table.json, with the row's operands. A packet or
routine row names the queue whose job executes it (the packet's own fields are in the job's buffer, R129); a step that
reads memory carries the MemView its reads return; a row that a register write of its own makes carries that write. -/

namespace Sys2Proof

open Machine

/-- The commands of the block, in the table's order. -/
inductive Instr where
  -- host port, resets, domains
  | doorbellWrite (r : HostReq)
  | sigSet (r : HostReq) (data : Word) (m : MemView)
  | sigAdd (r : HostReq) (data : Word) (m : MemView)
  | sigNotify (r : HostReq) (data : Word) (m : MemView)
  | registerWrite (r : RegReq) (m : MemView)
  | notificationTransfer
  | powerOnReset
  | powerOnResetRelease
  | blockReset
  | blockResetRelease
  | domainWake (d : Fin 9) (m : MemView)
  | sleepEntry (d : Fin 9)
  | pollDue (q : BitVec 18)
  | piReadReturn (q : BitVec 18) (data : Option Word)
  | entryReadReturn (q : BitVec 18) (data : Option (List Word))
  | fragmentReadReturn (q : BitVec 18) (data : Option (List Word))
  | fragmentBufferGrant (slice : BitVec 3)
  | constImageGrant (slice : BitVec 3)
  | jobCompletion (q : BitVec 18) (m : MemView)
  | fenceAtomicComplete (n : Nat) (old : Option Word) (m : MemView)
  | completionRecordComplete (q : BitVec 18) (ok : Bool)
  | ciWriteComplete (q : BitVec 18) (ok : Bool)
  | pcrdGrant (q : BitVec 18) (w : ChiWait)
  -- packets
  | nop (q : BitVec 18)
  | launch (q : BitVec 18) (m : MemView)
  | launchIndirect (q : BitVec 18) (m : MemView)
  | copy (q : BitVec 18)
  | fill (q : BitVec 18)
  | setConst (q : BitVec 18) (m : MemView)
  | loadImem (q : BitVec 18) (m : MemView)
  | imemLoadIssue (m : MemView)
  | fanStream (q : BitVec 18) (m : MemView)
  | fanStreamEmit (f : BitVec 5) (m : MemView)
  | fanStreamComplete (f : BitVec 5)
  | waitFence (q : BitVec 18) (m : MemView)
  | signalFence (q : BitVec 18) (m : MemView)
  | waitCount (q : BitVec 18) (m : MemView)
  | credit (q : BitVec 18) (m : MemView)
  | barrierArm (q : BitVec 18)
  | fenceRecheckReturn (q : BitVec 18) (die : Option (BitVec 16)) (value : Option Word)
  | lineRereadReturn (line : BitVec 16) (data : Option (List Word))
  | consumeAddReturn (n : Nat) (old : Option Word)
  | unlinkedReread (q : BitVec 18) (die : Option (BitVec 16))
  | remoteWatchRetry (q : BitVec 18)
  | ifPkt (q : BitVec 18) (m : MemView)
  | elsePkt (q : BitVec 18)
  | endif (q : BitVec 18)
  | loop (q : BitVec 18) (m : MemView)
  | endloop (q : BitVec 18)
  | callBuffer (q : BitVec 18) (m : MemView)
  | returnPkt (q : BitVec 18)
  | callRoutine (q : BitVec 18) (m : MemView) (fw : FwRun)
  | graphRun (q : BitVec 18) (m : MemView) (fw : FwRun)
  | graphPatch (q : BitVec 18) (m : MemView)
  | deadline (q : BitVec 18)
  | fallback (q : BitVec 18)
  | fallbackSwitch (q : BitVec 18)
  | tag (q : BitVec 18)
  | phaseHint (q : BitVec 18)
  | hintExpiry (p : BitVec 8)
  | timestamp (q : BitVec 18)
  | watch (q : BitVec 18)
  | alloc (q : BitVec 18)
  | allocResume
  | free (q : BitVec 18)
  | query (q : BitVec 18)
  | contextCreate (q : BitVec 18)
  | contextDestroy (q : BitVec 18)
  | teardownComplete (c : BitVec 14)
  | contextRemovalComplete (c : BitVec 14)
  | queueCreate (q : BitVec 18) (ciWriteOk : Bool)
  | queueRelease (q : BitVec 18)
  -- queue control writes
  | stpQCtrlEnable (r : RegReq)
  | stpQCtrlDisable (r : RegReq)
  | stpQCtrlHoldSet (r : RegReq)
  | stpQCtrlHoldClear (r : RegReq)
  | stpQCtrlWarm (r : RegReq)
  -- partitions and scheduling
  | bind (q : BitVec 18) (m : MemView)
  | unbind (q : BitVec 18) (m : MemView)
  | channelMigration (p : BitVec 8) (c : BitVec 14)
  | epochSwap (q : BitVec 18)
  | epochSwapTakeEffect (p : BitVec 8)
  | swapDeferral (p : BitVec 8)
  | tableWriteTimeout (ep : BitVec 14)
  | setShares (q : BitVec 18)
  | sliceEnd (p : BitVec 8)
  | regulatorSet (q : BitVec 18)
  | creditInterval (active : List (BitVec 10))
  | levelReport (chan : BitVec 5) (kind : BitVec 2) (value : BitVec 12)
  | channelReportStale (chan : BitVec 5)
  -- maintenance
  | selftest (q : BitVec 18) (r : RunResult)
  | boundaryKnownAnswerRun (k : UnitKind) (unit : BitVec 14) (r : RunResult)
  | unitReset (q : BitVec 18)
  | abortAbsorb (ep : BitVec 14)
  | retrain (q : BitVec 18)
  | fwActivate (q : BitVec 18) (image : List Byte)
  | fwSliceActivate (part : Fin 9)
  -- security queue
  | keyInstall (q : BitVec 18)
  | keyRevoke (q : BitVec 18)
  | sealPartition (q : BitVec 18)
  | measureReport (q : BitVec 18)
  -- resident routines
  | scaleUpdate (q : BitVec 18) (m : MemView)
  | amaxReduce (q : BitVec 18) (m : MemView)
  | topkRoute (q : BitVec 18) (m : MemView)
  | prefixSum (q : BitVec 18) (m : MemView)
  | histogram (q : BitVec 18) (m : MemView)
  | sortSmall (q : BitVec 18) (m : MemView)
  | shapeEval (q : BitVec 18) (m : MemView)
  | lossScaleCheck (q : BitVec 18) (m : MemView)
  | specAccept (q : BitVec 18) (m : MemView)
  | routineAlloc (q : BitVec 18)
  | routineFree (q : BitVec 18)
  | copySmall (q : BitVec 18) (m : MemView)
  | hashMeasure (q : BitVec 18) (m : MemView)
  | watchDump (q : BitVec 18) (m : MemView)
  -- launch resources, engine events
  | slotGrant (ep : BitVec 14)
  | launchRecordGrant (lane : BitVec 3)
  | engineToken (ep : BitVec 14) (tag : BitVec 16) (status : Byte) (cycles : BitVec 48) (stretched : Bool)
  | upstreamAlloc (ep : BitVec 14) (beat0 : BitVec 128) (beat1 : BitVec 128)
  | upstreamFree (ep : BitVec 14) (beat0 : BitVec 128)
  | engineEvent (ep : BitVec 14) (data : BitVec 128)
  | syncSignal (ep : BitVec 14) (id : BitVec 24) (value : Word) (m : MemView)
  | syncAdd (ep : BitVec 14) (id : BitVec 24) (value : Word) (m : MemView)
  | keyDrainAck (src : BitVec 10) (id : BitVec 12)
  | barrierReleaseRaise (c : BitVec 6)
  | barrierReleaseLower (c : BitVec 6)
  -- power
  | activityBeat (grp : BitVec 7) (data : BitVec 128)
  | measurement (mw : BitVec 20)
  | activityWindow
  | frequencyDone (hub : BitVec 9)
  | railAck (rail : BitVec 2)
  | alert
  | alertRelease
  | rackBudgetWrite (r : RegReq)
  | rackBudgetStale
  | freqProposeResend (p : BitVec 8)
  -- peer messages
  | fenceSignal (die : BitVec 16) (beat : BitVec 256)
  | fenceWatch (die : BitVec 16) (beat : BitVec 256)
  | fenceUnwatch (die : BitVec 16) (beat : BitVec 256)
  | fenceWake (die : BitVec 16) (beat : BitVec 256)
  | fenceFault (die : BitVec 16) (beat : BitVec 256)
  | contextAbort (die : BitVec 16) (beat : BitVec 256)
  | abortDone (die : BitVec 16) (beat : BitVec 256)
  | freqPropose (die : BitVec 16) (beat : BitVec 256)
  | freqSet (die : BitVec 16) (beat : BitVec 256)
  | keyDrain (die : BitVec 16) (beat : BitVec 256)
  | keyDrained (src : PeerSrc) (beat : BitVec 256)
  | drainAckTimeout (slot : BitVec 12) (dest : BitVec 10)
  | remoteDrainTimeout (slot : BitVec 12)
  | keySlotRelease (slot : BitVec 12)
  | twinState (die : BitVec 16) (beat : BitVec 256)
  | twinStateResend
  | doorbellFwd (die : BitVec 16) (beat : BitVec 256)
  | handback (die : BitVec 16) (beat : BitVec 256)
  | handbackEnd (die : BitVec 16) (beat : BitVec 256)
  | heartbeatSeen
  | heartbeatLost
  -- progress and protection
  | watchdogCheck (m : MemView)
  | patrolScrub (page : BitVec 8) (array : BitVec 8) (word : W32) (item : EccItem) (e : EccRead)
  -- register writes with a row of their own
  | clearCounters (r : RegReq)
  | irqForce (r : RegReq)
  | irqStatusClear (r : RegReq)
  | injectUe (r : RegReq)
  | injectCe (r : RegReq)
  | pageLock (r : RegReq)
  | irqTargetEnable (r : RegReq)
  | sliceAwakeForce (r : RegReq)
  | syncInvalEntry (r : RegReq)
  | syncInvalAll (r : RegReq)
  | wfgStart (r : RegReq)
  | wfgDone
  | probeSelect (r : RegReq) (m : MemView)
  | channelOwnerChange (r : RegReq)
  | fanOwnerChange (r : RegReq)
  | paceBaseWrite (r : RegReq)
  | pacingWindowWrite (c : BitVec 14) (line : Nat)
  | ctxSpadWrite (r : RegReq)
  | traceStart (r : RegReq)
  | traceStop (r : RegReq)
  | spiStoreGo (r : RegReq)
  | spiStoreDone (ok : Bool) (m : MemView)
  | rcvBegin (r : RegReq)
  | rcvData (r : RegReq)
  | rcvVerify (r : RegReq)
  | rcvProgram (r : RegReq)
  | rcvBoot (r : RegReq)
  -- bring-up
  | stage0 (fuses : List W32)
  | stage1 (sfdp : Option (List SpiMode)) (flash : List Byte)
  | stage2 (sramOk : Bool)
  | stage3 (sramOk : Bool)
  | stage4 (found : List Found)
  | stage5 (chans : List ChanIn) (links : List LinkIn)
  | stage6 (runs : List (BitVec 14 × RunResult)) (windows : List CalWindow) (karPresent : Bool)
  | stage7
  -- the SPDM mailbox and requests
  | mbxClaim (r : RegReq)
  | mbxRelease (r : RegReq)
  | mailboxClaimExpiry
  | getVersion (r : RegReq)
  | getCapabilities (r : RegReq)
  | negotiateAlgorithms (r : RegReq)
  | getDigests (r : RegReq) (sess : SessionRef)
  | getCertificate (r : RegReq) (sess : SessionRef)
  | challenge (r : RegReq)
  | getMeasurements (r : RegReq) (sess : SessionRef) (index : Byte) (nonce : List Byte)
  | keyExchange (r : RegReq) (sid : BitVec 16)
  | finish (r : RegReq) (sid : BitVec 16) (requesterKey : Option (List Byte))
  | heartbeat (r : RegReq) (sid : BitVec 16)
  | keyUpdate (r : RegReq) (sid : BitVec 16)
  | endSession (r : RegReq) (sid : BitVec 16)
  | chunkSend (r : RegReq) (sess : SessionRef) (chunk : List Byte) (last : Bool)
  | chunkGet (r : RegReq) (sess : SessionRef) (index : Nat)
  | unsupportedRequest (r : RegReq) (code : Byte)
  | sessionTimeout (sid : BitVec 16)
  | vendorKeyInstall (r : RegReq) (sid : BitVec 16) (body : List Byte)
  | vendorKeyRevoke (r : RegReq) (sid : BitVec 16) (body : List Byte)
  | vendorSeal (r : RegReq) (sid : BitVec 16) (body : List Byte)
  | vendorReport (r : RegReq) (sid : BitVec 16) (body : List Byte)
  | logRead (r : RegReq) (sid : BitVec 16) (body : List Byte)
  -- debug and management
  | authNew (r : RegReq)
  | authCheck (r : RegReq)
  | authResult
  | authClose (r : RegReq)
  | testReset
  | registerAccessInstrument (dr : BitVec 88) (m : MemView)
  | mgtWinData
  | mgmtLatchRead (addr : BitVec 16)
  -- refusals and expiries
  | reservedSyncOp (ep : BitVec 14) (id : BitVec 24) (op : BitVec 2) (value : Word)
  | unlistedPeerMessage (die : BitVec 16) (beat : BitVec 256)
  | unknownUpstreamRequest (ep : BitVec 14) (beat0 : BitVec 128) (beat1 : BitVec 128)
  | signalPageFormatError (r : HostReq) (data : Word)
  | refusedRegisterRead (r : RegReq)
  | knownAnswerRunTimeout (k : UnitKind) (unit : BitVec 14)
  | trainWaitExpiry (chan : BitVec 5)
  | railAckTimeout (rail : BitVec 2)
  | freqProposeMissing (p : BitVec 8) (die : BitVec 16)
  | time30Wrap
  | mailboxRequestNotParsed (r : RegReq)
deriving DecidableEq, Repr

end Sys2Proof
end

