-- ==== Sys2Proof/Machine/State.lean ====
section
/-! DEFINITION. The state of the block: every register, array, queue, mode and pin the spec gives it (Table 1.1), as
plain data. What the spec leaves without a reset value is named in notes/assumptions. -/

namespace Sys2Proof.Machine

/-! ## Port messages -/

/-- What leaves the block through its output ports, in order (Table 2.1): the model's record of the outputs (log 4). -/
inductive Out where
  /-- An AXI write response: 0 OKAY, 2 SLVERR, 3 DECERR (R31, R33). -/
  | hostResp (id : BitVec 8) (resp : Nat)
  /-- A beat of an AXI read response, its data with the byte at the beat's address lowest, and whether it is the last. -/
  | hostData (id : BitVec 8) (resp : Nat) (data : Word) (last : Bool)
  /-- An APB completion with mgmt_pslverr and mgmt_prdata (R63). -/
  | mgmtResp (err : Bool) (data : W32)
  /-- The result of a register access instrument update (Table 16.6). -/
  | jtagResult (dr : BitVec 88)
  /-- A notification or interrupt message transferred on hfe_ntf (R37, R403). -/
  | ntf (addr : Word) (ctx : Nat) (data : Nat)
  /-- A CHI read: port, physical address, bytes, key ID, and whether the page is host-visible as it leaves (R41 to
  R43). -/
  | chiRead (port pa len key : Nat) (vis : Bool)
  /-- A CHI write of bytes at a physical address under a key ID. -/
  | chiWrite (port pa key : Nat) (vis : Bool) (bytes : List Byte)
  /-- An AtomicLoad, UMAX or ADD, of 8 bytes (R149, R150). -/
  | chiAtomic (port pa key : Nat) (add : Bool) (operand : Word)
  /-- A message of a launch lane: kind, first hub, extra hubs, mask, beats as four words each (R47, R177). -/
  | ecp (lane kind hub extra mask : Nat) (words : List Word)
  /-- Beats of a Fan (R203). -/
  | fan (fan group : Nat) (words : List Word) (last : Bool)
  /-- The key channel (Table 2.10): destination, op, key ID, material. -/
  | key (dst op id : Nat) (data : List Byte)
  /-- A master's limit on bwr_crd (R58). -/
  | credit (m0 lim0 m1 lim1 : Nat)   -- one beat of bwr_crd
  /-- A channel control command: 0 quiesce, 1 retrain, 2 resume (Table 2.16). -/
  | bwrCtl (chan cmd : Nat)
  /-- A frequency request (Table 2.15). -/
  | freq (hub mhz : Nat)
  /-- An AVSBus voltage request (R321). -/
  | avs (rail mv : Nat)
  /-- A peer message beat on a route (R60). -/
  | peer (link chan die : Nat) (beat : BitVec 256)
  /-- A serial memory store (R365). -/
  | spiStore (off : Nat) (bytes : List Byte)
deriving DecidableEq, Repr

/-! ## Pages, host front end, domains -/

/-- The common registers of a page (Table 16.2). -/
structure Page where
  irqStatus : W32
  irqEnable : W32
  errStatus : W32
  errAddr : Word
  inject : Option Bool      -- some true: INJECT_UE armed; some false: INJECT_CE (R402)
  lock : Bool
  cnt : List Word           -- the eight standard counters
deriving DecidableEq, Repr

/-- A page at reset. -/
def Page.reset : Page :=
  { irqStatus := 0, irqEnable := 0, errStatus := 0, errAddr := 0, inject := none, lock := false,
    cnt := [0, 0, 0, 0, 0, 0, 0, 0] }

/-- Who a waiting message on hfe_ntf speaks for: a queue (R38) or a page's interrupt (R403). -/
inductive NtfSrc where
  | queue (q : Nat)
  | page (p : Nat)
deriving DecidableEq, Repr

/-- A message waiting on hfe_ntf (R37, R118, R403). -/
structure Ntf where
  src : NtfSrc
  addr : Word
  ctx : Nat
  data : Nat
deriving DecidableEq, Repr

/-- An event the always-on domain holds while a domain wakes (R15, R18, R36): a signal-page write; a register write, with
the ID and the response of a host transaction and its accesses in order; a host read, whose refused beats carry no access;
a response of a host transaction behind one of the same ID; a management read; a read by the register access instrument;
a completion token; an upstream request. -/
inductive Held where
  | signal (ctx : Nat) (off : Nat) (data : Word) (operator : Bool)
  | write (v : View) (id : BitVec 8) (resp : Nat) (beats : List RegBeat)
  | read (v : View) (id : BitVec 8) (beats : List (Option RegBeat))
  | answer (id : BitVec 8) (outs : List Out)
  | mgmtRead (addr : Nat)
  | debugRead (off : Nat) (wide : Bool)
  | token (ep tag status cycles : Nat) (stretched : Bool)
  | upstream (kind : UpKind) (ep b0 b1 : Nat)
deriving DecidableEq, Repr

/-- The Basin and the resets (R13 to R19, R29). -/
structure Basin where
  ctrl : W32
  sliceAwake : BitVec 8
  sliceWaking : BitVec 8
  spineAwake : Bool
  spineWaking : Bool
  held : List Held
  porAsserted : Bool
  blkAsserted : Bool
deriving DecidableEq, Repr

/-- The pins the block drives as levels. -/
structure Pins where
  hfeAvail : Bool
  pwrFloor : Bool
  pwrWin : Bool
  hbOut : Bool
deriving DecidableEq, Repr

/-! ## Queues -/

/-- Queue states (Table 4.9). -/
inductive QState where
  | free
  | disabled
  | enabled
  | disabling
deriving DecidableEq, Repr

/-- A producer-index read outstanding (R109): `fresh` is the read of a HOLD release. -/
inductive PiRead where
  | none
  | plain
  | fresh
deriving DecidableEq, Repr

/-- A queue record (Table 4.2) with the doorbell catcher's bit and the fetcher's outstanding accesses. -/
structure Queue where
  ringBase : Nat
  log2 : Nat
  idxLine : Nat
  ci : W32
  piSeen : W32
  owner : Nat
  cls : Nat
  st : QState
  home : Nat
  poll : Nat
  warm : Bool
  crc : Bool
  hold : Bool
  fetched : Bool
  wait : Bool
  ntfEn : Bool
  ntfTarget : Nat
  completed : W32
  history : List Nat
  histNext : Nat
  pend : Bool
  piRead : PiRead
  freshDue : Bool        -- the fresh PI read of a HOLD release is still owed (R109, R111)
  entryRead : Bool
  pollHeld : Bool        -- a poll fell due while the home slice wakes (R15)
  step : Nat             -- jobs begun since creation (R358)
deriving DecidableEq, Repr

/-- A record in FREE: every field 0 (Table 4.9). -/
def Queue.reset : Queue :=
  { ringBase := 0, log2 := 0, idxLine := 0, ci := 0, piSeen := 0, owner := 0, cls := 0, st := .free, home := 0,
    poll := 0, warm := false, crc := false, hold := false, fetched := false, wait := false, ntfEn := false,
    ntfTarget := 0, completed := 0, history := [0, 0, 0, 0, 0, 0, 0, 0], histNext := 0, pend := false,
    piRead := .none, freshDue := false, entryRead := false, pollHeld := false, step := 0 }

/-! ## Jobs -/

/-- An open IF or LOOP block (R136, R137): packet positions within its frame. -/
inductive Block where
  | ifb (taken : Bool)
  | loopb (body : Nat) (index : Nat) (count : Nat)
deriving DecidableEq, Repr

/-- Where a frame's packets came from (R129, R138, R214). -/
inductive FrameKind where
  | inlined
  | fragment
  | called
  | graph (gkey : Nat) (slot : Nat) (seg : Nat) (handle : Nat)
deriving DecidableEq, Repr

/-- One level of the call stack (Table 5.6): the packets of the buffer as read, the next packet's position, the open
blocks (innermost first), the buffer's bytes and its virtual address. -/
structure Frame where
  kind : FrameKind
  pkts : List (List Word)
  pc : Nat
  blocks : List Block
  bytes : Nat
  va : Nat
deriving DecidableEq, Repr

/-- A deferred SIGNAL_FENCE (R132). -/
structure Deferred where
  fence : Word
  value : Word
  pidx : Nat
deriving DecidableEq, Repr

/-- One engine command of a launch packet: its descriptor words as sent and its segments (address, key, bytes). -/
structure Cmd where
  desc : List Word
  segs : List (Nat × Nat × Nat)
deriving DecidableEq, Repr

/-- A launch-kind packet past step 5 of Table 7.6: what it still has to issue. -/
structure Plan where
  ecmd : Nat
  targets : List Nat
  cmds : List Cmd
  imemGen : Nat
  constWords : Nat
  depEp : Option Nat
  depWait : Nat
  record : Option Nat
  need : List Nat        -- targets whose slot is not yet reserved (step 7)
  handles : List Nat     -- handles its commands hold until they return (R78)
deriving DecidableEq, Repr

/-- A stream queued to a Fan (R201 to R204), or checked and waiting for a slot. -/
structure Stream where
  slot : Nat
  q : Nat
  ctx : Nat
  lane : Nat
  targets : List Nat
  generation : Nat
  segTable : List (Nat × Nat × Nat)  -- OFFSET, LENGTH, REPEAT
  segs : List (Nat × Nat × Nat)      -- the body: address, key, bytes
  bodyBytes : Nat
  digest : List Byte
  computed : List Byte
  layer : Nat
  operator : Nat
  emitted : Bool
deriving DecidableEq, Repr

/-- Where a job stands. -/
inductive Phase where
  | run                                  -- the next packet may start
  | fragTable                            -- a fragment-table line is being read (R105)
  | fragRead                             -- a fragment is being read (R106)
  | bufWait (call : Bool)                -- no fragment buffer is free (R106)
  | imgWait                              -- no constant image is free (R135)
  | fence                                -- at a wait packet (R157)
  | recWait (p : Plan)                   -- step 6 of Table 7.6
  | slotWait (p : Plan)                  -- step 7 of Table 7.6
  | routineWait (id : Nat)               -- no idle processor (R226)
  | routine (id : Nat) (params : List Byte)
  | load                                 -- LOAD_IMEM waits for its targets (R198)
  | fanWait                              -- FAN_STREAM waits for a slot or a change of owner (R200, R201)
  | armWait                              -- BARRIER_ARM waits (R168, R169)
  | patchWait (g : Nat)                  -- GRAPH_PATCH waits for another of the same graph (R211)
  | allocWait                            -- ALLOC, CONTEXT_CREATE or GRAPH_PATCH waits for zeroing (R69, R81, R211)
  | freeWait (ctx handle : Nat)          -- FREE in abort mode waits for its holders (R83)
  | destroyWait (ctx : Nat)              -- CONTEXT_DESTROY waits for REMOVING
  | swapWait (p : Nat)                   -- EPOCH_SWAP pending, or BIND behind it (R259, R263)
  | bindWait (p : Nat)                   -- BIND or UNBIND waits for acknowledgements (R259)
  | unitWait (k : UnitKind) (unit : Nat) -- SELFTEST, UNIT_RESET or RETRAIN in progress
  | fwWait                               -- FW_ACTIVATE in progress (R383)
  | keyWait (slot : Nat)                 -- KEY_REVOKE waits for FREE (R288)
  | sealWait (p : Nat)                   -- SEAL_PARTITION waits for the clear of its units (R307)
  | switchWait (layer : Nat)             -- a fallback switch waits for tokens (R222)
  | drained                              -- the packet stream has ended (R106, R139)
  | completing                           -- the deferred signals are being issued (R132)
  | record                               -- the completion record is being written (R44)
  | ciWrite                              -- the CI write is outstanding (R119)
deriving DecidableEq, Repr

/-- How a job ended other than by its packets (Table 15.7, ranks 1 to 3). -/
inductive EndRank where
  | none
  | opStatus
  | aborted
  | lost
deriving DecidableEq, Repr

/-- A graph run under the deadline monitor (R220, R221): the graph record, the slot, the index of R221 and the call
depth of its frame. -/
structure RunInfo where
  gkey : Nat
  slot : Nat
  index : Nat
  depth : Nat
  proc : Nat                   -- the processor of the home slice that runs the graph (R254)
deriving DecidableEq, Repr

/-- A layer whose duration is being measured (R217). -/
structure LayerRun where
  gkey : Nat
  layer : Nat
  start : Nat
  passed : Bool
deriving DecidableEq, Repr

/-- A job (R110, Table 5.6). -/
structure Job where
  entry : List Word
  entryVa : Nat
  userTag : Word
  noNotify : Bool
  phase : Phase
  rank : EndRank
  status : Status
  skip : Status                          -- status of the first skip registered (R191)
  tFetch : Nat
  tLaunch : Nat
  tDone : Nat
  idx : Nat                              -- packets retired before the present one (R116)
  endIdx : Option Nat                    -- PACKET_INDEX fixed by the event that ended the job (R339)
  preds : BitVec 8
  d : List Word                          -- D0 to D13
  d15 : Word
  image : Option (Table Word)            -- the constant image, as 512 words (R135)
  layer : W32
  operator : W32
  stack : List Frame                     -- innermost first
  fragTable : Nat
  fragCount : Nat
  fragNext : Nat
  fragLine : List Word                   -- the table line read last
  hasBuf : Bool
  spillBuf : Option (Nat × Nat)          -- the spill slot its fragment buffer is in, and the key ID there (R163)
  spillImg : Option (Nat × Nat)          -- the same for its constant image
  deferred : List Deferred
  atomics : Nat                          -- fence atomics of the job not yet complete
  launches : Nat
  engineNum : Nat                        -- engine time of the job as an exact fraction (R116)
  engineDen : Nat
  stretched : Bool
  energy : Nat                           -- fJ (log 16)
  deadline : Option Nat
  fallback : Option Nat
  dlDone : Bool
  run : Option RunInfo
  layers : List LayerRun
  held : List Nat                        -- handle indices held until the packet retires (R78)
  heldKeep : List Nat                    -- handles held by a graph run until it retires (R214)
  bad : Option (Nat × List Word)         -- the failing packet of a refused buffer: its address and words (R129, R121)
  decoded : Bool                         -- this packet has been counted as decoded (Table 5.20)
  priorCounted : Bool                    -- this packet's WAIT_PRIOR hold has been counted (R147)
  schedCounted : Bool                    -- this packet's scheduler hold has been counted (R274)
  epochOpen : Bool                       -- a grid-translated message since the last epoch boundary (R262)
  fanReady : Option Stream               -- a FAN_STREAM's stream that waits for a slot, checked (R201)
  deferralPass : Bool                    -- released for one layer by a deferral (R266)
  holdSince : Option Nat                 -- when the present packet was first held (R274)
  waitSince : Option Nat                 -- when the present wait for a resource began (R274)
deriving DecidableEq, Repr

/-! ## Contexts -/

/-- Context states (Table 3.2). -/
inductive CtxState where
  | free
  | active
  | lost
  | teardown
  | removing
deriving DecidableEq, Repr

/-- A mapped 64 KiB page (R71 to R73). -/
structure PageEntry where
  gran : Nat
  write : Bool
  sync : Bool
  hostVis : Bool
  large : Bool
  key : Nat
  home : Nat             -- home die of the granule (R164)
deriving DecidableEq, Repr

/-- A handle-table entry (R77). -/
structure Handle where
  gen : Nat
  live : Bool
  retired : Bool
  releasing : Bool       -- freed, with holders left (R83)
  base : Nat
  size : Nat
  attr : Nat
  holders : Nat
deriving DecidableEq, Repr

/-- An entry never used (R77). -/
def Handle.fresh : Handle :=
  { gen := 1, live := false, retired := false, releasing := false, base := 0, size := 0, attr := 0, holders := 0 }

/-- A context record (Table 3.1) with the tables it owns, its scheduler, accounting and observation state. -/
structure Context where
  st : CtxState
  abortMode : Bool
  part : Nat
  vaBits : Nat
  syncBits : Nat
  handleBits : Nat
  quota : Nat
  used : Nat
  root : Nat
  htab : Nat
  inflight : Nat
  lastStatus : Status
  forced : Bool
  aborting : Bool                        -- the teardown in progress runs Table 3.8
  tables : List Nat                      -- granules of the translation, handle and sync tables
  pages : Table PageEntry                -- by 64 KiB page number
  handles : Table Handle
  l1 : List Nat                          -- level-1 tables held, by 4 TiB index
  l2 : List Nat                          -- level-2 tables held, by 512 MiB index
  destroyedBy : Option Nat               -- the queue whose CONTEXT_DESTROY waits
  peerAborts : List Nat                  -- dies whose ABORT_DONE is awaited (R87)
  clearTags : Nat                        -- engine-queue clear tokens awaited (R308)
  cleared : Bool                         -- the clear of the removal has been sent
  weight : Nat
  slice : Nat
  deficit : Int
  eligible : Bool                  -- as the scheduler last saw it (R273)
  spadBase : Nat
  spadSize : Nat
  acctEngine : Nat × Nat                 -- ENGINE_NS as an exact fraction (Table 10.5)
  acctWait : Word
  acctHold : Word
  acctResource : Word
  acctPreempt : Word
  acctEnergy : Nat                       -- fJ (log 16)
  wdogMs : Nat
  packets : Word
  launches : Word
  progress : Word
  lastAdv : Nat
  lastFire : Nat
  capture : Word                         -- LOE_CTX_CAPTURE
  capSize : Nat
  pace : Word                            -- ECP_PACE_BASE
  paceLines : Table (Nat × Nat)          -- per line: time of its last write and SEQ
  revoked : List (Nat × Nat)             -- home die and key ID whose pages no longer resolve (R289, R290)
deriving DecidableEq, Repr

/-- A FREE context: fields 0, the defaults of R272 and Table 13.12. -/
def Context.reset : Context :=
  { st := .free, abortMode := false, part := 0, vaBits := 0, syncBits := 0, handleBits := 0, quota := 0, used := 0,
    root := 0, htab := 0, inflight := 0, lastStatus := 0, forced := false, aborting := false, tables := [], pages := [],
    handles := [], l1 := [], l2 := [], destroyedBy := none, peerAborts := [], clearTags := 0, cleared := false,
    weight := 256, slice := 0, deficit := 0, eligible := false, spadBase := 0, spadSize := 0, acctEngine := (0, 1), acctWait := 0,
    acctHold := 0, acctResource := 0, acctPreempt := 0, acctEnergy := 0, wdogMs := 500, packets := 0, launches := 0,
    progress := 0, lastAdv := 0, lastFire := 0, capture := 0, capSize := 0, pace := 0, paceLines := [],
    revoked := [] }

/-! ## Units: endpoints, hubs, channels -/

/-- Unit states (Table 14.7). -/
inductive UnitState where
  | healthy
  | suspect
  | defect
  | fused
deriving DecidableEq, Repr

/-- A unit-state entry (R376, Table 14.13). -/
structure UnitRec where
  st : UnitState
  cause : Nat
  karPending : Bool
  restage : Bool         -- its disagreement came from a table write (R265)
  owner : List Byte      -- recorded security owner; [] the operator (R281)
deriving DecidableEq, Repr

/-- An entry at reset (Table 14.13: STATE 0b11). -/
def UnitRec.reset : UnitRec :=
  { st := .fused, cause := 0, karPending := false, restage := false, owner := [] }

/-- An engine endpoint as the block sees it (R175, R187, R205, R371). -/
structure Endpoint where
  exist : Bool
  kind : Nat             -- 0 compute, 1 copy, 2 link
  mhz : Nat
  imemKib : Nat
  unit : UnitRec
  part : Nat
  peer : Nat             -- link: peer die (R372)
  linkState : Nat
  cmds : List (Nat × Nat) -- unretired commands, oldest first: (tag, context; noCtx for the block's own)
  reserved : Nat         -- slots reserved by launches not yet issued (R187)
  held : Bool            -- held for a load (R198)
  depSent : BitVec 8
  upstream : Nat         -- unanswered upstream requests (R193)
  ring : List (BitVec 128)
  lost : Nat
deriving DecidableEq, Repr

/-- An endpoint that was not discovered. -/
def Endpoint.reset : Endpoint :=
  { exist := false, kind := 0, mhz := 0, imemKib := 0, unit := UnitRec.reset, part := 255, peer := 0, linkState := 0,
    cmds := [], reserved := 0, held := false, depSent := 0, upstream := 0, ring := [], lost := 0 }

/-- A cluster hub: its unit entry, activity (R53), frequency (R321) and attributed energy. -/
structure Hub where
  unit : UnitRec
  act : Option W32
  mhz : Nat
  want : Option Nat      -- a raise that waits for its rail (R321)
  asked : Option Nat     -- requested on pwr_freq, not yet settled
deriving DecidableEq, Repr

/-- A hub at reset. -/
def Hub.reset : Hub := { unit := UnitRec.reset, act := none, mhz := 0, want := none, asked := none }

/-- A memory channel: its pool (R79, R267) and its regulation state (Table 10.9). -/
structure Channel where
  unit : UnitRec
  base : Nat
  granules : Nat
  gbps : Nat
  free : List Nat        -- zeroed free granules, ascending
  part : Nat
  state : Nat            -- R57: 0 down, 1 trained, 2 retraining, 3 failed
  occRd : Nat
  occWr : Nat
  lastReport : Nat
  stale : Bool
  f : Nat
  retrainBy : Option Nat -- who retrains it: a queue, or 2^18 + a key destination (R291)
  retrainSent : Bool     -- the retrain of step 2 has left (R380)
  retrainAt : Nat
  failed : Bool          -- a retraining failed: every later transaction completes with NDERR (R380)
deriving DecidableEq, Repr

/-- A channel at reset (Table 10.9). -/
def Channel.reset : Channel :=
  { unit := UnitRec.reset, base := 0, granules := 0, gbps := 0, free := [], part := 255, state := 0, occRd := 0,
    occWr := 0, lastReport := 0, stale := false, f := 16, retrainBy := none, retrainSent := false, retrainAt := 0,
    failed := false }

/-- A granule being zeroed (R84): the record of its FILL once issued, and the attempt. -/
structure Zeroing where
  gran : Nat
  attempt : Nat
  issued : Bool
  part : Nat
deriving DecidableEq, Repr

/-- Who waits for zeroing to supply granules (R81): a queue's packet, or an upstream request. -/
inductive AllocWaiter where
  | queue (q : Nat)
  | upstream (ep tag ctx size hint attr : Nat)
deriving DecidableEq, Repr

/-! ## Launch lanes -/

/-- Whom a launch record serves (R186). -/
inductive Purpose where
  | job (q : Nat)
  | zeroing (gran : Nat)
  | tableWrite (p : Nat) (op : Nat)
  | clear (ctx : Nat)
  | migrate (p ctx oldGran newGran key : Nat)
  | linkRetrain (q : Nat)
  | owner (p : Nat)      -- the clear of a partition's units at a change of owner (R307)
  | reset (id : Nat)     -- the clear of a partial reset (R379)
  | test
  | orphan               -- its job ended without a record (Table 4.9)
deriving DecidableEq, Repr

/-- A launch record in use (R186). -/
structure LaunchRec where
  purpose : Purpose
  ctx : Nat
  layer : W32
  operator : W32
  pidx : Nat             -- index of the packet that issued it (R339)
  await : List Nat       -- endpoints whose token is awaited
  held : List Nat        -- handle indices the command holds (R78)
  since : Nat
  late : List Nat := []  -- endpoints whose token did not come in time and is no longer waited for (R261)
deriving DecidableEq, Repr

/-- A launch lane (R186, Table 7.9). -/
structure Lane where
  recs : Table (Option LaunchRec)
  skipLast : Word
  recWait : List Nat     -- queues waiting at step 6, oldest first
deriving DecidableEq, Repr

/-- A table write or block message with a TAG that waits for a launch record: one hub run (R176, R186). `second` says that
the TAG stands in the second beat (R308) and not in beat 0 (R260). -/
structure BlockMsg where
  lane : Nat
  kind : Nat
  hub : Nat
  extra : Nat
  mask : Nat
  b0 : Nat
  rest : List Word
  second : Bool
  purpose : Purpose
  ctx : Nat
deriving DecidableEq, Repr

/-- A lane at reset. -/
def Lane.reset : Lane := { recs := [], skipLast := 0, recWait := [] }

/-- A slice's shared resources (R106, R135, R226, R383). -/
structure Slice where
  fragFree : Nat
  imgFree : Nat
  fragWait : List Nat
  imgWait : List Nat
  procs : List (Option (Nat × Nat))  -- queue and routine of each processor
  routineWait : List Nat
  code : List Byte              -- the slice part and the routine library in its processors' local memory (R382, R383)
  library : List Byte
  fwDigest : List Byte
  libDigest : List Byte
  svn : Nat
  paused : Bool
deriving DecidableEq, Repr

/-- A slice at reset: eight fragment buffers, 64 images, eight idle processors. -/
def Slice.reset : Slice :=
  { fragFree := 8, imgFree := 64, fragWait := [], imgWait := [],
    procs := [none, none, none, none, none, none, none, none], routineWait := [], code := [], library := [], fwDigest := [], libDigest := [],
    svn := 0, paused := false }

/-! ## The Watershed and the Saddle -/

/-- A resolved fence (R152, R164). -/
structure Fence where
  pa : Nat
  key : Nat
  home : Nat
  counting : Bool
  checked : Bool
  ceiling : Nat
  hostVis : Bool
deriving DecidableEq, Repr

/-- Wait states (Table 6.8). -/
inductive WState where
  | idle
  | arming
  | armed
  | unlinked
  | remote
deriving DecidableEq, Repr

/-- A waiter slot (Table 6.6): kind 0 WAIT_FENCE, 1 WAIT_COUNT, 2 WAIT_COUNT with CONSUME. -/
structure Waiter where
  st : WState
  kind : Nat
  target : Word
  fence : Fence
  line : Nat
  since : Nat            -- when the wait began
  busy : Option Nat      -- a remote watch answered with BUSY, and when
  seen : Word            -- the value of its word last read for it (Table 6.11)
deriving DecidableEq, Repr

/-- A fence with every field 0. -/
def Fence.zero : Fence :=
  { pa := 0, key := 0, home := 0, counting := false, checked := false, ceiling := 0, hostVis := false }

/-- A slot in IDLE. -/
def Waiter.reset : Waiter :=
  { st := .idle, kind := 0, target := 0, fence := Fence.zero, line := 0, since := 0, busy := none, seen := 0 }

/-- A waiter of a line, in arm order: a queue of this die or a watch of another (R166). -/
inductive LineWaiter where
  | queue (q : Nat)
  | watch (die q : Nat)
deriving DecidableEq, Repr

/-- What a memory access in flight is for: a request of a queue (R45), a fence atomic at an address, the re-read of a
fence-cache line, or a read of a waiter's fence word, `gone` where the waiter has gone. -/
inductive Access where
  | queue (q : Nat) (w : ChiWait)
  | atomic (pa : Nat)
  | line (l : Nat)
  | waiter (w : LineWaiter) (gone : Bool)
deriving DecidableEq, Repr

/-- A read of a fence's line that waits for the atomics in flight on the line (R160). -/
structure HeldRead where
  who : Access
  pa : Nat
  len : Nat
  key : Nat
deriving DecidableEq, Repr

/-- A fence-cache line entry (R158). -/
structure Line where
  used : Bool
  pa : Nat
  key : Nat
  home : Nat
  word : Nat
  value : Option Word
  waiters : List LineWaiter
  last : W32             -- Table 6.12
  reread : Bool          -- a re-read of the line is outstanding
  again : Bool           -- another re-read follows it: a SIG_NOTIFY came after it left (R156)
deriving DecidableEq, Repr

/-- A line entry that holds nothing. -/
def Line.reset : Line :=
  { used := false, pa := 0, key := 0, home := 0, word := 0, value := none, waiters := [], last := 0, reread := false, again := false }

/-- A remote watch (R166): its line, or none where it is UNLINKED, and when it was taken in. -/
structure RemoteWatch where
  die : Nat
  queue : Nat
  ctx : Nat
  kind : Nat
  target : Word
  fence : Fence
  line : Option Nat
  since : Nat
deriving DecidableEq, Repr

/-- The path on which a consume is taken (R162): step 1 of R159, step 4, a read with no line, or a pipeline evaluation. -/
inductive ConsumePath where
  | fast
  | recheck
  | noLine
  | pipeline
deriving DecidableEq, Repr

/-- What a fence atomic in flight is for (R149, R150, R162). -/
inductive AtomicUse where
  | signal
  | consume (w : LineWaiter) (path : ConsumePath)
  | compensate
deriving DecidableEq, Repr

/-- A fence atomic in flight. -/
structure Atomic where
  fence : Fence
  add : Bool
  operand : Word
  use : AtomicUse
  ctx : Nat
  last : W32             -- the signaller, Table 6.12
  job : Option Nat       -- the queue whose job issued it
  deferred : Bool        -- it is a deferred signal of that job (R132)
  remote : Option Nat    -- the die a FENCE_FAULT goes to (R166)
  issued : Bool          -- the request has left; a counting operation waits for its fence's order (R150, R162)
  pidx : Option Nat      -- packet index of a job's signal (R339)
deriving DecidableEq, Repr

/-- A view's probe result (R171, R410). -/
structure Probe where
  sel : Word
  value : Word
  info : Word
deriving DecidableEq, Repr

/-- A probe result at reset. -/
def Probe.reset : Probe := { sel := 0, value := 0, info := 0 }

/-- The Watershed (R158 to R172). -/
structure Wsh where
  waiters : Table Waiter
  lines : Table Line
  watches : List RemoteWatch
  atomics : List Atomic
  heldReads : List HeldRead        -- reads ordered after atomics in flight, oldest first (R160)
  syncCache : Table (Word × Word)  -- by context * 2^24 + sync ID: low and high halves of the entry
  wfgBase : Word
  wfgSize : W32
  wfgDone : Bool
  wfgRunning : Bool
  wfgDebug : Bool
  probes : Table Probe             -- by view copy
deriving DecidableEq, Repr

/-- A memory access that has not completed (R58): its port, what it is for, what it sends, and whether it has left. -/
structure Flight where
  port : Nat
  who : Access
  outs : List Out
  sent : Bool
deriving DecidableEq, Repr

/-- A barrier channel (Table 6.14). -/
structure Chan where
  valid : Bool
  part : Nat
  changing : Option (Bool × Nat)
  release : Bool
  all : Bool
  any : Bool
  armed : List Nat
  armedBy : List (Nat × Nat × Nat) -- endpoint, the queue and job (Queue.step) whose BARRIER_ARM last armed it (R331)
  episodes : Word
  owner : List Byte            -- recorded security owner; [] the operator (R281)
deriving DecidableEq, Repr

/-- A barrier channel at reset. -/
def Chan.reset : Chan :=
  { valid := false, part := 0, changing := none, release := false, all := false, any := false, armed := [],
    armedBy := [], episodes := 0, owner := [] }

/-! ## Instruction memories and Fans -/

/-- A LOAD_IMEM held for its targets' launch boundary (R198). -/
structure Load where
  q : Nat
  ctx : Nat
  lane : Nat
  targets : List Nat
  generation : Nat
  segs : List (Nat × Nat × Nat)  -- the body: address, key, bytes
  bodyBytes : Nat
  digest : List Byte
  layer : Nat
  operator : Nat
deriving DecidableEq, Repr

/-- A Fan (Table 7.9). -/
structure Fan where
  valid : Bool
  part : Nat
  changing : Option (Bool × Nat)
  streams : List Stream
  bytes : Word
  loop : List Byte               -- the loop buffer's contents: the latest 256 KiB of repeated segments fetched (R202)
  owner : List Byte              -- recorded security owner; [] the operator (R281)
deriving DecidableEq, Repr

/-- A Fan at reset. -/
def Fan.reset : Fan := { valid := false, part := 0, changing := none, streams := [], bytes := 0, loop := [], owner := [] }

/-! ## Graphs -/

/-- Version slot states (Table 8.5). -/
inductive GState where
  | free
  | storing
  | newest
  | superseded
deriving DecidableEq, Repr

/-- A version slot (R209): the image is the block-private version area (R210). -/
structure GSlot where
  version : Nat
  st : GState
  pins : Nat
  image : List Word
  bytes : Nat
  grans : List Nat
  key : Nat              -- the key ID of its area (R210)
  order : Nat            -- publication order, for the oldest SUPERSEDED
deriving DecidableEq, Repr

/-- A slot in FREE. -/
def GSlot.reset : GSlot := { version := 0, st := .free, pins := 0, image := [], bytes := 0, grans := [], key := 0, order := 0 }

/-- A graph record (R209). -/
structure Graph where
  slots : List GSlot
  last : Nat
  patching : Option Nat
deriving DecidableEq, Repr

/-! ## Partitions -/

/-- The members of one generation of a partition (R256, Table 10.1). -/
structure Members where
  cores : List (Nat × Nat × Nat)   -- X, Y, endpoint
  copies : List (Nat × Nat)        -- virtual index, endpoint
  links : List (Nat × Nat × Nat)   -- virtual index, endpoint, peer die
  chans : List (Nat × Nat)         -- rotation position, channel
deriving DecidableEq, Repr

/-- No member. -/
def Members.none : Members := { cores := [], copies := [], links := [], chans := [] }

/-- A measurement log entry, its 96 bytes (Table 11.10). -/
abbrev LogEntry := List Byte

/-- A partition record (R256) with its scheduling, regulation, sealing and power settings. -/
structure Part where
  active : Members
  activeGen : W32
  staged : Option (Members × W32)
  unacked : List Nat
  ackFault : Bool
  rotation : Nat
  swap : Option (Nat × W32)        -- the queue whose EPOCH_SWAP is pending and its generation
  swapLate : Option Nat            -- tokens of Table 10.4 awaited
  binder : Option Nat              -- the queue whose BIND or UNBIND awaits acknowledgement
  stageDue : Bool                  -- its STAGE waits for the clear of R307
  migrating : Option Nat           -- the queue whose channel UNBIND migrates
  migChans : List Nat              -- channels out of the rotation (R268)
  migNow : List Nat                -- those the present UNBIND names
  deferrals : Word
  ctrl : W32                       -- SCH_PART_CTRL
  cur : Option Nat
  sliceEnd : Nat
  minGbps : Table Nat
  maxOut : Nat
  sealed : Option (List Byte)      -- OWNER_ID
  log : List LogEntry
  chain : List Byte
  zeroNext : Nat                   -- zeroing rotation (R84)
  -- the Veld's side
  bounds : W32
  power : W32
  domain : Word
  mhz : Nat
  chosen : Nat
  raiseRun : Nat
  changing : Option Nat
  jobsFj : Nat                     -- accounts in fJ (log 16)
  idleFj : Nat
  layer : Option W32
  share : Option Nat               -- of R318, in fJ per window; none where no cap stands
  lastWin : Nat × Nat × Nat × Nat  -- the last window: dynamic and static part in fJ, MHz and voltage ratio (R319)
  hintDur : Option (W32 × Nat)     -- DURATION of a hint for a layer without an entry, in ns (R325)
  target5 : Option Nat
  target6 : Option (Nat × W32 × Nat) -- target, hinted layer, when the hint was taken
  layerWin : Nat × Nat × Nat × Nat   -- windows, dynamic, static, start time of the current layer
  proposals : List (Nat × Nat × Nat) -- die, MHz, time of its latest proposal
  epoch : Nat
  domMhz : Option Nat
  proposeAt : Nat
deriving DecidableEq, Repr

/-- A partition record at reset (Tables 10.8 and 12.3). -/
def Part.reset : Part :=
  { active := Members.none, activeGen := 0, staged := none, unacked := [], ackFault := false, rotation := 0,
    swap := none, swapLate := none, binder := none, stageDue := false, migrating := none, migChans := [], migNow := [], deferrals := 0,
    ctrl := 0x001F4028, cur := none, sliceEnd := 0, minGbps := [], maxOut := 0, sealed := none, log := [],
    chain := [], zeroNext := 0, bounds := 0x07FF0000, power := 0x00010000, domain := 0, mhz := 0, chosen := 0,
    raiseRun := 0, changing := none, jobsFj := 0, idleFj := 0, layer := none, share := none, lastWin := (0, 0, 0, 0), hintDur := none, target5 := none, target6 := none,
    layerWin := (0, 0, 0, 0), proposals := [], epoch := 0, domMhz := none, proposeAt := 0 }

/-! ## The scheduler's deadline state -/

/-- A deadline history entry (R221). -/
structure Hist where
  ctx : Nat
  gkey : Nat
  layer : Nat
  ewma : Nat
  count : Nat
deriving DecidableEq, Repr

/-- The deadline monitor (Table 8.9). -/
structure Deadlines where
  ctrl : W32
  last : Word
  predicted : Word
  deadline : Word
  outcome : Nat
  checks : Word
  switches : Word
  misses : Word
  hist : List Hist           -- most recently used first
deriving DecidableEq, Repr

/-! ## The Notch -/

/-- Key slot states (Table 11.17). -/
inductive KState where
  | free
  | active
  | draining
  | zeroed
deriving DecidableEq, Repr

/-- A key slot (R285). -/
structure KeySlot where
  st : KState
  weight : Bool
  ctx : Nat
  part : Nat
  channels : W32
  fingerprint : List Byte
  key : List Byte
  dests : List Nat           -- destinations that received the install
  destWait : List Nat
  dieWait : List (Nat × Nat × Nat) -- routes whose KEY_DRAINED is awaited: die, link, channel
  late : List Nat            -- destinations whose unit is reset for want of an acknowledgement (R291)
  requested : Bool           -- drain requests have been sent (R290 step 4)
  reqAt : Nat
  drainAt : Nat
  zeroAt : Nat
deriving DecidableEq, Repr

/-- A FREE slot. -/
def KeySlot.reset : KeySlot :=
  { st := .free, weight := false, ctx := 0, part := 0, channels := 0, fingerprint := [], key := [], dests := [],
    destWait := [], dieWait := [], late := [], requested := false, reqAt := 0, drainAt := 0, zeroAt := 0 }

/-- The requests the Notch makes of a requester through the encapsulated flow (Table 11.5). -/
inductive EncapReq where
  | getDigests
  | getCertificate
deriving DecidableEq, Repr

/-- An SPDM session (R293, R294). -/
structure Session where
  sid : Nat
  requester : Option (List Byte)
  established : Bool
  lastBeat : Nat
  encap : List EncapReq      -- the encapsulated requests of mutual authentication still out (R294)
  keys : Nat                 -- key updates applied
deriving DecidableEq, Repr

/-- A request of the security queue the Notch has queued (R296). -/
structure SecReq where
  words : List Word
  blob : List Byte
  sid : Nat
  partition : Nat
deriving DecidableEq, Repr

/-- The algorithms of Table 11.5. -/
inductive SpdmAlg where
  | ecdsaP384
  | sha384
  | secp384r1
  | aes256Gcm
deriving DecidableEq, Repr

/-- What the spec says a response of the Notch carries (R293 to R296, R305, R306). Its bytes follow DSP0274, which the
spec does not restate (log 7). -/
inductive SpdmRsp where
  | none
  | version (v : Nat)                                  -- SPDM 1.3 as 0x13
  | capabilities (transferSize maxMsgSize : Nat)
  | algorithms (l : List SpdmAlg)
  | digests (slot0 : List Byte)
  | certificate (chain : List Byte)
  | challengeAuth (slot0 sig : List Byte)
  | measurements (block sig : List Byte)
  | keyExchange (heartbeatS : Nat) (mutualAuth : List EncapReq) (sig : List Byte)
  | ack                                                -- FINISH, HEARTBEAT, KEY_UPDATE, END_SESSION
  | chunkSendAck
  | chunk (index : Nat) (bytes : List Byte) (last : Bool)
  | vendor (payload : List Byte)                       -- a status and what Table 11.7 adds
  | unsupported (code : Nat)                           -- ERROR, code UnsupportedRequest
  | refused                                            -- ERROR with a code the spec does not name
deriving DecidableEq, Repr

/-- The bytes of content in a response. -/
def SpdmRsp.content : SpdmRsp → List Byte
  | .digests d => d
  | .certificate c => c
  | .challengeAuth d g => d ++ g
  | .measurements b g => b ++ g
  | .vendor p => p
  | .none | .version _ | .capabilities _ _ | .algorithms _ | .keyExchange _ _ _ | .ack | .chunkSendAck | .chunk _ _ _
  | .unsupported _ | .refused => []

/-- The SPDM mailbox (Table 11.6). -/
structure Mailbox where
  owner : Option (Bool × Nat)  -- operator class, context
  lastAccess : Nat
  reqLen : Nat
  rspLen : Nat
  busy : Bool
  rspReady : Bool
  error : Bool
  data : Memory
  chunks : List Byte           -- a large request being assembled (R293)
  large : List Byte            -- the content of the latest response that is no chunk; CHUNK_GET reads it
  rsp : SpdmRsp                -- what the latest response carries
deriving DecidableEq, Repr

/-- The Notch (R281 to R310). -/
structure Notch where
  slots : Table KeySlot
  sessions : List Session
  mbx : Mailbox
  secQueue : List SecReq
  running : Option SecReq      -- the request whose entry the security queue executes
  blockKey : List Byte
  bootDigest : List Byte       -- the firmware digest the attestation key was derived with (R305)
  cert : List Byte             -- the device identity certificate (R305)
  staleKeys : List (Nat × List Nat) -- slots not FREE at a block reset, and their destinations (note 26)
  debugOpened : Bool
  attestReady : Bool
  logCapacity : Nat
deriving DecidableEq, Repr

/-! ## The Veld -/

/-- A learner entry (R324). -/
structure Learn where
  part : Nat
  layer : W32
  dyn : Nat
  stat : Nat
  dur : Nat
  mhz : Nat
  prev : Option (Nat × Nat)  -- an earlier duration and its frequency
deriving DecidableEq, Repr

/-- A register write that waits for the next window (R335): the register's offset, the partition or point selected when it
was written, the data and the bits written. -/
structure VldWrite where
  off : Nat
  sel : Nat
  data : Word
  cover : Word
deriving DecidableEq, Repr

/-- The Veld (Table 12.3). -/
structure Veld where
  capW : Nat
  rackW : Nat
  fallbackW : Nat
  ctrl : W32
  gain : W32
  fstep : Nat
  auxMhz : Nat
  floorMhz : Nat
  vsettle : Nat
  vnom : Nat
  vmargin : Nat
  uncore : W32
  model : List Word            -- compute, copy, link
  vf : List W32                -- 16 points
  rails : List (Nat × Nat)     -- first and last hub of each rail
  railMv : List Nat
  railReq : List (Nat × Nat)   -- rails with a request outstanding, and the voltage asked for
  rackStale : Bool
  lastRack : Nat
  alert : Bool
  releasing : Bool             -- R327 step 1 runs
  slow : Bool                  -- groups rise by one FSTEP per DWELL after an alert (R327 step 3)
  measCapping : Bool
  capUnreachable : Bool
  meas : Option (BitVec 20)    -- the current window's measurement
  measLast : BitVec 20
  est : BitVec 20
  overRun : List (Nat × Nat)      -- the run of R329: measurement and estimate of each window
  within : Nat
  conflict : Word
  learner : List Learn         -- most recently used first
  energyDie : Nat              -- accounts in fJ (log 16)
  idleDie : Nat
  overhead : Nat
  late : List VldWrite         -- writes since the last window, oldest first
deriving DecidableEq, Repr

/-! ## The Loess -/

/-- A layer counter entry (R353). -/
structure LayerCtr where
  ctx : Nat
  layer : W32
  operator : W32
  launches : Word
  engine : Nat × Nat
  energy : Nat                 -- fJ (log 16)
deriving DecidableEq, Repr

/-- An armed watch (R358). -/
structure Watch where
  ctx : Nat
  q : Nat
  tensor : Word × Word
  dump : Word × Word
  size : Nat
  base : Nat             -- Queue.step of the arming job
  step : Nat
deriving DecidableEq, Repr

/-- The owner of a trace session (R356). -/
inductive TraceOwner where
  | tenant (c : Nat)
  | operator
  | debug
deriving DecidableEq, Repr

/-- The trace unit (Table 13.12). -/
structure Trace where
  ctrl : W32
  base : Word
  size : Nat
  owner : Option TraceOwner
  lastOwner : Nat
  lastCtx : Nat
  stoppedFull : Bool
  written : Word
  dropped : Word
  buf : List (List Byte)       -- the trace buffer: what it holds once the drain has stopped
  gap : Nat                    -- records dropped since the last LOSS record
  gapAt : Nat
deriving DecidableEq, Repr

/-- The Loess (R343 to R363). -/
structure Loess where
  capBase : Word
  capSize : Nat
  capCount : W16
  haltHeld : Bool
  truncated : Bool
  halt : Word                  -- LOE_HALT
  trace : Trace
  layers : List LayerCtr       -- most recently used first
  watches : List Watch
deriving DecidableEq, Repr

/-! ## The Switchback, peers and debug -/

/-- Boot states (Table 14.6). -/
inductive Boot where
  | reset
  | stage (n : Nat)
  | recovery
  | ready
  | failed
  | halted
deriving DecidableEq, Repr

/-- A stage record (R370). -/
structure StageRec where
  result : Nat
  tStart : Nat
  tEnd : Nat
  countA : Nat
  countB : Nat
  code : Nat
  kept : Bool
  bootCount : Nat
  warm : Bool
deriving DecidableEq, Repr

/-- A stage without a record. -/
def StageRec.reset : StageRec :=
  { result := 0, tStart := 0, tEnd := 0, countA := 0, countB := 0, code := 0, kept := false, bootCount := 0, warm := false }

/-- The settings of Table 14.2 the block keeps for its stages. -/
structure Settings where
  ctx0 : List Nat              -- PARTITION, VA_BITS, SYNC_BITS, HANDLE_BITS, QUOTA
  map0 : List (Nat × Nat × Nat)
  queue0 : List Nat            -- RING, IDX, LOG2_SIZE, POLL, HOME, FLAGS, NTF_ADDR
  bind0 : List (Nat × Nat × Nat)
  regions : List Nat           -- capability table, stage records, spill, spill size
  sealedLog : Nat
  peer : List Nat              -- DIE, TWIN, DOMAIN_FIRST, DOMAIN_LAST
  routes : List (Nat × Nat × Nat) -- die, link endpoint index, link channel
  trainWaitMs : Nat
  spiDiv : Nat
  linkRetrain : List Word
deriving DecidableEq, Repr

/-- No settings read. -/
def Settings.reset : Settings :=
  { ctx0 := [0, 0, 0, 0, 0], map0 := [], queue0 := [0, 0, 0, 0, 0, 0, 0], bind0 := [], regions := [0, 0, 0, 0],
    sealedLog := 0, peer := [0, 0xFFFF, 0, 0], routes := [], trainWaitMs := 0, spiDiv := 8, linkRetrain := [0, 0] }

/-- A partial reset in progress (R379): for whom (a queue, or 2^18 + a key destination, R291), since when, its endpoints, the
commands whose abort tokens are awaited (endpoint, tag), and whether its clear has been sent. -/
structure ResetOp where
  id : Nat
  since : Nat
  eps : List Nat
  left : List (Nat × Nat)
  clearing : Bool
deriving DecidableEq, Repr

/-- The Switchback (R364 to R389). -/
structure Swb where
  boot : Boot
  warm : Bool
  result : Nat
  failStage : Nat
  bootCount : W32
  stageAt : Nat
  stages : List StageRec
  defects : List (Bool × Nat × Nat × Nat × Nat) -- DEFECT or CLEAR, kind, unit, stage, cause
  defectSkipped : Nat
  defectAt : Nat               -- records stored, valid or not: the first erased position
  fuses : Table W32
  settings : Settings
  avsBus : Bool
  fwImage : List Byte          -- image bytes of stage 1, or received by the recovery loader
  fwFlash : Option Nat         -- serial offset of the firmware region
  defectFlash : Nat            -- serial offset of the defect list
  certFlash : Nat × Nat        -- offset and size of the identity certificate
  fwActive : Option Nat        -- the queue whose FW_ACTIVATE is in progress
  fwTodo : List Nat            -- parts to activate: slices 0 to 7, the spine as 8
  fwNew : List Nat             -- parts activated in the current activation
  fwNext : List Byte           -- the verified image of the activation
  spineCode : List Byte        -- the spine part (R382)
  spineDigest : List Byte
  spiSrc : Word
  spiDst : W32
  spiLen : W32
  spiBusy : Bool
  spiDone : Bool
  spiError : Bool
  spiDiv : Nat
  spiMode : SpiMode            -- the transfer mode in force (R62)
  rcvCount : Nat
  rcvOver : Bool
  verified : Bool
  verifyFailed : Bool
  handback : Nat
  handbackBuf : Nat            -- entries written so far
  resetOps : List ResetOp      -- partial resets in progress
  kar : List Byte              -- the known-answer region read at stage 1 (R373)
  newDefects : List (Nat × Nat × Nat × Nat) -- units set DEFECT in this bring-up: kind, ID, stage, cause
  handbackWait : Bool          -- stage 7 waits for the twin's HANDBACK_END (R387)
  poolFill : Bool              -- stage 7 has bound BIND0 and handed the pools' memory to zeroing (R79)
deriving DecidableEq, Repr

/-- Twin states (Table 14.10). -/
inductive Twin where
  | absent
  | waiting
  | handing
  | paired
  | noTwin
deriving DecidableEq, Repr

/-- The peer and twin unit (Table 14.13). -/
structure Peer where
  twin : Twin
  hbSeen : Bool
  lastHb : Nat
  twinBoot : W32
  twinState : Nat                      -- STATE of the twin's latest TWIN_STATE; 0 none yet
  hold : Table Bool
  sentAt : Nat
  retrainHeld : List (Nat × Out)       -- link endpoint index and messages held for its retraining (R381)
  retraining : List (Nat × Nat)        -- link endpoint index and the queue that retrains it
  abortFrom : List (Nat × Nat)         -- die and context of a CONTEXT_ABORT not yet answered (R87)
deriving DecidableEq, Repr

/-- The management page (Table 16.10). -/
structure Mgt where
  winSel : W32
  winRefused : Bool
  lastRefused : Bool
  scratch : W32
  latch : Option (Nat × W32)           -- the register and its upper half (R411)
deriving DecidableEq, Repr

/-- Debug authentication states (Table 16.8). -/
inductive AuthState where
  | idle
  | challenged
  | checking (wasChallenged : Bool)
  | open
  | lockedOut
  | disabled
deriving DecidableEq, Repr

/-- The instructions of the test access port (R65): IDCODE, BYPASS, and the one that selects the IEEE 1687 network. -/
inductive TapIr where
  | idcode
  | bypass
  | network
deriving DecidableEq, Repr

/-- The debug page and the register access instrument (R414, R415). -/
structure Dbg where
  st : AuthState
  fails : Nat
  reason : Nat
  len : Nat
  nonce : List Byte
  data : Memory
  dr : BitVec 88                       -- what the next capture shows (Table 16.6)
  tap : TapIr                          -- the TAP's current instruction (R65)
deriving DecidableEq, Repr

/-! ## The whole block -/

/-- The state of the block. -/
structure State where
  /-- Commands waiting, first in, first out (log 1). -/
  pending : List Instr
  /-- BSN_TIMEBASE, in ns (R360). -/
  timebase : Word
  /-- The model's own counter: each free value taken reads it and advances it (log 5). -/
  freeCtr : Nat
  /-- What has left the output ports, oldest first (log 4). -/
  out : List Out
  /-- The model's own field: the 64-byte lines of memory that answer a write with RespErr DERR or NDERR (R45, log 36). -/
  badLines : List Nat
  pins : Pins
  bsn : Basin
  pages : Table Page
  /-- Selector registers, one copy for each view and tenant context (R410), keyed by Ops.selKey. -/
  sel : Table Word
  idIrqTarget : W32
  ntfTargets : Table Word
  ntfQueue : List Ntf
  queues : Table Queue
  jobs : Table (Option Job)
  slices : Table Slice
  ctxs : Table Context
  graphs : Table (Option Graph)        -- by context * 2^24 + handle index
  zeroing : List Zeroing
  withheld : List Nat
  allocWait : List AllocWaiter         -- who waits for zeroing, oldest first
  freeWait : List (Nat × Nat × Nat × Nat) -- upstream FREE in abort mode: endpoint, tag, context, handle index (R83)
  captbl : Word
  captblGen : W32
  capTab : List (List (Nat × List Byte)) -- the table's sections at its latest stable generation (R93)
  wsh : Wsh
  sad : Table Chan
  lanes : Table Lane
  patchLine : List (Nat × Nat)         -- graph record and queue of each GRAPH_PATCH that waits for another, in order (R211)
  calls : List Nat                     -- queues whose CALL_ROUTINE runs a routine, in the order the calls started (R229)
  slotWait : List Nat                  -- queues waiting at step 7, oldest first
  blockWait : List BlockMsg            -- the block's own messages waiting for a record, oldest first
  eps : Table Endpoint
  hubs : Table Hub
  chans : Table Channel
  loads : List Load
  fans : Table Fan
  parts : Table Part
  dl : Deadlines
  bwrCtrl : W32
  limits : Table Nat                   -- LIMIT of masters 0 to 523
  flights : List Flight                -- the block's own accesses in flight, oldest first (R58)
  ntc : Notch
  vld : Veld
  loe : Loess
  swb : Swb
  per : Peer
  mgt : Mgt
  dbg : Dbg
deriving DecidableEq, Repr

/-- Why a step stops with a fault. -/
inductive Fault where
  /-- Raised by the meanings of rows whose operand is a list of fixed length (a line, an entry, a nonce) when the list
  has another length: no port can carry such a command (log 6). Safe: the machine stops where the hardware has no such
  event. -/
  | portWidth
deriving DecidableEq, Repr

/-- Why a step is refused. -/
inductive Refusal where
  /-- Answered only by the arms of Dispatch.lean that have no meaning yet, with the row's mnemonic. Safe. -/
  | notModelled (mnemonic : String)
deriving DecidableEq, Repr

/-! ## Reset -/

/-- The Veld at reset (Table 12.3). -/
def Veld.reset : Veld :=
  { capW := 0, rackW := 0, fallbackW := 0, ctrl := 0x330A0A0F, gain := 0x00010000, fstep := 0x19, auxMhz := 0,
    floorMhz := 0, vsettle := 0x14, vnom := 0, vmargin := 0, uncore := 0, model := [0, 0, 0],
    vf := List.replicate 16 0, rails := [], railMv := [0, 0, 0, 0], railReq := [], rackStale := true, lastRack := 0,
    alert := false, releasing := false, slow := false, measCapping := false, capUnreachable := false,
    meas := none, measLast := 0, est := 0, overRun := [], within := 0, conflict := 0, learner := [], energyDie := 0,
    idleDie := 0, overhead := 0, late := [] }

/-- The trace unit at reset (Table 13.12). -/
def Trace.reset : Trace :=
  { ctrl := 0, base := 0, size := 0, owner := none, lastOwner := 0, lastCtx := 0, stoppedFull := false, written := 0,
    dropped := 0, buf := [], gap := 0, gapAt := 0 }

/-- The mailbox at reset (Table 11.6). -/
def Mailbox.reset : Mailbox :=
  { owner := none, lastAccess := 0, reqLen := 0, rspLen := 0, busy := false, rspReady := false, error := false,
    data := [], chunks := [], large := [], rsp := .none }

/-- The Notch at reset (Table 11.17). -/
def Notch.reset : Notch :=
  { slots := [], sessions := [], mbx := Mailbox.reset, secQueue := [], running := none, blockKey := [], bootDigest := [], cert := [], staleKeys := [],
    debugOpened := false, attestReady := false, logCapacity := 0 }

/-- The Watershed at reset (Table 6.13). -/
def Wsh.reset : Wsh :=
  { waiters := [], lines := [], watches := [], atomics := [], heldReads := [], syncCache := [], wfgBase := 0, wfgSize := 0,
    wfgDone := false, wfgRunning := false, wfgDebug := false, probes := [] }

/-- The Loess at reset (Table 13.12). -/
def Loess.reset : Loess :=
  { capBase := 0, capSize := 0, capCount := 0, haltHeld := false, truncated := false, halt := 0, trace := Trace.reset,
    layers := [], watches := [] }

/-- The Switchback at power-on (Table 14.13). -/
def Swb.reset : Swb :=
  { boot := .reset, warm := false, result := 0, failStage := 0, bootCount := 0, stageAt := 0,
    stages := List.replicate 8 StageRec.reset, defects := [], defectSkipped := 0, defectAt := 0, fuses := [],
    settings := Settings.reset, avsBus := false, fwImage := [], fwFlash := none, defectFlash := 0, certFlash := (0, 0),
    fwActive := none, fwTodo := [], fwNew := [], fwNext := [], spineCode := [], spineDigest := [], spiSrc := 0, spiDst := 0, spiLen := 0,
    spiBusy := false, spiDone := false, spiError := false, spiDiv := 8, spiMode := .m111, rcvCount := 0, rcvOver := false,
    verified := false, verifyFailed := false, handback := 0, handbackBuf := 0, resetOps := [], kar := [], newDefects := [], handbackWait := false,
    poolFill := false }

/-- The deadline monitor at reset (Table 8.9: SHIFT 0b011, MARGIN 0x20). -/
def Deadlines.reset : Deadlines :=
  { ctrl := 0x00000320, last := 0, predicted := 0, deadline := 0, outcome := 0, checks := 0, switches := 0, misses := 0,
    hist := [] }

/-- The machine while rst_por_n is asserted, as Table 2.x's reset columns and R406 give it: every register at the reset
value of its table. -/
def State.reset : State :=
  { pending := [], timebase := 0, freeCtr := 0, out := [], badLines := [],
    pins := { hfeAvail := false, pwrFloor := true, pwrWin := false, hbOut := false },
    bsn := { ctrl := 0x00320000, sliceAwake := 0, sliceWaking := 0, spineAwake := false, spineWaking := false,
             held := [], porAsserted := true, blkAsserted := false },
    pages := [], sel := [], idIrqTarget := 0x00000FFF, ntfTargets := [], ntfQueue := [], queues := [], jobs := [],
    slices := [], ctxs := [], graphs := [], zeroing := [], withheld := [], allocWait := [], freeWait := [], captbl := 0,
    captblGen := 0, capTab := [], wsh := Wsh.reset, sad := [], lanes := [], patchLine := [], calls := [], slotWait := [], blockWait := [], eps := [], hubs := [], chans := [],
    loads := [], fans := [], parts := [], dl := Deadlines.reset, bwrCtrl := 0x320400C0, limits := [], flights := [],
    ntc := Notch.reset, vld := Veld.reset, loe := Loess.reset, swb := Swb.reset,
    per := { twin := .noTwin, hbSeen := false, lastHb := 0, twinBoot := 0, twinState := 0, hold := [], sentAt := 0,
             retrainHeld := [], retraining := [], abortFrom := [] },
    mgt := { winSel := 0, winRefused := false, lastRefused := false, scratch := 0, latch := none },
    dbg := { st := .idle, fails := 0, reason := 0, len := 0, nonce := [], data := [], dr := 0, tap := .idcode } }

end Sys2Proof.Machine
end

