-- ==== Sys2Proof/Machine/Chi.lean ====
section
/-! DEFINITION. The CHI requests that a memory access of State.out becomes on its port (R41, R42, Table 2.8). The Allocate
hint is not kept (log 4). -/

namespace Sys2Proof.Machine

/-- The transactions of Table 2.8. -/
inductive ChiOp where
  | readNoSnp
  | readOnce
  | writeNoSnpFull
  | writeNoSnpPtl
  | writeUniqueFull
  | writeUniquePtl
  | atomicLoadUmax
  | atomicLoadAdd
deriving DecidableEq, Repr

/-- A request (R41, R42): its port, transaction, the address and size of the 8-byte words it covers, the first byte
enabled and how many are, and its attributes. -/
structure ChiReq where
  port : Nat
  op : ChiOp
  pa : Nat
  size : Nat
  first : Nat
  bytes : Nat
  rsvdc : BitVec 16
  device : Bool
  ewa : Bool
  cacheable : Bool
  snpAttr : Bool
  order : BitVec 2
  expCompAck : Bool
deriving DecidableEq, Repr

/-- SnpAttr: 1 for ReadOnce and the WriteUnique forms (R42). -/
def ChiOp.snpAttr : ChiOp → Bool
  | .readOnce => true
  | .writeUniqueFull => true
  | .writeUniquePtl => true
  | _ => false

/-- A request with the attributes of R42: MemAttr Normal with Device 0, EWA 1 and Cacheable 1, Order 0b00, ExpCompAck 0,
and the key ID in RSVDC[11:0] with RSVDC[15:12] 0. -/
def chiReq (port : Nat) (op : ChiOp) (pa size first bytes key : Nat) : ChiReq :=
  { port := port, op := op, pa := pa, size := size, first := first, bytes := bytes,
    rsvdc := BitVec.ofNat 16 (key % 2 ^ 12), device := false, ewa := true, cacheable := true, snpAttr := op.snpAttr,
    order := 0, expCompAck := false }

/-- A physical address lies in a page that some context has mapped HOST_VISIBLE. -/
def hostVisible (s : State) (pa : Nat) : Bool :=
  s.ctxs.any (fun c => c.2.pages.any (fun p => p.2.hostVis && p.2.gran == pa / 65536))

/-- A range of bytes as ranges that each lie in one 64-byte line; `n` bounds their number. -/
def lineParts : Nat → Nat → Nat → List (Nat × Nat)
  | 0, _, _ => []
  | n + 1, pa, len =>
    if len = 0 then []
    else
      let k := min len (64 - pa % 64)
      (pa, k) :: lineParts n (pa + k) (len - k)

/-- The 8-byte words that bytes within one line touch: their address and total size. -/
def wordsOfPart (x : Nat × Nat) : Nat × Nat := (x.1 / 8 * 8, (x.1 + x.2 + 7) / 8 * 8 - x.1 / 8 * 8)

/-- The writes of bytes within one line: a whole line is one Full; a part is a Ptl of 8 to 56 bytes, or two where it
touches all eight words (Table 2.8). -/
def writeParts (x : Nat × Nat) : List (Nat × Nat) :=
  if x.2 = 64 then [x]
  else if (wordsOfPart x).2 = 64 then
    let a := x.1 / 64 * 64 + 56
    [(x.1, a - x.1), (a, x.1 + x.2 - a)]
  else [x]

/-- The read of a range. -/
def readOpOf (vis : Bool) : ChiOp := if vis then .readOnce else .readNoSnp

/-- The write of a range: Full for a whole line. -/
def writeOpOf (vis : Bool) (bytes : Nat) : ChiOp :=
  if vis then (if bytes = 64 then .writeUniqueFull else .writeUniquePtl)
  else if bytes = 64 then .writeNoSnpFull else .writeNoSnpPtl

/-- A request for bytes within one line. -/
def partReq (port key : Nat) (op : ChiOp) (x : Nat × Nat) : ChiReq :=
  let w := wordsOfPart x
  chiReq port op w.1 w.2 (x.1 - w.1) x.2 key

/-- The requests of an access, in address order; none for what is no memory access. -/
def chiReqs : Out → List ChiReq
  | .chiRead port pa len key vis => (lineParts len pa len).map (partReq port key (readOpOf vis))
  | .chiWrite port pa key vis bytes =>
    ((lineParts bytes.length pa bytes.length).flatMap writeParts).map (fun x => partReq port key (writeOpOf vis x.2) x)
  | .chiAtomic port pa key add _ => [chiReq port (if add then .atomicLoadAdd else .atomicLoadUmax) pa 8 0 8 key]
  | _ => []

end Sys2Proof.Machine
end

