-- ==== Sys2Proof/Machine/Flags.lean ====
section
/-! DEFINITION. Status codes (Table 13.3) and the kinds of outcome they have (Table 13.2). -/

namespace Sys2Proof.Machine

def ST_OK : Status := 0x0000
def ST_ENTRY_FORMAT : Status := 0x0101
def ST_ENTRY_SEQUENCE : Status := 0x0102
def ST_INDEX_RANGE : Status := 0x0103
def ST_FRAGMENT_FORMAT : Status := 0x0104
def ST_FRAGMENT_CRC : Status := 0x0105
def ST_PACKET_OPCODE : Status := 0x0106
def ST_PACKET_LENGTH : Status := 0x0107
def ST_PACKET_RESERVED : Status := 0x0108
def ST_PACKET_FIELD : Status := 0x0109
def ST_NEST_UNMATCHED : Status := 0x010A
def ST_NEST_DEPTH : Status := 0x010B
def ST_CONST_RANGE : Status := 0x010C
def ST_CALL_SPACE : Status := 0x010D
def ST_QUEUE_PARAM : Status := 0x0110
def ST_QUEUE_BUSY : Status := 0x0111
def ST_POLL_BUDGET : Status := 0x0112
def ST_PACKET_PRIVILEGE : Status := 0x0201
def ST_QUERY_DENIED : Status := 0x0202
def ST_FAN_NOT_OWNED : Status := 0x0203
def ST_BARRIER_CHANNEL : Status := 0x0204
def ST_TRANSLATION_FAULT : Status := 0x0301
def ST_ACCESS_DENIED : Status := 0x0302
def ST_FENCE_NOT_SYNC : Status := 0x0303
def ST_OBJECT_INVALID : Status := 0x0304
def ST_OBJECT_STALE : Status := 0x0305
def ST_OBJECT_RANGE : Status := 0x0306
def ST_GRID_RANGE : Status := 0x0307
def ST_SPAD_RANGE : Status := 0x0308
def ST_MEMORY_ERROR : Status := 0x0309
def ST_ALLOC_SIZE : Status := 0x0310
def ST_ALLOC_VA_BUSY : Status := 0x0311
def ST_ALLOC_HANDLES : Status := 0x0312
def ST_ALLOC_QUOTA : Status := 0x0313
def ST_ALLOC_NO_SPACE : Status := 0x0314
def ST_SYNC_INVALID : Status := 0x0401
def ST_FENCE_KIND : Status := 0x0402
def ST_FENCE_REGRESS : Status := 0x0403
def ST_FENCE_UNDERFLOW : Status := 0x0404
def ST_FENCE_OVERFLOW : Status := 0x0405
def ST_WAIT_CYCLE : Status := 0x0406
def ST_LAUNCH_DESC : Status := 0x0501
def ST_LAUNCH_SEGMENTS : Status := 0x0502
def ST_IMEM_GENERATION : Status := 0x0503
def ST_ENGINE_ILLEGAL : Status := 0x0504
def ST_ENGINE_MEMORY : Status := 0x0505
def ST_ENGINE_FAULT : Status := 0x0506
def ST_IMEM_SIZE : Status := 0x0507
def ST_IMEM_BUSY : Status := 0x0508
def ST_CONTAINER_FORMAT : Status := 0x0509
def ST_CONTAINER_DIGEST : Status := 0x050A
def ST_FAN_GROUP : Status := 0x050B
def ST_UPSTREAM_BUSY : Status := 0x050C
def ST_SYNC_OP_RESERVED : Status := 0x050D
def ST_PARTITION_INVALID : Status := 0x0520
def ST_BIND_LIST : Status := 0x0521
def ST_UNIT_BOUND : Status := 0x0522
def ST_UNIT_STATE : Status := 0x0523
def ST_BIND_FAULT : Status := 0x0524
def ST_EPOCH_GENERATION : Status := 0x0525
def ST_EPOCH_INVALID : Status := 0x0526
def ST_SHARES_PARAM : Status := 0x0527
def ST_CHANNEL_PINNED : Status := 0x0528
def ST_SELFTEST_FAILED : Status := 0x0529
def ST_RETRAIN_FAILED : Status := 0x052A
def ST_CONTEXT_LOST : Status := 0x0601
def ST_ABORTED : Status := 0x0602
def ST_ABORTED_FREE : Status := 0x0603
def ST_CONTEXT_INVALID : Status := 0x0604
def ST_CONTEXT_BUSY : Status := 0x0605
def ST_NO_PROGRESS : Status := 0x0606
def ST_KEY_SLOT : Status := 0x0701
def ST_KEY_UNWRAP : Status := 0x0702
def ST_KEY_BINDING : Status := 0x0703
def ST_KEY_REVOKED : Status := 0x0704
def ST_KEY_ABSENT : Status := 0x0705
def ST_SEAL_DENIED : Status := 0x0706
def ST_MEASURE_FULL : Status := 0x0707
def ST_REG_CHANNEL : Status := 0x0801
def ST_REG_ADMISSION : Status := 0x0802
def ST_GRAPH_NOT_STORED : Status := 0x0901
def ST_GRAPH_VERSION : Status := 0x0902
def ST_GRAPH_TABLE_FULL : Status := 0x0903
def ST_GRAPH_VERSIONS_FULL : Status := 0x0904
def ST_GRAPH_PATCH : Status := 0x0905
def ST_GRAPH_IMAGE : Status := 0x0906
def ST_ROUTINE_UNKNOWN : Status := 0x0910
def ST_ROUTINE_PARAM : Status := 0x0911
def ST_WATCH_FULL : Status := 0x0920
def ST_INTERNAL_ECC : Status := 0x0F01
def ST_FW_IMAGE : Status := 0x0F02
def ST_FW_BUSY : Status := 0x0F03

/-- Statuses whose failure in a kernel queue's job halts the block with CAUSE 2: failures of R74, R76, R78 and R126
(Table 13.5). -/
def accessStatus (st : Status) : Bool :=
  st == ST_TRANSLATION_FAULT || st == ST_ACCESS_DENIED || st == ST_FENCE_NOT_SYNC || st == ST_OBJECT_INVALID ||
  st == ST_OBJECT_STALE || st == ST_OBJECT_RANGE

end Sys2Proof.Machine
end

