-- ==== Sys2Proof/Machine/Ops.lean ====
section
/-! DEFINITION. The operations every family shares: reading and writing the block's arrays, counters, errors and
interrupts, messages on the ports, addresses, handles and the memory operands of a step. -/

namespace Sys2Proof.Machine

/-- What a command answers. -/
abbrev Result := Host.Outcome State Fault Refusal

/-! ## Pages (Table 16.1) -/

def pgID : Nat := 0x00
def pgHFE : Nat := 0x01
def pgSTP : Nat := 0x02
def pgDBL : Nat := 0x03
def pgFET : Nat := 0x04
def pgPKD (k : Nat) : Nat := 0x08 + k
def pgDSP (k : Nat) : Nat := 0x10 + k
def pgWSH : Nat := 0x18
def pgSAD : Nat := 0x19
def pgLCH : Nat := 0x1A
def pgECP : Nat := 0x1B
def pgFAN : Nat := 0x1C
def pgIMX : Nat := 0x1D
def pgXLT : Nat := 0x1E
def pgOBJ : Nat := 0x1F
def pgSCH : Nat := 0x20
def pgBWR : Nat := 0x21
def pgNTC : Nat := 0x22
def pgVLD : Nat := 0x23
def pgLOE : Nat := 0x24
def pgSWB : Nat := 0x25
def pgBSN : Nat := 0x26
def pgPER : Nat := 0x27
def pgMGT : Nat := 0x28
def pgDBG : Nat := 0x29

/-! ## The arrays -/

/-- A unit's common registers. -/
def State.page (s : State) (p : Nat) : Page := tget Page.reset s.pages p

def State.setPage (s : State) (p : Nat) (v : Page) : State := { s with pages := tset Page.reset s.pages p v }

/-- A queue record. -/
def State.queue (s : State) (q : Nat) : Queue := tget Queue.reset s.queues q

def State.setQueue (s : State) (q : Nat) (v : Queue) : State := { s with queues := tset Queue.reset s.queues q v }

/-- The job of a queue, if one is in flight. -/
def State.job (s : State) (q : Nat) : Option Job := tget none s.jobs q

def State.setJob (s : State) (q : Nat) (v : Option Job) : State := { s with jobs := tset none s.jobs q v }

/-- A slice's shared resources. -/
def State.slice (s : State) (k : Nat) : Slice := tget Slice.reset s.slices k

def State.setSlice (s : State) (k : Nat) (v : Slice) : State := { s with slices := tset Slice.reset s.slices k v }

/-- A context record. -/
def State.ctx (s : State) (c : Nat) : Context := tget Context.reset s.ctxs c

def State.setCtx (s : State) (c : Nat) (v : Context) : State := { s with ctxs := tset Context.reset s.ctxs c v }

/-- A graph record, by context and handle index (R209). -/
def graphKey (c idx : Nat) : Nat := c * 2 ^ 24 + idx

def State.graph (s : State) (g : Nat) : Option Graph := tget none s.graphs g

def State.setGraph (s : State) (g : Nat) (v : Option Graph) : State := { s with graphs := tset none s.graphs g v }

/-- A waiter slot. -/
def State.waiter (s : State) (q : Nat) : Waiter := tget Waiter.reset s.wsh.waiters q

def State.setWaiter (s : State) (q : Nat) (v : Waiter) : State :=
  { s with wsh := { s.wsh with waiters := tset Waiter.reset s.wsh.waiters q v } }

/-- A fence-cache line entry. -/
def State.line (s : State) (l : Nat) : Line := tget Line.reset s.wsh.lines l

def State.setLine (s : State) (l : Nat) (v : Line) : State :=
  { s with wsh := { s.wsh with lines := tset Line.reset s.wsh.lines l v } }

/-- A barrier channel. -/
def State.barrier (s : State) (c : Nat) : Chan := tget Chan.reset s.sad c

def State.setBarrier (s : State) (c : Nat) (v : Chan) : State := { s with sad := tset Chan.reset s.sad c v }

/-- A launch lane. -/
def State.lane (s : State) (k : Nat) : Lane := tget Lane.reset s.lanes k

def State.setLane (s : State) (k : Nat) (v : Lane) : State := { s with lanes := tset Lane.reset s.lanes k v }

/-- An endpoint. -/
def State.ep (s : State) (e : Nat) : Endpoint := tget Endpoint.reset s.eps e

def State.setEp (s : State) (e : Nat) (v : Endpoint) : State := { s with eps := tset Endpoint.reset s.eps e v }

/-- A cluster hub. -/
def State.hub (s : State) (h : Nat) : Hub := tget Hub.reset s.hubs h

def State.setHub (s : State) (h : Nat) (v : Hub) : State := { s with hubs := tset Hub.reset s.hubs h v }

/-- A memory channel. -/
def State.chan (s : State) (m : Nat) : Channel := tget Channel.reset s.chans m

def State.setChan (s : State) (m : Nat) (v : Channel) : State := { s with chans := tset Channel.reset s.chans m v }

/-- A Fan. -/
def State.fan (s : State) (n : Nat) : Fan := tget Fan.reset s.fans n

def State.setFan (s : State) (n : Nat) (v : Fan) : State := { s with fans := tset Fan.reset s.fans n v }

/-- A partition record. -/
def State.part (s : State) (p : Nat) : Part := tget Part.reset s.parts p

def State.setPart (s : State) (p : Nat) (v : Part) : State := { s with parts := tset Part.reset s.parts p v }

/-- A key slot. -/
def State.slot (s : State) (k : Nat) : KeySlot := tget KeySlot.reset s.ntc.slots k

def State.setSlot (s : State) (k : Nat) (v : KeySlot) : State :=
  { s with ntc := { s.ntc with slots := tset KeySlot.reset s.ntc.slots k v } }

/-- The timebase in ns. -/
def State.now (s : State) : Nat := s.timebase.toNat

/-! ## Free values (log 5) -/

/-- The model's counter as it stands, and the state with it advanced. -/
def State.takeFree (s : State) : Nat × State := (s.freeCtr, { s with freeCtr := s.freeCtr + 1 })

/-- n free bytes. -/
def freeBytes (f n : Nat) : List Byte := (List.range n).map (Config.freeByte f)

/-! ## Ports -/

/-- A message leaves a port. -/
def emit (s : State) (o : Out) : State := { s with out := s.out ++ [o] }

/-- Several messages leave, in order. -/
def emits (s : State) (os : List Out) : State := { s with out := s.out ++ os }

/-! ## Counters, notifications, errors, interrupts -/

/-- Standard counter n of a page counts k events; it wraps at 2^64 (Table 16.2). -/
def count (s : State) (p n : Nat) (k : Nat := 1) : State :=
  let pg := s.page p
  s.setPage p { pg with cnt := pg.cnt.modify n (fun c => c + BitVec.ofNat 64 k) }

/-- A message is presented on hfe_ntf; one already waiting for the same queue or page carries the later data and the two
coalesce (R38, R118, R403). -/
def presentNtf (s : State) (n : Ntf) : State :=
  if s.ntfQueue.any (fun x => x.src == n.src) then
    count { s with ntfQueue := s.ntfQueue.map (fun x => if x.src == n.src then { x with data := n.data } else x) } pgHFE 3
  else { s with ntfQueue := s.ntfQueue ++ [n] }

/-- The address of a notification target (R118). -/
def ntfAddr (s : State) (t : Nat) : Word := tget 0 s.ntfTargets t

/-- The interrupt message of a page, if ID_IRQ_TARGET.ENABLE is 1 (R403). -/
def presentIrq (s : State) (p : Nat) : State :=
  if s.idIrqTarget.getLsbD 31 then
    presentNtf s { src := .page p, addr := ntfAddr s (s.idIrqTarget.toNat % 2 ^ 12), ctx := 0,
                   data := p * 2 ^ 18 + 0x3FFFF }
  else s

/-- IRQ_STATUS bits set; the page's message is presented when (IRQ_STATUS AND IRQ_ENABLE) leaves 0 (R401, R403). -/
def raiseIrq (s : State) (p : Nat) (bits : W32) : State :=
  let pg := s.page p
  let s1 := s.setPage p { pg with irqStatus := pg.irqStatus ||| bits }
  if pg.irqStatus &&& pg.irqEnable = 0 ∧ (pg.irqStatus ||| bits) &&& pg.irqEnable ≠ 0 then presentIrq s1 p else s1

/-- An ERR_STATUS bit sets and ERR_ADDR takes the latest error's address; IRQ_STATUS follows a change from 0 (Table
16.2). -/
def setErr (s : State) (p bit : Nat) (addr : Nat) : State :=
  let pg := s.page p
  let s1 := s.setPage p { pg with errStatus := pg.errStatus ||| BitVec.ofNat 32 (2 ^ bit), errAddr := BitVec.ofNat 64 addr }
  if pg.errStatus.getLsbD bit then s1 else raiseIrq s1 p (BitVec.ofNat 32 (2 ^ bit))

/-! ## Halt, boot, domains -/

/-- The block is halted (R342). -/
def State.halted (s : State) : Bool := s.loe.halt.getLsbD 63

/-- The block runs: it is out of reset, past bring-up and not halted. -/
def State.running (s : State) : Bool := s.swb.boot == .ready && !s.halted

/-- A slice accepts work. -/
def sliceUp (s : State) (k : Nat) : Bool := s.bsn.sliceAwake.getLsbD k

/-- A wake event for the spine (R15). -/
def wakeSpine (s : State) : State :=
  if s.bsn.spineAwake then s else { s with bsn := { s.bsn with spineWaking := true } }

/-- A wake event for slice k, which also wakes the spine (R15). -/
def wakeSlice (s : State) (k : Nat) : State :=
  let s1 := wakeSpine s
  if sliceUp s1 k then s1
  else { s1 with bsn := { s1.bsn with sliceWaking := s1.bsn.sliceWaking ||| BitVec.ofNat 8 (2 ^ k) } }

/-- An event for the spine: it happens where the spine is awake; otherwise it wakes the spine and is held until it accepts
work (R15). -/
def spineEvent (s : State) (h : Held) (f : State → State) : State :=
  if s.bsn.spineAwake then f s
  else wakeSpine { s with bsn := { s.bsn with held := s.bsn.held ++ [h] } }

/-! ## Memory operands of a step (R45, log 2) -/

/-- A byte of the view. -/
def mvByte (m : MemView) (a : Nat) : Option Byte := (m.find? (fun c => c.1 == a)).map (·.2)

/-- n bytes at a physical address; none where a read answered with an error. -/
def mvRead (m : MemView) (a n : Nat) : Option (List Byte) := (List.range n).mapM (fun i => mvByte m (a + i))

/-- A range of memory overlaps a channel whose retraining failed: its controller completes every transaction with NDERR
(R380). -/
def chanFailed (s : State) (pa n : Nat) : Bool :=
  s.chans.any (fun e => e.2.failed && decide (e.2.base ≤ (pa + n - 1) / 65536) && decide (pa / 65536 < e.2.base + e.2.granules))

/-- A write of n bytes at a physical address is answered with an error (R45, log 36). -/
def writeFails (s : State) (pa n : Nat) : Bool :=
  decide (0 < n) &&
  (s.badLines.any (fun l => decide (pa / 64 ≤ l) && decide (l ≤ (pa + n - 1) / 64)) || chanFailed s pa n)

/-- n bytes at a physical address as the memory system returns them. -/
def memRead (s : State) (m : MemView) (a n : Nat) : Option (List Byte) := if chanFailed s a n then none else mvRead m a n

/-! ## Ports of an access (R43) -/

/-- The port of an access made for a queue: its home slice's. -/
def portQ (s : State) (q : Nat) : Nat := (s.queue q).home

/-- The port of a spine access made for no queue. -/
def portSpine (pa : Nat) : Nat := bitsN pa 8 6

/-! ## Accesses in flight (R58) -/

/-- The limit on a memory port's outstanding transactions: 16 until its first limit (R58). -/
def portLimit (s : State) (k : Nat) : Nat := tget 16 s.limits (512 + k)

/-- The accesses of a port that have left and not completed. An access of several lines sends them one after another, so
that each access has one transaction outstanding (log 40). -/
def portBusy (s : State) (k : Nat) : Nat := (s.flights.filter (fun f => f.port == k && f.sent)).length

/-- A new access may leave at once: the port is below its limit and no earlier access waits. -/
def portRoom (s : State) (k : Nat) : Bool :=
  decide (portBusy s k < portLimit s k) && s.flights.all (fun f => f.port != k || f.sent)

/-- An access leaves, or waits for its port. -/
def issue (s : State) (k : Nat) (who : Access) (outs : List Out) : State :=
  if portRoom s k then emits { s with flights := s.flights ++ [⟨k, who, outs, true⟩] } outs
  else { s with flights := s.flights ++ [⟨k, who, outs, false⟩] }

/-- The first `n` waiting accesses of a port leave: the accesses as they then stand, and what leaves. -/
def leavePort (k : Nat) : Nat → List Flight → List Flight × List Out
  | _, [] => ([], [])
  | n, f :: fs =>
    if f.port = k ∧ !f.sent ∧ 0 < n then
      let r := leavePort k (n - 1) fs
      ({ f with sent := true } :: r.1, f.outs ++ r.2)
    else
      let r := leavePort k n fs
      (f :: r.1, r.2)

/-- A port below its limit lets waiting accesses leave. -/
def releasePort (s : State) (k : Nat) : State :=
  let r := leavePort k (portLimit s k - portBusy s k) s.flights
  emits { s with flights := r.1 } r.2

/-- The access that is for `who` has completed. -/
def landed (s : State) (who : Access) : State :=
  match s.flights.find? (fun f => f.who == who && f.sent) with
  | none => s
  | some f => releasePort { s with flights := s.flights.erase f } f.port

/-- An access that received RetryAck leaves again (R45). -/
def retry (s : State) (who : Access) : State :=
  match s.flights.find? (fun f => f.who == who && f.sent) with
  | none => s
  | some f => emits s f.outs

/-- An access for `who` has left and not completed. -/
def inFlight (s : State) (who : Access) : Bool := s.flights.any (fun f => f.who == who && f.sent)

/-! ## Key IDs (R286, R290) -/

/-- A context's ACTIVE MEMORY slot whose mask holds a channel (Table 11.3). -/
def memKey (s : State) (c chan : Nat) : Option Nat :=
  (s.ntc.slots.find? (fun e => e.2.st == .active && !e.2.weight && e.2.ctx == c && e.2.channels.getLsbD chan)).map (·.1)

/-- A key that is being drained or has been zeroed: the block's ports issue no request under it (R290 step 1). -/
def keyStopped (s : State) (k : Nat) : Bool := decide (2 ≤ k) && ((s.slot k).st == .draining || (s.slot k).st == .zeroed)

/-- The channel of a granule. -/
def chanOf (s : State) (g : Nat) : Option Nat :=
  (s.chans.find? (fun e => e.2.base ≤ g && g < e.2.base + e.2.granules)).map (·.1)

/-- The key ID of a block-private area kept for a context (R163, R210): the context's MEMORY key on the area's channel, or
0x000 (log 43). -/
def areaKey (s : State) (c pa : Nat) : Nat :=
  match chanOf s (pa / 65536) with
  | some m => (memKey s c m).getD 0
  | none => 0

/-! ## Address spaces (R71 to R74) -/

/-- The end of a context's address space. -/
def vaEnd (c : Context) : Nat := 2 ^ (42 + c.vaBits)

/-- The mapped page that holds an address. -/
def pageOf (c : Context) (va : Nat) : Option PageEntry :=
  (c.pages.find? (fun e => e.1 == va / 65536)).map (·.2)

/-- The physical address of a mapped virtual address. -/
def physOf (e : PageEntry) (va : Nat) : Nat := e.gran * 65536 + va % 65536

/-- The 64 KiB page numbers a range of bytes touches. -/
def pagesOf (va n : Nat) : List Nat :=
  if n = 0 then [] else (List.range ((va + n - 1) / 65536 - va / 65536 + 1)).map (va / 65536 + ·)

/-- The first two checks of Table 3.5 over a range: ST_OK where both pass. A page under a key that is being revoked does
not resolve (R289). -/
def checkRange (c : Context) (va n : Nat) (write : Bool) : Status :=
  if n > 0 ∧ vaEnd c < va + n then ST_TRANSLATION_FAULT
  else
    let es := (pagesOf va n).map (fun p => pageOf c (p * 65536))
    if es.any Option.isNone then ST_TRANSLATION_FAULT
    else if es.any (fun e => match e with | some x => c.revoked.contains (x.home, x.key) | none => false) then ST_KEY_REVOKED
    else if write && es.any (fun e => match e with | some x => !x.write | none => false) then ST_ACCESS_DENIED
    else ST_OK

/-- The checks of Table 3.5 for a fence word. -/
def checkFenceWord (c : Context) (va : Nat) (write : Bool) : Status :=
  let st := checkRange c va 8 write
  if st ≠ ST_OK then st
  else if va % 8 ≠ 0 then ST_FENCE_NOT_SYNC
  else match pageOf c va with
    | some e => if e.sync then ST_OK else ST_FENCE_NOT_SYNC
    | none => ST_TRANSLATION_FAULT

/-- A mapped range as pieces (physical address, key ID, bytes), one for each page it touches, in address order. -/
def pieces (c : Context) (va n : Nat) : List (Nat × Nat × Nat) :=
  (pagesOf va n).filterMap (fun p =>
    (pageOf c (p * 65536)).map (fun e =>
      let lo := max va (p * 65536)
      let hi := min (va + n) ((p + 1) * 65536)
      (physOf e lo, e.key, hi - lo)))

/-- A segment takes in the pieces that follow it while they are physically contiguous, share its key ID, and leave its
length below the 32 bits of a segment's LENGTH (R179, log 45). -/
def mergeFrom (g : Nat × Nat × Nat) : List (Nat × Nat × Nat) → List (Nat × Nat × Nat)
  | [] => [g]
  | x :: rest =>
    if g.1 + g.2.2 = x.1 ∧ g.2.1 = x.2.1 ∧ g.2.2 + x.2.2 < 2 ^ 32 then mergeFrom (g.1, g.2.1, g.2.2 + x.2.2) rest
    else g :: mergeFrom x rest

/-- Neighbouring pieces that are physically contiguous and share a key ID merge into one segment (R179). -/
def mergeSegs : List (Nat × Nat × Nat) → List (Nat × Nat × Nat)
  | [] => []
  | g :: rest => mergeFrom g rest

/-- The segments of a mapped range. -/
def segsOf (c : Context) (va n : Nat) : List (Nat × Nat × Nat) := mergeSegs (pieces c va n)

/-- The bytes of a list of segments as a read returns them. -/
def readSegs (m : MemView) : List (Nat × Nat × Nat) → Option (List Byte)
  | [] => some []
  | (a, _, n) :: rest =>
    match mvRead m a n, readSegs m rest with
    | some x, some y => some (x ++ y)
    | _, _ => none

/-- The bytes of a list of segments as the memory system returns them; none where a read answered with an error. -/
def readPieces (s : State) (m : MemView) (ps : List (Nat × Nat × Nat)) : Option (List Byte) :=
  if ps.any (fun p => chanFailed s p.1 p.2.2) then none else readSegs m ps

/-- The counters of a resolution that failed (Table 3.12). -/
def countXlt (s : State) (st : Status) : State :=
  if st = ST_TRANSLATION_FAULT then count s pgXLT 3
  else if st = ST_ACCESS_DENIED then count s pgXLT 4
  else if st = ST_FENCE_NOT_SYNC then count s pgXLT 5
  else if st = ST_OBJECT_INVALID ∨ st = ST_OBJECT_STALE then count s pgOBJ 3
  else s

/-- Read n bytes of a context's address space, or the status the access fails with (R74, R341). -/
def vRead (s : State) (c va n : Nat) (m : MemView) : Except Status (List Byte) :=
  let st := checkRange (s.ctx c) va n false
  if st ≠ ST_OK then .error st
  else match readPieces s m (pieces (s.ctx c) va n) with
    | some bs => .ok bs
    | none => .error ST_MEMORY_ERROR

/-- The CHI reads of a list of pieces on a port. -/
def readsOf (s : State) (port : Nat) (ps : List (Nat × Nat × Nat)) : List Out :=
  ps.map (fun p => .chiRead port p.1 p.2.2 p.2.1 (hostVisible s p.1))

/-- The CHI writes that store bytes over a list of pieces; port 8 stands for the spine port that the address selects. -/
def writesOf (s : State) (port : Nat) : List (Nat × Nat × Nat) → List Byte → List Out
  | [], _ => []
  | (a, k, n) :: rest, bs =>
    .chiWrite (if port = 8 then portSpine a else port) a k (hostVisible s a) (bs.take n) :: writesOf s port rest (bs.drop n)

/-- The first piece whose write is answered with an error. -/
def badPiece (s : State) (ps : List (Nat × Nat × Nat)) : Option Nat := (ps.find? (fun p => writeFails s p.1 p.2.2)).map (·.1)

/-- Write bytes over a list of pieces; none where a write is answered with an error (R341). -/
def putPieces (s : State) (port : Nat) (ps : List (Nat × Nat × Nat)) (bs : List Byte) : Option State :=
  match badPiece s ps with
  | none => some (emits s (writesOf s port ps bs))
  | some _ => none

/-- A write of the block's own whose error loses no context: ERR_STATUS bit 29 of a page records it, with the physical
address (Table 13.4, Table 16.2). -/
def putOrDrop (s : State) (page : Nat) (ps : List (Nat × Nat × Nat)) (bs : List Byte) : State :=
  match badPiece s ps with
  | none => emits s (writesOf s 8 ps bs)
  | some a => setErr s page 29 a

/-- Write bytes into a context's address space. `port` 8 stands for the spine port that the address selects (R43). -/
def vWrite (s : State) (port c va : Nat) (bs : List Byte) : Except Status State :=
  let st := checkRange (s.ctx c) va bs.length true
  if st ≠ ST_OK then .error st
  else match putPieces s port (pieces (s.ctx c) va bs.length) bs with
    | some t => .ok t
    | none => .error ST_MEMORY_ERROR

/-- The physical address that ERR_ADDR shows of a write into a context's address space that was answered with an error. -/
def badWriteAddr (s : State) (c va n : Nat) : Nat := (badPiece s (pieces (s.ctx c) va n)).getD 0

/-! ## Handles (R76 to R78) -/

/-- GENERATION and INDEX of a handle. -/
def hGen (h : Nat) : Nat := bitsN h 31 24
def hIdx (h : Nat) : Nat := bitsN h 23 0

/-- The handle-table entry of an index. -/
def handleAt (c : Context) (i : Nat) : Handle := tget Handle.fresh c.handles i

def setHandle (c : Context) (i : Nat) (h : Handle) : Context := { c with handles := tset Handle.fresh c.handles i h }

/-- Resolving a handle: the live entry's index, or the status of R76 and R78. -/
def resolveHandle (c : Context) (h : Nat) : Except Status Nat :=
  let e := handleAt c (hIdx h)
  if hGen h = 0 ∨ 2 ^ c.handleBits ≤ hIdx h then .error ST_OBJECT_INVALID
  else if e.retired then .error ST_OBJECT_STALE
  else if hGen h = e.gen ∧ !e.live then .error ST_OBJECT_INVALID
  else if hGen h ≠ e.gen then .error ST_OBJECT_STALE
  else .ok (hIdx h)

/-- A memory operand (Table 5.3) resolved to a virtual address for n bytes, with the handle index it names, if any:
R76, R78, R126 and the first two checks of R74. -/
def resolveMref (c : Context) (a b : Word) (n : Nat) (write : Bool) : Except Status (Nat × Option Nat) :=
  if bitAt a 63 then
    let st := checkRange c b.toNat n write
    if st ≠ ST_OK then .error st else .ok (b.toNat, none)
  else
    match resolveHandle c (fld a 31 0) with
    | .error e => .error e
    | .ok i =>
      let h := handleAt c i
      if h.size < b.toNat + n then .error ST_OBJECT_RANGE
      else
        let st := checkRange c (h.base + b.toNat) n write
        if st ≠ ST_OK then .error st else .ok (h.base + b.toNat, some i)

/-- A holding of a handle by a command: the entry's holder count and INFLIGHT rise (R78). -/
def holdHandle (s : State) (c i : Nat) : State :=
  let x := s.ctx c
  let h := handleAt x i
  s.setCtx c { setHandle x i { h with holders := h.holders + 1 } with inflight := x.inflight + 1 }

/-! ## Messages of the launch lanes (R47, R177) -/

/-- One 256-bit beat as four words, low word first. -/
def beatWords (n : Nat) : List Word :=
  [BitVec.ofNat 64 n, BitVec.ofNat 64 (n >>> 64), BitVec.ofNat 64 (n >>> 128), BitVec.ofNat 64 (n >>> 192)]

/-- Words packed four to a beat, the last beat padded with zeros (R178). -/
def padBeats (ws : List Word) : List Word := ws ++ List.replicate ((4 - ws.length % 4) % 4) 0

/-- The endpoints of one hub as a mask. -/
def hubMask (es : List Nat) (h : Nat) : Nat := maskOf ((es.filter (fun e => e / 32 == h)).map (· % 32))

/-- Runs of consecutive hubs that share one mask: (first hub, EXTRA_HUBS, mask), hubs ascending (R177). -/
def hubRunsFrom (es : List Nat) : List Nat → List (Nat × Nat × Nat)
  | [] => []
  | h :: rest =>
    let m := hubMask es h
    if m = 0 then hubRunsFrom es rest
    else match hubRunsFrom es rest with
      | (h2, e2, m2) :: more => if h2 = h + 1 ∧ m2 = m then (h, e2 + 1, m) :: more else (h, 0, m) :: (h2, e2, m2) :: more
      | [] => [(h, 0, m)]

/-- The hub runs of a set of endpoints. -/
def hubRuns (es : List Nat) : List (Nat × Nat × Nat) :=
  match es with
  | [] => []
  | _ => let hs := es.map (· / 32)
         let lo := hs.foldl min 511
         let hi := hs.foldl max 0
         hubRunsFrom es ((List.range (hi + 1 - lo)).map (lo + ·))

/-- One message on a lane. `b0` is beat 0 without EXTRA_HUBS; `rest` the later beats' words (Table 7.1). -/
def sendMsg (s : State) (lane kind hub extra mask b0 : Nat) (rest : List Word) : State :=
  let ws := beatWords (b0 ||| (extra <<< 128)) ++ padBeats rest
  count (count (emit s (.ecp lane kind hub extra mask ws)) pgECP 0) pgECP 1 (ws.length / 4)

/-- One message for each hub run of a set of endpoints. -/
def sendRuns (s : State) (lane kind : Nat) (es : List Nat) (b0 : Nat) (rest : List Word) : State :=
  (hubRuns es).foldl (fun t r => sendMsg t lane kind r.1 r.2.1 r.2.2 b0 rest) s

/-- The same for a spine unit that acts for no queue: each message leaves on the lane of its first hub (R176). -/
def sendRunsSpine (s : State) (kind : Nat) (es : List Nat) (b0 : Nat) (rest : List Word) : State :=
  (hubRuns es).foldl (fun t r => sendMsg t (r.1 % 8) kind r.1 r.2.1 r.2.2 b0 rest) s

/-! ## Endpoints -/

/-- The mark of a command that belongs to no context: zeroing (R84) and known-answer runs (R373). -/
def noCtx : Nat := 16384

/-- The context an endpoint works for (R175). -/
def epCtx (s : State) (e : Nat) : Option Nat :=
  match (s.ep e).cmds.head? with
  | some (_, c) => if c = noCtx then none else some c
  | none => none

/-- The unretired commands of an endpoint. -/
def epLoad (s : State) (e : Nat) : Nat := (s.ep e).cmds.length

/-- A job's open launch records (R192). -/
def openRecs (s : State) (q : Nat) : Nat :=
  ((s.lane (s.queue q).home).recs.filter (fun r =>
    match r.2 with
    | some x => x.purpose == .job q
    | none => false)).length

/-- The words of a record's TAG (Table 7.2). -/
def tagOf (lane rec : Nat) : Nat := lane * 2 ^ 13 + rec

/-- The unit-state table's entry of an endpoint, hub, channel or link (Table 14.13). Links are endpoints of kind 2. -/
def unitOf (s : State) (k : UnitKind) (u : Nat) : UnitRec :=
  match k with
  | .endpoint => (s.ep u).unit
  | .link => (s.ep u).unit
  | .hub => (s.hub u).unit
  | .channel => (s.chan u).unit

def setUnit (s : State) (k : UnitKind) (u : Nat) (r : UnitRec) : State :=
  match k with
  | .endpoint => s.setEp u { s.ep u with unit := r }
  | .link => s.setEp u { s.ep u with unit := r }
  | .hub => s.setHub u { s.hub u with unit := r }
  | .channel => s.setChan u { s.chan u with unit := r }

/-! ## Copies of selectors (R410) -/

/-- The number of a view's copy. -/
def viewCopy (v : View) : Nat :=
  match v with
  | .operator => 0
  | .security => 1
  | .debug => 2
  | .management => 3
  | .tenant c => 4 + c

/-- The key of a view's copy of a selector. -/
def selKey (v : View) (p off : Nat) : Nat := viewCopy v * 2 ^ 20 + p * 2 ^ 12 + off

/-- The tenant copies of a context's selectors and probe result are cleared. -/
def clearTenant (s : State) (c : Nat) : State :=
  { s with sel := s.sel.filter (fun e => decide (e.1 / 2 ^ 20 ≠ 4 + c)), wsh := { s.wsh with probes := tdel s.wsh.probes (4 + c) } }

/-! ## Progress (R343) -/

/-- A context's progress: LAST_ADV takes the present time. -/
def advance (s : State) (c : Nat) : State := s.setCtx c { s.ctx c with lastAdv := s.now }

/-- A packet of a context retired. -/
def countPacket (s : State) (c : Nat) : State :=
  s.setCtx c { s.ctx c with packets := (s.ctx c).packets + 1, lastAdv := s.now }

end Sys2Proof.Machine
end

