-- ==== Sys2Proof/Machine/Wait.lean ====
section
/-! DEFINITION. Peer messages and the Watershed's waiter lists: line entries, linking and removing waiters (R158, R159,
R164, R165). -/

namespace Sys2Proof.Machine

/-! ## Peer messages -/

/-- This die's identifier, the twin's (0xFFFF none) and the domain's first and last die (PEER settings record). -/
def dieId (s : State) : Nat := s.swb.settings.peer.getD 0 0

/-- A key ID of this die under which a context's memory may no longer be read: it drains, or was revoked (R289, R290). -/
def keyDown (s : State) (c k : Nat) : Bool := keyStopped s k || (s.ctx c).revoked.contains (dieId s, k)

def twinDie (s : State) : Nat := s.swb.settings.peer.getD 1 0xFFFF
def domFirst (s : State) : Nat := s.swb.settings.peer.getD 2 0
def domLast (s : State) : Nat := s.swb.settings.peer.getD 3 0

/-- The block is configured with a twin. -/
def hasTwin (s : State) : Bool := twinDie s != 0xFFFF

/-- The route to a die: link endpoint index and link channel (R164); link 0, channel 0 where no record names the die
(log 8). -/
def routeTo (s : State) (die : Nat) : Nat × Nat :=
  match s.swb.settings.routes.find? (fun r => r.1 == die) with
  | some (_, l, c) => (l, c)
  | none => (0, 0)

/-- A one-beat message to a die leaves on its route, or is held while the link retrains (R164, R381). -/
def sendPeer (s : State) (die : Nat) (beat : Nat) : State :=
  let r := routeTo s die
  let o := Out.peer r.1 r.2 die (BitVec.ofNat 256 beat)
  if s.per.retraining.any (fun x => x.1 == r.1) then
    count { s with per := { s.per with retrainHeld := s.per.retrainHeld ++ [(r.1, o)] } } pgPER 7
  else count (emit s o) pgPER 0

/-- TWIN_STATE (Table 14.11): 1 READY, 2 HALTED, 3 STARTING, with the boot count. -/
def sendTwin (s : State) (st : Nat) : State :=
  if hasTwin s then
    let t := sendPeer s (twinDie s) (0x20 + st * 2 ^ 8 + s.swb.bootCount.toNat * 2 ^ 16)
    { t with per := { t.per with sentAt := s.now } }
  else s

/-- An inbound message of one type: dies outside the domain, and messages with non-zero reserved bits, are discarded and
counted (R60, R165); `resv` is the mask of bits the message defines. A beat of another type is not this message. -/
def peerIn (s : State) (die : Nat) (beat : BitVec 256) (type : Nat) (defined : Nat) (f : State → Nat → State) : State :=
  let b := beat.toNat
  if b % 256 ≠ type then s
  else
    let s1 := count s pgPER 1
    if die < domFirst s ∨ domLast s < die then count (setErr s1 pgPER 0 die) pgPER 2
    else if b &&& defined ≠ b then count (setErr s1 pgPER 1 die) pgPER 2
    else f s1 b

/-- A fence message's beat (Table 6.10). -/
def fenceBeat (type flags queue ctx status addr key value aux : Nat) : Nat :=
  type + flags * 2 ^ 8 + queue * 2 ^ 16 + ctx * 2 ^ 34 + status * 2 ^ 48 + addr * 2 ^ 64 + key * 2 ^ 116 +
  value * 2 ^ 128 + aux * 2 ^ 192

/-- A fence peer message sent and counted (Table 6.15). -/
def sendFence (s : State) (die beat : Nat) : State := sendPeer (count s pgWSH 6) die beat

/-! ## Lines -/

/-- The line address of a fence word. -/
def lineAddr (pa : Nat) : Nat := pa / 64 * 64

/-- The word of the line a fence word is. -/
def wordOf (pa : Nat) : Nat := pa % 64 / 8

/-- The line entry that holds a fence's line, if cached. -/
def findLine (s : State) (f : Fence) : Option Nat :=
  (s.wsh.lines.find? (fun e => e.2.used && e.2.pa == lineAddr f.pa && e.2.home == f.home)).map (·.1)

/-- The first line entry below 65,536 that the table does not list, counting from `i`. -/
def firstGap : Table Line → Nat → Nat
  | [], i => i
  | (k, _) :: t, i => if k = i then firstGap t (i + 1) else if k < i then firstGap t i else i

/-- A line entry for a new line: an empty one, else the lowest without waiters (log 9); none where all 65,536 are
pinned (R161). -/
def allocLine (s : State) : Option Nat :=
  let g := firstGap s.wsh.lines 0
  if g < 65536 then some g
  else (s.wsh.lines.find? (fun e => e.2.waiters.isEmpty)).map (·.1)

/-- The line entry of a fence, taken or allocated (R159 step 2). -/
def takeLine (s : State) (f : Fence) : Option (Nat × State) :=
  match findLine s f with
  | some l => some (l, s)
  | none =>
    match allocLine s with
    | some l => some (l, s.setLine l { Line.reset with used := true, pa := lineAddr f.pa, key := f.key, home := f.home,
                                                        word := wordOf f.pa })
    | none => none

/-- Append a waiter to a line's list, in arm order. -/
def linkWaiter (s : State) (l : Nat) (w : LineWaiter) : State :=
  s.setLine l { s.line l with waiters := (s.line l).waiters ++ [w] }

/-- Take a waiter off a line's list. -/
def unlinkWaiter (s : State) (l : Nat) (w : LineWaiter) : State :=
  s.setLine l { s.line l with waiters := (s.line l).waiters.filter (· != w) }

/-! ## Atomics in flight (R149, R150) -/

/-- An atomic on the line of an address is in flight. -/
def lineBusy (s : State) (pa : Nat) : Bool := s.wsh.atomics.any (fun a => lineAddr a.fence.pa == lineAddr pa)

/-- The request of an atomic. -/
def atomicOut (port : Nat) (a : Atomic) : Out := .chiAtomic port a.fence.pa a.fence.key a.add a.operand

/-- The port of a fence atomic: the home slice's of the queue it is made for, by its job or by its wait, else the spine port
of its address (R43, R154). -/
def atomicPort (s : State) (a : Atomic) : Nat :=
  match a.job, a.use with
  | some q, _ => portQ s q
  | none, .consume (.queue q) _ => portQ s q
  | none, _ => portSpine a.fence.pa

/-- An atomic's request leaves, or waits for its port. -/
def issueAtomic (s : State) (a : Atomic) : State := issue s (atomicPort s a) (.atomic a.fence.pa) [atomicOut (atomicPort s a) a]

/-- A waiter whose fence read holds the counting order: a consuming wait that has no line (R162). -/
def readsUnderOrder (s : State) (w : LineWaiter) (pa : Nat) : Bool :=
  match w with
  | .queue q =>
    let x := s.waiter q
    x.kind == 2 && (x.st == .unlinked || x.st == .idle) && x.fence.pa == pa
  | .watch d q =>
    s.wsh.watches.any (fun x => x.die == d && x.queue == q && x.kind == 2 && x.line.isNone && x.fence.pa == pa)

/-- A fence's counting order is held: a counting operation on the word is in flight, or a read under the order is (R150,
R162). -/
def orderHeld (s : State) (pa : Nat) : Bool :=
  s.wsh.atomics.any (fun a => a.add && a.issued && a.fence.pa == pa) ||
  s.flights.any (fun f => match f.who with | .waiter w false => readsUnderOrder s w pa | _ => false)

/-- A consume. -/
def isConsume (a : Atomic) : Bool := match a.use with | .consume _ _ => true | _ => false

/-- Put an atomic among those in flight: a consume stands before the counting operations that wait for its word, so that
none comes between the value that satisfied it and its ADD (R162). -/
def insertAtomic (a : Atomic) : List Atomic → List Atomic
  | [] => [a]
  | x :: xs =>
    if isConsume a && x.add && !x.issued && !(isConsume x) && x.fence.pa == a.fence.pa then a :: x :: xs
    else x :: insertAtomic a xs

/-- An atomic joins those in flight; an ADD waits for its fence's counting order. -/
def addAtomic (s : State) (a : Atomic) : State :=
  let go := !a.add || !orderHeld s a.fence.pa
  let b := { a with issued := go }
  let s1 := { s with wsh := { s.wsh with atomics := insertAtomic b s.wsh.atomics } }
  if go then issueAtomic s1 b else s1

/-- The atomic that stands n-th among those in flight and whose request has left. -/
def atomicAt (s : State) (n : Nat) : Option Atomic :=
  match s.wsh.atomics[n]? with
  | some a => if a.issued && inFlight s (.atomic a.fence.pa) then some a else none
  | none => none

/-- An atomic completed. -/
def dropAtomic (s : State) (n : Nat) : State := { s with wsh := { s.wsh with atomics := s.wsh.atomics.eraseIdx n } }

/-! ## Reads of a fence's line (R158 to R162) -/

/-- A read of a fence's line leaves on a spine port (R43). -/
def HeldRead.go (s : State) (r : HeldRead) : State :=
  issue s (portSpine r.pa) r.who [.chiRead (portSpine r.pa) r.pa r.len r.key (hostVisible s r.pa)]

/-- The same, after the completion of the atomics in flight on the line (R160). -/
def issueRead (s : State) (r : HeldRead) : State :=
  if lineBusy s r.pa then { s with wsh := { s.wsh with heldReads := s.wsh.heldReads ++ [r] } } else r.go s

/-- The reads that an atomic's completion lets leave. -/
def releaseReads (s : State) (pa : Nat) : State :=
  if lineBusy s pa then s
  else
    let mine (r : HeldRead) : Bool := lineAddr r.pa == lineAddr pa
    (s.wsh.heldReads.filter mine).foldl HeldRead.go
      { s with wsh := { s.wsh with heldReads := s.wsh.heldReads.filter (fun r => !(mine r)) } }

/-- An atomic on a word, or a read under its counting order, has completed: the next counting operation on the word leaves
once the order is free, and the reads of the line once no atomic on it is in flight. -/
def nextAtomic (s : State) (pa : Nat) : State :=
  if orderHeld s pa then s
  else match s.wsh.atomics.findIdx? (fun a => a.add && !a.issued && a.fence.pa == pa) with
    | none => releaseReads s pa
    | some i =>
      match s.wsh.atomics[i]? with
      | none => s
      | some a =>
        let b := { a with issued := true }
        issueAtomic { s with wsh := { s.wsh with atomics := s.wsh.atomics.set i b } } b

/-- A read of a waiter's fence word is issued (R159 step 3, R161, R162). -/
def readFence (s : State) (w : LineWaiter) (f : Fence) : State :=
  issueRead s { who := .waiter w false, pa := f.pa, len := 8, key := f.key }

/-- A waiter's reads are no longer for it: one that has not left is not made, and one in flight returns to nobody; a counting
order one held is free. -/
def dropReads (s : State) (w : LineWaiter) (pa : Nat) : State :=
  let me (a : Access) : Bool := a == .waiter w false
  nextAtomic { s with
    wsh := { s.wsh with heldReads := s.wsh.heldReads.filter (fun r => !(me r.who)) },
    flights := s.flights.map (fun f => if me f.who then { f with who := .waiter w true } else f) } pa

/-! ## UNLINKED waiters (R161) -/

/-- The beat of a FENCE_WATCH for a queue's waiter (R166). -/
def watchBeat (s : State) (q : Nat) (w : Waiter) : Nat :=
  fenceBeat 2 (4 * b2n w.fence.counting + 8 * b2n (w.kind == 2)) q (s.queue q).owner 0 w.fence.pa w.fence.key w.target.toNat 0

/-- The queues in UNLINKED. -/
def unlinked (s : State) : List Nat := (s.wsh.waiters.filter (fun e => e.2.st == .unlinked)).map (·.1)

/-- The waiters without a line, remote watches included, with the time their wait began. -/
def unlinkedAll (s : State) : List (Nat × LineWaiter) :=
  (s.wsh.waiters.filter (fun e => e.2.st == .unlinked)).map (fun e => (e.2.since, .queue e.1)) ++
  (s.wsh.watches.filter (fun x => x.line.isNone)).map (fun x => (x.since, .watch x.die x.queue))

/-- Replace a remote watch. -/
def putWatch (s : State) (x : RemoteWatch) : State :=
  { s with wsh := { s.wsh with watches := s.wsh.watches.map (fun y => if y.die = x.die ∧ y.queue = x.queue then x else y) } }

/-- The watch of a queue of another die. -/
def watchOf (s : State) (d q : Nat) : Option RemoteWatch := s.wsh.watches.find? (fun x => x.die == d && x.queue == q)

/-- A queue in UNLINKED takes a line: steps 2 and 3 of R159, or the watch of a fence on another die (Table 6.8). -/
def relinkQueue (s : State) (q : Nat) : State :=
  let w := s.waiter q
  match takeLine s w.fence with
  | none => s
  | some (l, s1) =>
    let s2 := dropReads (linkWaiter s1 l (.queue q)) (.queue q) w.fence.pa
    if w.fence.home ≠ dieId s then
      let w1 := { w with st := .remote, line := l }
      sendFence (s2.setWaiter q w1) w.fence.home (watchBeat s2 q w1)
    else readFence (s2.setWaiter q { w with st := .arming, line := l }) (.queue q) w.fence

/-- The same for a remote watch. -/
def relinkWatch (s : State) (x : RemoteWatch) : State :=
  let w : LineWaiter := .watch x.die x.queue
  match takeLine s x.fence with
  | none => s
  | some (l, s1) =>
    readFence (putWatch (dropReads (linkWaiter s1 l w) w x.fence.pa) { x with line := some l }) w x.fence

/-- The UNLINKED waiter that has waited longest is inserted as soon as a line entry frees (R161). -/
def relink (s : State) : State :=
  match sortBy (fun a b => a.1 ≤ b.1) (unlinkedAll s) with
  | [] => s
  | (_, .queue q) :: _ => relinkQueue s q
  | (_, .watch d q) :: _ => match watchOf s d q with | some x => relinkWatch s x | none => s

/-! ## The end of a wait -/

/-- A queue's wait ends: its waiter leaves its line, or FENCE_UNWATCH goes to the home die, and WAIT clears (Table
6.8). `unwatch` is false where the home die has already removed the watch. -/
def clearWait (s : State) (q : Nat) (unwatch : Bool) : State :=
  let w := s.waiter q
  let s1 := match w.st with
    | .arming => unlinkWaiter s w.line (.queue q)
    | .armed => unlinkWaiter s w.line (.queue q)
    | .remote =>
      let t := unlinkWaiter s w.line (.queue q)
      if unwatch then sendFence t w.fence.home (fenceBeat 3 0 q (s.queue q).owner 0 w.fence.pa w.fence.key 0 0) else t
    | _ => s
  let c := (s.queue q).owner
  let s1 := dropReads s1 (.queue q) w.fence.pa
  let s2 := (s1.setWaiter q Waiter.reset).setQueue q { s1.queue q with wait := false }
  let s2 := s2.setCtx c { s2.ctx c with acctWait := (s2.ctx c).acctWait + BitVec.ofNat 64 (s.now - w.since) }
  if w.st = .idle then s else relink s2

end Sys2Proof.Machine
end

