-- ==== Sys2Proof/Machine/Lanes.lean ====
section
/-! DEFINITION. The launch lanes: records, slots, engine commands and the block's own tagged messages (R176 to R187), and
zeroing (R84). -/

namespace Sys2Proof.Machine

/-! ## Records (R186) -/

/-- The first record below 8,192 that a lane's table does not list, counting from `i`. -/
def firstFree : Table (Option LaunchRec) → Nat → Nat
  | [], i => i
  | (k, _) :: t, i => if k = i then firstFree t (i + 1) else if k < i then firstFree t i else i

/-- A free record of a lane. -/
def freeRec (s : State) (k : Nat) : Option Nat :=
  let r := firstFree (s.lane k).recs 0
  if r < 8192 then some r else none

/-- Put a record to use. -/
def putRec (s : State) (k r : Nat) (x : LaunchRec) : State :=
  let ln := s.lane k
  s.setLane k { ln with recs := tset none ln.recs r (some x) }

/-- A launch record returns to its lane's pool (R186). -/
def freeRecord (s : State) (k r : Nat) : State :=
  let ln := s.lane k
  s.setLane k { ln with recs := tset none ln.recs r none }

/-! ## Slots (R187) -/

/-- The endpoints a queue's launch still needs at step 7. -/
def needOf (s : State) (q : Nat) : List Nat :=
  match s.job q with
  | some j => match j.phase with
    | .slotWait p => p.need
    | _ => []
  | none => []

/-- An endpoint is under a partial reset (R379). -/
def resetting (s : State) (e : Nat) : Bool := s.swb.resetOps.any (fun o => o.eps.contains e)

/-- An endpoint has a slot that a new command may take; one under reset takes none (log 23). -/
def slotFree (s : State) (e : Nat) : Bool :=
  decide ((s.ep e).cmds.length + (s.ep e).reserved < 64) && !(s.ep e).held && !resetting s e

/-- A launch waits for a slot of an endpoint. -/
def slotWanted (s : State) (e : Nat) : Bool := s.slotWait.any (fun q => (needOf s q).contains e)

/-! ## Engine commands (R178) -/

/-- A segment as two words (R179). -/
def segWords (g : Nat × Nat × Nat) : List Word :=
  [BitVec.ofNat 64 (g.1 + g.2.1 * 2 ^ 52), BitVec.ofNat 64 g.2.2]

/-- The fields of an engine command's beat 0 that its sender chooses (Table 7.2). -/
structure CmdHead where
  ecmd : Nat
  tag : Nat
  ctx : Nat
  layer : Nat
  operator : Nat
  imemGen : Nat
  depWait : Nat
  depEp : Option Nat

/-- Beat 0 of an engine command without EXTRA_HUBS. -/
def cmdBeat (h : CmdHead) (desc consts segs : Nat) : Nat :=
  h.ecmd + h.depWait * 2 ^ 8 + h.tag * 2 ^ 16 + (if h.ctx = noCtx then 0 else h.ctx) * 2 ^ 32 +
  b2n h.depEp.isSome * 2 ^ 46 + h.imemGen * 2 ^ 48 + h.layer * 2 ^ 64 + h.operator * 2 ^ 96 +
  h.depEp.getD 0 * 2 ^ 137 + ceilDiv desc 4 * 2 ^ 160 + ceilDiv consts 4 * 2 ^ 168 + ceilDiv segs 4 * 2 ^ 176

/-- The messages of an engine command: one per hub run. The counters of Table 7.9 follow. -/
def commandMsgs (s : State) (lane : Nat) (h : CmdHead) (targets : List Nat) (desc consts : List Word)
    (segs : List (Nat × Nat × Nat)) : State :=
  let sw := segs.flatMap segWords
  let s1 := sendRuns s lane 0 targets (cmdBeat h desc.length consts.length sw.length) (padBeats desc ++ padBeats consts ++ padBeats sw)
  count (count s1 pgLCH 1 targets.length) pgLCH 7 (segs.length * (hubRuns targets).length)

/-- An engine command leaves for its targets, and each holds one more unretired command. -/
def sendCommand (s : State) (lane : Nat) (h : CmdHead) (targets : List Nat) (desc consts : List Word)
    (segs : List (Nat × Nat × Nat)) : State :=
  let s1 := commandMsgs s lane h targets desc consts segs
  let s3 := targets.foldl (fun t e => t.setEp e { t.ep e with cmds := (t.ep e).cmds ++ [(h.tag, h.ctx)] }) s1
  let n := targets.length
  match h.depEp with
  | some d => count (s3.setEp d { s3.ep d with depSent := (s3.ep d).depSent + BitVec.ofNat 8 n }) pgECP 7 n
  | none => s3

/-- The words of a descriptor the block builds (R185): regions of one row, and argument words. Each region is its KIND,
its bytes, its first segment and its segments. -/
def builtDesc (regions : List (Nat × Nat × Nat × Nat)) (args : List Word) : List Word :=
  BitVec.ofNat 64 (1 + regions.length * 2 ^ 8 + args.length * 2 ^ 24 + 0xFFFFFFFF * 2 ^ 32) ::
  regions.flatMap (fun r => [BitVec.ofNat 64 (r.1 * 2 ^ 62 + 2 ^ 40 + r.2.1), 0, BitVec.ofNat 64 (r.2.2.1 + r.2.2.2 * 2 ^ 16),
                             0, 0, 0]) ++ args

/-! ## The block's own messages with a TAG -/

/-- A message leaves under a record it takes; the record awaits every endpoint of the run. -/
def issueMsg (s : State) (r : Nat) (m : BlockMsg) : State :=
  let tag := tagOf m.lane r
  let eps := (List.range (m.extra + 1)).flatMap (fun i => (bitList 32 m.mask).map (fun b => (m.hub + i) * 32 + b))
  let s1 := putRec s m.lane r { purpose := m.purpose, ctx := m.ctx, layer := 0, operator := 0, pidx := 0, await := eps,
                                held := [], since := s.now }
  if m.second then
    sendMsg s1 m.lane m.kind m.hub m.extra m.mask m.b0
      (match m.rest with | w :: ws => (w ||| BitVec.ofNat 64 (tag * 2 ^ 48)) :: ws | [] => [])
  else sendMsg s1 m.lane m.kind m.hub m.extra m.mask (m.b0 + tag * 2 ^ 16) m.rest

/-- Messages waiting for a record leave as their lanes have records, in order. -/
def pumpMsgs : List BlockMsg → State → State
  | [], s => s
  | m :: ms, s =>
    match freeRec s m.lane with
    | some r => pumpMsgs ms (issueMsg s r m)
    | none => pumpMsgs ms { s with blockWait := s.blockWait ++ [m] }

/-- Issue what a free record lets leave. -/
def pumpBlock (s : State) : State := pumpMsgs s.blockWait { s with blockWait := [] }

/-- A tagged message of a spine unit to a set of endpoints, one for each hub run, on the lane of the run's first hub. -/
def sendTagged (s : State) (kind : Nat) (eps : List Nat) (b0 : Nat) (rest : List Word) (second : Bool) (purpose : Purpose)
    (ctx : Nat) : State :=
  let ms := (hubRuns eps).map (fun r =>
    { lane := r.1 % 8, kind := kind, hub := r.1, extra := r.2.1, mask := r.2.2, b0 := b0, rest := rest, second := second,
      purpose := purpose, ctx := ctx : BlockMsg })
  pumpBlock { s with blockWait := s.blockWait ++ ms }

/-- The second beat of an engine-queue clear, without its TAG (R308). -/
def clearWord (all spad imem : Bool) (base size : Nat) : Word :=
  BitVec.ofNat 64 (base + size * 2 ^ 16 + b2n all * 2 ^ 32 + b2n spad * 2 ^ 33 + b2n imem * 2 ^ 34)

/-- The whole scratchpad as a share: BASE and SIZE at their largest (log 13). -/
def wholeSpad : Nat × Nat := (0, 0xFFFF)

/-! ## Zeroing (R84) -/

/-- The copy endpoints a partition's zeroing goes through, in virtual order. -/
def zeroEps (s : State) (p : Nat) : List Nat :=
  if p = 255 then [] else (sortBy (fun a b => a.1 ≤ b.1) (s.part p).active.copies).map (·.2)

/-- The next HEALTHY endpoint of a partition's rotation and the rotation's next place; the die's lowest HEALTHY copy
endpoint where the partition has none. -/
def zeroTarget (s : State) (p : Nat) : Option (Nat × Nat) :=
  let es := zeroEps s p
  let n := es.length
  let ok (i : Nat) : Bool := decide ((s.ep (es.getD i 0)).unit.st = .healthy)
  match ((List.range n).map (fun i => ((s.part p).zeroNext + i) % n)).find? ok with
  | some i => some (es.getD i 0, (i + 1) % n)
  | none => ((s.eps.find? (fun e => e.2.exist && e.2.kind == 1 && decide (e.2.unit.st = .healthy))).map (·.1)).map
              (fun e => (e, (s.part p).zeroNext))

/-- Issue the zeroing FILL of one granule, if an endpoint has a slot and its lane a record. -/
def issueZero (s : State) (z : Zeroing) : Option State :=
  match zeroTarget s z.part with
  | none => none
  | some (e, nx) =>
    let k := e / 32 % 8
    match freeRec s k with
    | none => none
    | some r =>
      if slotFree s e && !slotWanted s e then
        let s1 := putRec (s.setPart z.part { s.part z.part with zeroNext := nx }) k r
          { purpose := .zeroing z.gran, ctx := noCtx, layer := 0, operator := 0, pidx := 0, await := [e], held := [], since := s.now }
        some (sendCommand s1 k { ecmd := 3, tag := tagOf k r, ctx := noCtx, layer := 0, operator := 0, imemGen := 0, depWait := 0,
                                 depEp := none } [e] (builtDesc [(2, 65536, 0, 1)] [0]) [] [(z.gran * 65536, 0, 65536)])
      else none

/-- Issue what can be issued of a list of granules to zero, oldest first. -/
def pumpZeros : List Zeroing → State → State
  | [], s => s
  | z :: zs, s =>
    if z.issued then pumpZeros zs { s with zeroing := s.zeroing ++ [z] }
    else match issueZero s z with
      | some t => pumpZeros zs { t with zeroing := t.zeroing ++ [{ z with issued := true }] }
      | none => pumpZeros zs { s with zeroing := s.zeroing ++ [z] }

/-- Zeroing goes on as slots and records allow. -/
def pumpZero (s : State) : State := pumpZeros s.zeroing { s with zeroing := [] }

/-- Granules go to zeroing (R84 step 4). -/
def toZeroing (s : State) (part : Nat) (gs : List Nat) : State :=
  pumpZero { s with zeroing := s.zeroing ++ gs.map (fun g => { gran := g, attempt := 0, issued := false, part := part }) }

end Sys2Proof.Machine
end

