-- ==== Sys2Proof/Machine/Sched.lean ====
section
/-! DEFINITION. The job of a queue, its packets' headers (Table 5.1), the scheduler (R272, R273) and the times it accounts
(R274). -/

namespace Sys2Proof.Machine

/-- Change the job of a queue, if it has one. -/
def modJob (s : State) (q : Nat) (f : Job → Job) : State :=
  match s.job q with
  | none => s
  | some j => s.setJob q (some (f j))

/-- The packet a job stands at. -/
def curPkt (j : Job) : Option (List Word) :=
  match j.stack with
  | [] => none
  | f :: _ => f.pkts[f.pc]?

/-- A phase in which packets may still execute. -/
def streamOpen (p : Phase) : Bool :=
  match p with
  | .drained | .completing | .record | .ciWrite => false
  | _ => true

/-! ## Packet headers (Table 5.1) -/

def opOf (w : Word) : Nat := fld w 7 0
def lenOf (w : Word) : Nat := fld w 13 8
def flagsOf (w : Word) : Nat := fld w 30 16
def priorOf (w : Word) : Bool := bitAt w 31
def immOf (w : Word) : Nat := fld w 63 40

/-- The header of a packet. -/
def hdrOf (ws : List Word) : Word := wordAt ws 0

/-! ## The scheduler (R273) -/

/-- The launch-kind packets (R273). -/
def launchKind (op : Nat) : Bool := op == 0x01 || op == 0x02 || op == 0x03 || op == 0x04 || op == 0x06 || op == 0x07

/-- The packets that send grid-translated messages (R262). -/
def gridKind (op : Nat) : Bool := launchKind op || op == 0x14

/-- A job stands at a launch-kind packet. -/
def atLaunch (j : Job) : Bool :=
  streamOpen j.phase && (match curPkt j with | some p => launchKind (opOf (hdrOf p)) | none => false)

/-- The partition of a queue's owner. -/
def partQ (s : State) (q : Nat) : Nat := (s.ctx (s.queue q).owner).part

/-- A context is eligible: one of its jobs stands at a launch-kind packet (R273). -/
def eligible (s : State) (c : Nat) : Bool :=
  s.jobs.any (fun e => (s.queue e.1).owner == c && (match e.2 with | some j => atLaunch j | none => false))

/-- The eligible contexts of a partition, ascending. -/
def eligibles (s : State) (p : Nat) : List Nat :=
  (s.ctxs.filter (fun e => e.2.part == p && e.2.st != .free && eligible s e.1)).map (·.1)

/-- QUANTUM_NS and DEFAULT_SLICE of a partition (Table 10.8). -/
def quantumOf (p : Part) : Nat := max 1 (bitsN p.ctrl.toNat 23 8)
def defSliceOf (p : Part) : Nat := max 1 (bitsN p.ctrl.toNat 7 1)

/-- A context's slice in ns (R272). -/
def sliceNs (s : State) (c : Nat) : Nat :=
  let x := s.ctx c
  (if x.slice = 0 then defSliceOf (s.part x.part) else x.slice) * 100000

/-- Round robin from the context after `cur`, in context ID order. -/
def robin (cur : Option Nat) (l : List Nat) : List Nat :=
  match cur with
  | none => l
  | some c => l.filter (fun x => c < x) ++ l.filter (fun x => x ≤ c)

/-- The first of a list with credit becomes current. -/
def pickCredit (s : State) (p : Nat) (l : List Nat) : Option State :=
  match l.find? (fun c => (s.ctx c).deficit > 0) with
  | some c => some (s.setPart p { s.part p with cur := some c, sliceEnd := s.now + sliceNs s c })
  | none => none

/-- Refill every eligible context (R273). -/
def refill (s : State) (p : Nat) (l : List Nat) : State :=
  l.foldl (fun t c =>
    let x := t.ctx c
    let r : Int := x.weight * quantumOf (t.part p)
    t.setCtx c { x with deficit := min (x.deficit + r) (2 * r) }) s

/-- The scheduler's decision (R273): a partition with one eligible context makes it current. -/
def decideSched (s : State) (p : Nat) : State :=
  let l := eligibles s p
  let order := robin (s.part p).cur l
  let s := count s pgSCH 5
  match l with
  | [c] => s.setPart p { s.part p with cur := some c, sliceEnd := s.now + sliceNs s c }
  | _ =>
    match pickCredit s p order with
    | some t => t
    | none =>
      let s1 := refill s p l
      match pickCredit s1 p order with
      | some t => t
      | none =>
        let s2 := refill s1 p l
        s2.setPart p { s2.part p with cur := none }

/-- A context's eligibility as it now stands; one that stops being eligible keeps its debt but not its credit (R273). -/
def noteEligible (s : State) (c : Nat) : State :=
  let x := s.ctx c
  if x.eligible = eligible s c then s
  else s.setCtx c { x with eligible := !x.eligible, deficit := if x.eligible then min x.deficit 0 else x.deficit }

/-- The scheduler after a job has moved: it decides where the current context has stopped being eligible, and where one is
eligible while none is current (R273). -/
def schedUpdate (s : State) (p : Nat) : State :=
  let s1 := (s.ctxs.filter (fun e => e.2.part == p)).foldl (fun t e => noteEligible t e.1) s
  match (s1.part p).cur with
  | none => if (eligibles s1 p).isEmpty then s1 else decideSched s1 p
  | some c => if eligible s1 c then s1 else decideSched s1 p

/-! ## Times held and waited (R274) -/

/-- The time a job waited for a resource is charged to its context (Table 10.5). -/
def chargeWait (s : State) (q : Nat) : State :=
  match s.job q with
  | some j =>
    match j.waitSince with
    | some t =>
      let c := (s.queue q).owner
      let s1 := s.setJob q (some { j with waitSince := none })
      s1.setCtx c { s1.ctx c with acctResource := (s1.ctx c).acctResource + BitVec.ofNat 64 (s.now - t) }
    | none => s
  | none => s

/-- A held packet proceeds: its HOLD_NS is charged (R274). -/
def chargeHold (s : State) (q : Nat) : State :=
  match s.job q with
  | some j =>
    match j.holdSince with
    | some t =>
      let c := (s.queue q).owner
      let s1 := s.setJob q (some { j with holdSince := none })
      s1.setCtx c { s1.ctx c with acctHold := (s1.ctx c).acctHold + BitVec.ofNat 64 (s.now - t) }
    | none => s
  | none => s

end Sys2Proof.Machine
end

