-- ==== Sys2Proof/Machine/Jobs.lean ====
section
/-! DEFINITION. How jobs end before their packets do: releasing what a job holds, losing a context (R339), halting the
block (R121, R342), the malformed-entry action (Table 4.1) and hang captures (R346 to R348). -/

namespace Sys2Proof.Machine

/-! ## Handles and objects -/

/-- A graph's record is cleared with its object: its version areas are released (Table 8.5). -/
def releaseGraph (s : State) (c i : Nat) : State :=
  match s.graph (graphKey c i) with
  | none => s
  | some g =>
    let gs := g.slots.flatMap (·.grans)
    let x := s.ctx c
    (toZeroing (s.setCtx c { x with used := x.used - gs.length }) x.part gs).setGraph (graphKey c i) none

/-- An object's memory is released: its pages unmap, USED falls, its granules go to zeroing (R84). Level-1 and level-2 tables
that this leaves empty stay, and stay charged, until the context is removed (DESIGN CHOICE, log 54). -/
def releaseObject (s0 : State) (c i : Nat) : State :=
  let s := releaseGraph s0 c i
  let x := s.ctx c
  let h := handleAt x i
  let ps := pagesOf h.base h.size
  let gs := ps.filterMap (fun p => (pageOf x (p * 65536)).map (·.gran))
  let x1 := { setHandle x i { h with releasing := false, live := false, base := 0, size := 0, attr := 0 } with
              pages := x.pages.filter (fun e => !ps.contains e.1), used := x.used - gs.length }
  count (toZeroing (s.setCtx c x1) x.part gs) pgXLT 6 gs.length

/-- A command's holding of a handle ends; the last holder of a freed object releases it (R78, R83). -/
def unholdHandle (s : State) (c i : Nat) : State :=
  let x := s.ctx c
  let h := handleAt x i
  let s1 := s.setCtx c { setHandle x i { h with holders := h.holders - 1 } with inflight := x.inflight - 1 }
  if h.releasing ∧ h.holders ≤ 1 then releaseObject s1 c i else s1

/-- The present packet of a queue's job holds a handle, once, until it retires (R78, R126). -/
def holdPacket (s : State) (q : Nat) (h : Option Nat) : State :=
  match s.job q, h with
  | some j, some i =>
    if j.held.contains i then s
    else (holdHandle s (s.queue q).owner i).setJob q (some { j with held := i :: j.held })
  | _, _ => s

/-- Every handle the present packet of a job holds is let go (R78, R126). -/
def unholdPacket (s : State) (q : Nat) : State :=
  match s.job q with
  | none => s
  | some j =>
    j.held.foldl (fun t i => unholdHandle t (s.queue q).owner i) (s.setJob q (some { j with held := [] }))

/-- PACKET_INDEX: the last packet the job reached; it saturates at 0xFFFF (R116). -/
def packetIndex (j : Job) : Nat :=
  match j.endIdx with
  | some i => min i 0xFFFF
  | none => min 0xFFFF (match curPkt j with | some _ => j.idx | none => j.idx - 1)

/-! ## What a job gives back -/

/-! ## The spill region (R163) -/

/-- The address of a spill slot of 64 KiB: the slots stand behind the known-answer area and the area where an activation
verifies its image (log 43). -/
def spillAddr (s : State) (n : Nat) : Nat := s.swb.settings.regions.getD 2 0 + 0x6000000 + n * 65536

/-- The spill slots in use. -/
def spillUsed (s : State) : List Nat :=
  s.jobs.flatMap (fun e => match e.2 with
    | some j => (j.spillBuf.toList ++ j.spillImg.toList).map (·.1)
    | none => [])

/-- The lowest free spill slot, if the region holds one. -/
def spillSlot (s : State) : Option Nat :=
  let used := spillUsed s
  let n := (s.swb.settings.regions.getD 3 0 - 0x6000000) / 65536
  (List.range (used.length + 1)).find? (fun i => decide (i < n) && !used.contains i)

/-- A spill slot with its key ID as a range of memory: address, key ID, bytes. -/
def spillPiece (s : State) (x : Nat × Nat) (len : Nat) : Nat × Nat × Nat := (spillAddr s x.1, x.2, len)

/-- A spill slot is released: it is zeroed under key ID 0x000, as granules are (R286, R307). -/
def zeroSpill (s : State) (q : Nat) (slot : Option (Nat × Nat)) (len : Nat) : State :=
  match slot with
  | some x => emits s (writesOf s (portQ s q) [spillPiece s (x.1, 0) len] (zeroBytes len))
  | none => s

/-- Bytes of a fragment buffer and of a constant image. -/
def bufLen : Nat := 65536
def imgLen : Nat := 4096

/-- A job's fragment buffer returns to its slice (R106); a buffer in the spill region was given back already. -/
def releaseBuf (s : State) (q : Nat) : State :=
  match s.job q with
  | none => s
  | some j =>
    let k := (s.queue q).home
    let s1 := (zeroSpill s q j.spillBuf bufLen).setJob q (some { j with hasBuf := false, spillBuf := none })
    if j.hasBuf ∧ j.spillBuf.isNone then s1.setSlice k { s1.slice k with fragFree := (s1.slice k).fragFree + 1 } else s1

/-- A job's constant image returns to its slice (R135). -/
def releaseImage (s : State) (q : Nat) : State :=
  match s.job q with
  | none => s
  | some j =>
    let k := (s.queue q).home
    let s1 := (zeroSpill s q j.spillImg imgLen).setJob q (some { j with image := none, spillImg := none })
    if j.image.isSome ∧ j.spillImg.isNone then s1.setSlice k { s1.slice k with imgFree := (s1.slice k).imgFree + 1 } else s1

/-- A queue leaves every list of waiting jobs. -/
def leaveWaits (s : State) (q : Nat) : State :=
  let k := (s.queue q).home
  let sl := s.slice k
  let s1 := s.setSlice k { sl with fragWait := sl.fragWait.filter (· != q), imgWait := sl.imgWait.filter (· != q),
                                   routineWait := sl.routineWait.filter (· != q),
                                   procs := sl.procs.map (fun p => match p with
                                     | some (q', r) => if q' = q then none else some (q', r)
                                     | none => none) }
  let ln := s1.lane k
  let s2 := s1.setLane k { ln with recWait := ln.recWait.filter (· != q) }
  { s2 with calls := s2.calls.filter (· != q), patchLine := s2.patchLine.filter (·.2 != q), slotWait := s2.slotWait.filter (· != q), allocWait := s2.allocWait.filter (· != .queue q) }

/-- What a launch waiting at step 6 or 7 has taken goes back. -/
def dropPlan (s : State) (q : Nat) (p : Plan) : State :=
  let s1 := match p.record with
    | some r => freeRecord s (s.queue q).home r
    | none => s
  (p.targets.filter (fun e => !p.need.contains e)).foldl
    (fun t e => t.setEp e { t.ep e with reserved := (t.ep e).reserved - 1 }) s1

/-- The loads and held endpoints of a queue's LOAD_IMEM are let go (R198). -/
def dropLoads (s : State) (q : Nat) : State :=
  let mine := s.loads.filter (fun l => l.q == q)
  let rest := s.loads.filter (fun l => l.q != q)
  let eps := (mine.flatMap (·.targets)).filter (fun e => !rest.any (fun l => l.targets.contains e))
  eps.foldl (fun t e => t.setEp e { t.ep e with held := false }) { s with loads := rest }

/-- The pins of the graph runs on a job's stack are let go (R213). -/
def dropPins (s : State) (j : Job) : State :=
  j.stack.foldl (fun t f => match f.kind with
    | .graph g i _ _ =>
      match t.graph g with
      | some r => t.setGraph g (some { r with slots := r.slots.modify i (fun x => { x with pins := x.pins - 1 }) })
      | none => t
    | _ => t) s

/-- A patch of a queue is no longer in progress, and what it stored is let go (Table 8.5): the next in line for the same
graph may go on (R211 step 2). -/
def dropPatch (s : State) (q : Nat) : State :=
  match s.graphs.find? (fun e => match e.2 with | some g => g.patching == some q | none => false) with
  | none => s
  | some (key, r) =>
    match r with
    | some g =>
      let slots := g.slots.map (fun x => if x.st == .storing then GSlot.reset else x)
      s.setGraph key (if slots.all (fun x => x.st == .free) then none else some { g with slots := slots, patching := none })
    | none => s

/-- The channel migration of an UNBIND that stops where it stands ends; what it moved stays moved (R83, R268). -/
def dropMove (s : State) (q : Nat) : State :=
  { s with parts := s.parts.map (fun e =>
      if e.2.migrating = some q then (e.1, { e.2 with migrating := none, migNow := [] }) else e) }

/-- A job's packet stream ends (R106): its fragment buffer goes back at once. -/
def endStream (s : State) (q : Nat) : State :=
  let s1 := releaseBuf s q
  modJob s1 q (fun j => { j with phase := .drained })

/-- A job executes no further packet: what it waits at or holds for its packet is let go, and its stream ends (R339,
R70, R395). -/
def stopJob (s : State) (q : Nat) : State :=
  match s.job q with
  | none => s
  | some j =>
    if streamOpen j.phase then
      let s1 := dropMove (dropPatch (clearWait (chargeWait (chargeHold s q) q) q true) q) q
      let s2 := match j.phase with
        | .recWait p => dropPlan s1 q p
        | .slotWait p => dropPlan s1 q p
        | .load => dropLoads s1 q
        | _ => s1
      let s3 := dropPins (leaveWaits s2 q) j
      let s4 := unholdPacket s3 q
      let s5 := j.heldKeep.foldl (fun t i => unholdHandle t (s.queue q).owner i) s4
      let s6 := modJob s5 q (fun x => { x with heldKeep := [], endIdx := some (x.endIdx.getD (packetIndex x)), fanReady := none,
                                               run := none, deferred := [] })
      schedUpdate (endStream s6 q) (partQ s q)
    else modJob s q (fun x => { x with deferred := [] })

/-- The rank of an outcome (Table 15.7). -/
def rankNo : EndRank → Nat
  | .lost => 1
  | .aborted => 2
  | .opStatus => 3
  | .none => 5

/-- A job takes an outcome: the highest rank stands, and within a rank the first (R396). -/
def rankJob (s : State) (q : Nat) (r : EndRank) (st : Status) (idx : Option Nat) : State :=
  modJob s q (fun j =>
    if rankNo r < rankNo j.rank then { j with rank := r, status := st, endIdx := idx.orElse (fun _ => j.endIdx) } else j)

/-- A job ends with an outcome. -/
def endJob (s : State) (q : Nat) (r : EndRank) (st : Status) (idx : Option Nat) : State := stopJob (rankJob s q r st idx) q

/-! ## Captures -/

/-- The status a completion record carries (Table 15.7). -/
def jobStatus (j : Job) : Status :=
  match j.rank with
  | .none => j.skip
  | _ => j.status

/-- A queue record as 48 bytes, the fields of Table 4.2 in table order from bit 0 (log 10). -/
def queueRecordBytes (r : Queue) : List Byte :=
  let st := match r.st with | .free => 0 | .disabled => 1 | .enabled => 2 | .disabling => 3
  let fs : List (Nat × Nat) :=
    [(45, r.ringBase), (4, r.log2), (51, r.idxLine), (32, r.ci.toNat), (32, r.piSeen.toNat), (14, r.owner), (2, r.cls),
     (2, st), (3, r.home), (5, r.poll), (1, b2n r.warm), (1, b2n r.crc), (1, b2n r.hold), (1, b2n r.fetched),
     (1, b2n r.wait), (1, b2n r.ntfEn), (12, r.ntfTarget), (32, r.completed.toNat)] ++
    r.history.map (fun h => (16, h)) ++ [(3, r.histNext)]
  leBytes 48 (fs.foldr (fun f acc => f.2 % 2 ^ f.1 + acc * 2 ^ f.1) 0)

/-- The packet a job stands at, with its virtual address: the failing packet of a refused buffer (R129), the present
packet, or with none the entry (R121). -/
def jobPlace (j : Job) : Nat × List Word :=
  match j.bad, j.stack with
  | some b, _ => b
  | none, [] => (j.entryVa, [])
  | none, f :: _ => (f.va + 8 * ((f.pkts.take f.pc).map List.length).sum, (curPkt j).getD [])

/-- A job record of a capture (Table 13.6); `hide` gives the operator's copy (R348). -/
def captureJob (s : State) (hide : Bool) (q : Nat) (j : Job) : List Byte :=
  let pkt := bytesOfWords (jobPlace j).2
  leBytes 8 (if hide then 0 else (jobPlace j).1) ++ leBytes 2 (packetIndex j) ++ leBytes 2 (jobStatus j).toNat ++
  leBytes 2 (j.stack.length - 1) ++ leBytes 2 0 ++ queueRecordBytes (s.queue q) ++
  padBytes 64 (if hide then [] else bytesOfWords j.entry) ++ padBytes 256 (if hide then [] else pkt)

/-- The job record of a halt on an invalid index, where no entry has been fetched (R121): the address of the entry at CI,
the status and the queue record; the entry and the packet read 0. -/
def captureIndex (s : State) (q : Nat) (st : Status) : List Byte :=
  let r := s.queue q
  leBytes 8 (r.ringBase * 4096 + r.ci.toNat % 2 ^ r.log2 * 64) ++ zeroBytes 2 ++ leBytes 2 st.toNat ++ zeroBytes 4 ++
  queueRecordBytes r ++ zeroBytes 320

/-- The queue whose invalid index halted the block, for the halt's own capture. -/
def indexHalt (s : State) (cause : Nat) (st : Status) : Option Nat :=
  let q := bitsN s.loe.halt.toNat 17 0
  if cause = 3 ∧ st = ST_INDEX_RANGE ∧ (s.job q).isNone then some q else none

/-- An event ring entry's bytes; DATA, LAYER and OPERATOR are hidden where `hide` says so of its context (R348, R355). -/
def eventBytes (hide : Nat → Bool) (e : BitVec 128) : List Byte :=
  let v := e.toNat
  let v' := if hide (bitsN v 29 16) then bitsN v 127 88 * 2 ^ 88 + bitsN v 31 0 else v
  leBytes 16 v'

/-- An endpoint record of a capture: ID, free slots, the ring oldest first (Table 13.6). -/
def captureEp (s : State) (hide : Nat → Bool) (e : Nat) : List Byte :=
  leBytes 2 e ++ leBytes 1 (64 - epLoad s e) ++ zeroBytes 13 ++
  padBytes 256 (((s.ep e).ring).flatMap (eventBytes hide))

/-- A wait-for record (Table 6.11). -/
def waitRecord (s : State) (hide : Bool) (q : Nat) : List Byte :=
  let w := s.waiter q
  let l := s.line w.line
  let st := match w.st with | .idle => 0 | .arming => 1 | .armed => 2 | .unlinked => 3 | .remote => 4
  let linked := w.st != .unlinked
  let mine := linked && l.word == wordOf w.fence.pa
  leBytes 4 (q + st * 2 ^ 18 + w.kind * 2 ^ 21) ++ leBytes 4 (s.queue q).owner ++
  leBytes 4 (if linked then w.line + wordOf w.fence.pa * 2 ^ 16 else 0xFFFFFFFF) ++
  leBytes 4 (if mine then l.last.toNat else 0) ++ leBytes 8 (if hide then 0 else w.target.toNat) ++
  leBytes 8 (if hide then 0 else if mine then (l.value.getD w.seen).toNat else w.seen.toNat)

/-- The queues of a context with a waiter not in IDLE, ascending. -/
def waitersOf (s : State) (c : Nat) : List Nat :=
  (s.wsh.waiters.filter (fun e => e.2.st != .idle && (s.queue e.1).owner == c)).map (·.1)

/-- A whole capture of a context (R347). `op` makes it the operator's copy: what belongs to a context other than 0 is hidden,
and all of it in the capture of such a context (R348). -/
def captureBytes (s : State) (c : Nat) (st : Status) (cause : Nat) (cycle : List Nat) (badEp : Option Nat) (op : Bool)
    (limit : Nat) : List Byte × Bool :=
  let hide (x : Nat) : Bool := op && (c != 0 || x != 0)
  let jobs := s.jobs.filter (fun e => e.2.isSome && (s.queue e.1).owner == c)
  let eps := (s.eps.filter (fun e => e.2.cmds.any (fun x => x.2 == c) || badEp == some e.1)).map (·.1)
  let ws := waitersOf s c
  let waits := ws ++ cycle.filter (fun q => !ws.contains q)
  let bare := match indexHalt s cause st with | some q => captureIndex s q st | none => []
  let body := jobs.flatMap (fun e => match e.2 with | some j => captureJob s (hide c) e.1 j | none => []) ++ bare ++
              eps.flatMap (captureEp s hide) ++
              waits.flatMap (fun q => waitRecord s (hide (s.queue q).owner) q)
  let trunc := limit < 64 + body.length
  let bytes := min limit (64 + body.length)
  let hdr := leBytes 4 0x4348474B ++ leBytes 2 1 ++ leBytes 2 st.toNat ++ leBytes 2 c ++ leBytes 2 (jobs.length + bare.length / 384) ++
             leBytes 2 eps.length ++ leBytes 2 waits.length ++ leBytes 8 s.now ++ leBytes 4 bytes ++
             leBytes 1 (b2n trunc + 2 * b2n (!cycle.isEmpty) + 4 * cause) ++ zeroBytes 35
  ((hdr ++ body).take limit, trunc)

/-- A capture is written to the context's own buffer and to the operator's (R346, R348). `cause`: 1 loss, 2 watchdog,
3 halt. `v` is the state it shows: at a loss, jobs and waiters as they stood when the fault was met. -/
def capture (s v : State) (c : Nat) (st : Status) (cause : Nat) (cycle : List Nat) (badEp : Option Nat) : State :=
  let x := s.ctx c
  let va := (x.capture.toNat % 2 ^ 57) / 64 * 64
  let own := captureBytes v c st cause cycle badEp false (x.capSize * 64)
  let s1 :=
    if x.capture.getLsbD 0 then
      match vWrite s 8 c va own.1 with
      | .ok t => { t with loe := { t.loe with truncated := own.2 } }
      | .error e => if e = ST_MEMORY_ERROR then setErr s pgLOE 29 (badWriteAddr s c va own.1.length) else setErr s pgLOE 2 c
    else s
  let op := captureBytes v c st cause cycle badEp true (s.loe.capSize * 64)
  let s2 :=
    if s.loe.haltHeld then s1
    else
      let t := putOrDrop s1 pgLOE [(s.loe.capBase.toNat, 0, op.1.length)] op.1
      { t with loe := { t.loe with truncated := op.2, haltHeld := cause == 3 } }
  count { s2 with loe := { s2.loe with capCount := s2.loe.capCount + 1 } } pgLOE 2

/-! ## Halt and loss -/

/-- The block halts: the four steps of R121, recorded in LOE_HALT (R342, Table 13.5). A halt lasts until reset, so the
first cause stands. The capture is one of context 0; `job` is the job concerned with the index its record names. -/
def haltBlock (s : State) (cause : Nat) (st : Status) (q : Nat) (job : Option (Nat × Option Nat) := none) (cycle : List Nat := [])
    (badEp : Option Nat := none) : State :=
  if s.halted then s
  else
    let h := BitVec.ofNat 64 (2 ^ 63 + cause * 2 ^ 48 + st.toNat * 2 ^ 32 + q)
    let s1 := { s with loe := { s.loe with halt := h }, pins := { s.pins with hfeAvail := false },
                       swb := { s.swb with boot := .halted } }
    let v := match job with | some (i, idx) => rankJob s1 i .lost st idx | none => s1
    capture (sendTwin (count s1 pgSTP 7) 2) v 0 st 3 cycle badEp

/-- A trace session ends (R356). -/
def endTrace (s : State) : State := { s with loe := { s.loe with trace := { s.loe.trace with owner := none } } }

/-- A fault of kind L against a context (R339, Table 3.3). `job` is the queue of the faulting job and the packet index
its record names; `watchdog` gives every begun job the status itself; `cycle` and `badEp` go into the capture. -/
def loseContext (s : State) (c : Nat) (st : Status) (job : Option (Nat × Option Nat)) (watchdog : Bool := false)
    (cycle : List Nat := []) (badEp : Option Nat := none) : State :=
  if c = 0 then
    let q := match job with | some (q, _) => q | none => 0
    haltBlock s (if accessStatus st && job.isSome then 2 else 3) st q job cycle badEp
  else
    let x := s.ctx c
    match x.st with
    | .active =>
      let s1 := count (s.setCtx c { x with st := .lost, lastStatus := st }) pgOBJ 5
      let qs := (s1.jobs.filter (fun e => e.2.isSome && (s1.queue e.1).owner == c)).map (·.1)
      let v := qs.foldl (fun t q =>
        match job with
        | some (q0, i) => if q = q0 then rankJob t q .lost st i else rankJob t q .lost (if watchdog then st else ST_CONTEXT_LOST) none
        | none => rankJob t q .lost (if watchdog then st else ST_CONTEXT_LOST) none) s1
      let s2 := qs.foldl stopJob v
      let s3 := { s2 with loe := { s2.loe with watches := s2.loe.watches.filter (fun w => w.ctx != c) } }
      let s4 := if s3.loe.trace.owner == some (TraceOwner.tenant c) then endTrace s3 else s3
      capture s4 v c st (if watchdog then 2 else 1) cycle badEp
    | .lost => count s pgOBJ 5
    | _ =>
      match job with
      | some (q0, i) => endJob s q0 .lost st i
      | none => s

/-- A fault of kind L met by a job at the packet it stands at (R131, R339). -/
def faultJob (s : State) (q : Nat) (st : Status) : State :=
  loseContext (countXlt s st) (s.queue q).owner st (some (q, none))

/-- A job ends at its packet with an operation status (R131). -/
def opStatus (s : State) (q : Nat) (st : Status) : State :=
  if st = ST_OK then s else endJob (count s (pgPKD (s.queue q).home) 4) q .opStatus st none

/-- The malformed-entry action of the queue's class (Table 4.1, R121, R130). -/
def malformed (s : State) (q : Nat) (st : Status) : State :=
  let s1 := count s pgSTP 4
  match (s.queue q).cls with
  | 0 => loseContext s1 (s.queue q).owner st (some (q, none))
  | 1 => haltBlock s1 1 st q (some (q, none))
  | _ => endJob s1 q .opStatus st none

end Sys2Proof.Machine
end

