-- ==== Sys2Proof/Machine/Flow.lean ====
section
/-! DEFINITION. How a job's packets follow one another: splitting a buffer into packets, retirement, fragments and their
buffers (R105, R106, R163), the return from buffers and graphs (R138, R139, R214), layers (R217), and the gates before
a packet starts (R124, R134, R143, R264, R273). -/

namespace Sys2Proof.Machine

/-- The security queue (R95). -/
def secQ : Nat := 0x3FFFF

/-! ## Accesses to a queue's ring and index line -/

/-- The pieces of an access to a queue's own memory: the security queue's addresses are physical, under the block's key
(R95, R127). -/
def qPieces (s : State) (q va n : Nat) (write : Bool) : Except Status (List (Nat × Nat × Nat)) :=
  if (s.queue q).cls = 2 then .ok [(va, 1, n)]
  else
    let c := s.ctx (s.queue q).owner
    let st := checkRange c va n write
    if st ≠ ST_OK then .error st else .ok (pieces c va n)

/-- The packets of a checked buffer: the walk by LEN ends at padding (R129). -/
def splitPkts : Nat → List Word → List (List Word)
  | 0, _ => []
  | _, [] => []
  | n + 1, w :: ws =>
    if w = 0 then []
    else
      let len := max 1 (lenOf w)
      (w :: ws).take len :: splitPkts n ((w :: ws).drop len)

/-- The packets of a list of words. -/
def pktsOf (ws : List Word) : List (List Word) := splitPkts ws.length ws

/-- Whether a predicated packet executes (R134). -/
def predOn (j : Job) (h : Word) : Bool :=
  if bitAt h 39 then (j.preds.getLsbD (fld h 34 32)) != bitAt h 38 else true

/-! ## Graph images (Tables 8.1 to 8.3) -/

/-- n bytes of an image at an offset, as a number. -/
def imgNat (img : List Word) (off n : Nat) : Nat :=
  leNat (((bytesOfWords ((img.drop (off / 8)).take (n / 8 + 2))).drop (off % 8)).take n)

def imgSegs (img : List Word) : Nat := imgNat img 8 2
def imgLayers (img : List Word) : Nat := imgNat img 10 2
def imgArgs (img : List Word) : Nat := imgNat img 12 1
def imgSegOff (img : List Word) (i : Nat) : Nat := imgNat img (imgNat img 16 4 + 8 * i) 4
def imgSegLen (img : List Word) (i : Nat) : Nat := imgNat img (imgNat img 16 4 + 8 * i + 4) 4

/-- A segment's packets. -/
def imgSegPkts (img : List Word) (i : Nat) : List (List Word) :=
  pktsOf ((img.drop (imgSegOff img i / 8)).take (imgSegLen img i / 8))

/-- A layer-table entry: LAYER, SEGMENT, WORD, EST_US. -/
def imgLayer (img : List Word) (i : Nat) : Nat × Nat × Nat × Nat :=
  let o := imgNat img 20 4 + 16 * i
  (imgNat img o 4, imgNat img (o + 4) 2, imgNat img (o + 6) 2, imgNat img (o + 8) 4)

/-- A version slot of a graph. -/
def gslot (s : State) (g i : Nat) : GSlot :=
  match s.graph g with
  | some r => r.slots.getD i GSlot.reset
  | none => GSlot.reset

/-- The slot in NEWEST. -/
def newestSlot (r : Graph) : Option Nat := r.slots.findIdx? (fun x => x.st == .newest)

/-- A slot's pin count changes (Table 8.5). -/
def pinSlot (s : State) (g i : Nat) (f : Nat → Nat) : State :=
  match s.graph g with
  | some r => s.setGraph g (some { r with slots := r.slots.modify i (fun x => { x with pins := f x.pins }) })
  | none => s

/-! ## Deadline history (R221) -/

/-- The set of a history entry (4-way). -/
def histSet (h : Hist) : Nat := Config.setIndex 0 [h.ctx, h.gkey, h.layer] % 16384

/-- The entry of a key. -/
def histFind (s : State) (c g layer : Nat) : Option Hist :=
  s.dl.hist.find? (fun h => h.ctx == c && h.gkey == g && h.layer == layer)

/-- Drop the last of the entries of a set beyond the fourth (least recently used; the list is most recent first). -/
def trimSet {α : Type} (set : α → Nat) (k limit : Nat) : List α → Nat → List α
  | [], _ => []
  | x :: xs, n => if set x = k then (if n < limit then x :: trimSet set k limit xs (n + 1) else trimSet set k limit xs n)
                  else x :: trimSet set k limit xs n

/-- A layer ended after d ns (R221 history_update). -/
def histUpdate (s : State) (c g layer d : Nat) : State :=
  let shift := bitsN s.dl.ctrl.toNat 10 8
  let h := match histFind s c g layer with
    | some h => { h with ewma := (((h.ewma : Int) + (((d : Int) - h.ewma) >>> shift))).toNat, count := h.count + 1 }
    | none => { ctx := c, gkey := g, layer := layer, ewma := d, count := 1 }
  let rest := s.dl.hist.filter (fun x => !(x.ctx == c && x.gkey == g && x.layer == layer))
  { s with dl := { s.dl with hist := trimSet histSet (histSet h) 4 (h :: rest) 0 } }

/-- A job's open records that carry a layer identifier. -/
def layerRecs (s : State) (q layer : Nat) : Bool :=
  (s.lane (s.queue q).home).recs.any (fun r => match r.2 with
    | some x => x.purpose == .job q && x.layer.toNat == layer
    | none => false)

/-- The layers of a job that have ended (R217): each updates the history. -/
def endLayers (s : State) (q : Nat) : State :=
  match s.job q with
  | none => s
  | some j =>
    let done := j.layers.filter (fun l => l.passed && !layerRecs s q l.layer)
    let rest := j.layers.filter (fun l => !(l.passed && !layerRecs s q l.layer))
    done.foldl (fun t l => histUpdate t (s.queue q).owner l.gkey l.layer (s.now - l.start))
      (s.setJob q (some { j with layers := rest }))

/-! ## Fragment buffers (R106, R163) -/

/-- A queue whose job has waited longest at a fence in ARMED, UNLINKED or REMOTE on a slice, among those that `ok`
admits. -/
def longestWaiter (s : State) (k : Nat) (ok : Job → Bool) : Option Nat :=
  let c := s.wsh.waiters.filter (fun e =>
    (e.2.st == .armed || e.2.st == .unlinked || e.2.st == .remote) && (s.queue e.1).home == k &&
    (match s.job e.1 with | some j => ok j | none => false))
  match c with
  | [] => none
  | x :: xs => some (xs.foldl (fun b e => if e.2.since < b.2.since then e else b) x).1

/-- The bytes of a job's fragment buffer: what its fragment and the buffers it called were read as. -/
def bufBytes (j : Job) : List Byte :=
  padBytes bufLen ((j.stack.filter (fun f => f.kind == .fragment || f.kind == .called)).flatMap (fun f => f.pkts.flatMap bytesOfWords))

/-- The bytes of a job's constant image. -/
def imgBytesOf (j : Job) : List Byte := bytesOfWords ((List.range 512).map (fun i => tget 0 (j.image.getD []) i))

/-- A spill slot with the key ID that a queue's job writes it under (R163, log 43). -/
def spillPlace (s : State) (q n : Nat) : Nat × Nat := (n, areaKey s (s.queue q).owner (spillAddr s n))

/-- What a job holds goes to a spill slot under its context's key (R163). A write that fails loses the context, as one made
for a job (Table 13.4). -/
def spillOut (s : State) (v : Nat) (x : Nat × Nat) (bytes : List Byte) (f : Job → Job) : State :=
  match putPieces s (portQ s v) [spillPiece s x bytes.length] bytes with
  | some t => modJob t v f
  | none => faultJob s v ST_MEMORY_ERROR

/-- The buffer of the job that has waited longest at a fence is spilled, and so is free (R163). -/
def spillBufOf (s : State) (k : Nat) : State :=
  match longestWaiter s k (fun j => j.hasBuf && j.spillBuf.isNone), spillSlot s with
  | some v, some n =>
    match s.job v with
    | some j =>
      let x := spillPlace s v n
      let t := spillOut s v x (bufBytes j) (fun j => { j with spillBuf := some x })
      if t.halted || (match t.job v with | some x => x.spillBuf.isNone | none => true) then t
      else t.setSlice k { t.slice k with fragFree := (t.slice k).fragFree + 1 }
    | none => s
  | _, _ => s

/-- The same for its constant image. -/
def spillImgOf (s : State) (k : Nat) : State :=
  match longestWaiter s k (fun j => j.image.isSome && j.spillImg.isNone), spillSlot s with
  | some v, some n =>
    match s.job v with
    | some j =>
      let x := spillPlace s v n
      let t := spillOut s v x (imgBytesOf j) (fun j => { j with spillImg := some x })
      if t.halted || (match t.job v with | some x => x.spillImg.isNone | none => true) then t
      else t.setSlice k { t.slice k with imgFree := (t.slice k).imgFree + 1 }
    | none => s
  | _, _ => s

/-- A spilled area is read back and its slot zeroed; a memory error, or a key revoked meanwhile, loses the context
(R163, R289, Table 13.4). -/
def unspill (s : State) (q : Nat) (slot : Option (Nat × Nat)) (len : Nat) : State :=
  match slot with
  | none => s
  | some x =>
    if keyDown s (s.queue q).owner x.2 then faultJob s q ST_KEY_REVOKED
    else if chanFailed s (spillAddr s x.1) len then faultJob s q ST_MEMORY_ERROR
    else zeroSpill (emits s (readsOf s (portQ s q) [spillPiece s x len])) q slot len

/-- Another queue stands before q in a list of waiting jobs. -/
def notFirst (ws : List Nat) (q : Nat) : Bool := match ws with | [] => false | h :: _ => h != q

/-- A job takes a fragment buffer: a free one, or one that a job waiting at a fence spills; else it waits (R106, R163). A
buffer of its own in the spill region is restored into it. -/
def takeBuf (s : State) (q : Nat) : Option State :=
  let k := (s.queue q).home
  if notFirst (s.slice k).fragWait q then none
  else
    let t := if (s.slice k).fragFree > 0 then s else spillBufOf s k
    let sl := t.slice k
    if sl.fragFree = 0 then none
    else
      let t1 := t.setSlice k { sl with fragFree := sl.fragFree - 1, fragWait := sl.fragWait.filter (· != q) }
      let old := match s.job q with | some j => j.spillBuf | none => none
      some (unspill (modJob t1 q (fun j => { j with hasBuf := true, spillBuf := none })) q old bufLen)

/-- The same for a constant image, which is zero when first taken (R135). -/
def takeImg (s : State) (q : Nat) : Option State :=
  let k := (s.queue q).home
  if notFirst (s.slice k).imgWait q then none
  else
    let t := if (s.slice k).imgFree > 0 then s else spillImgOf s k
    let sl := t.slice k
    if sl.imgFree = 0 then none
    else
      let t1 := t.setSlice k { sl with imgFree := sl.imgFree - 1, imgWait := sl.imgWait.filter (· != q) }
      let old := match s.job q with | some j => j.spillImg | none => none
      some (unspill (modJob t1 q (fun j => { j with image := some (j.image.getD []), spillImg := none })) q old imgLen)

/-- A job joins the queues waiting for a constant image. -/
def waitImg (s : State) (q : Nat) : State :=
  let k := (s.queue q).home
  let sl := s.slice k
  let s1 := if sl.imgWait.contains q then s
            else count (s.setSlice k { sl with imgWait := sl.imgWait ++ [q] }) (pgPKD k) 6
  modJob s1 q (fun j => { j with waitSince := j.waitSince.orElse (fun _ => some s.now) })

/-- A job joins the queues waiting for a fragment buffer. -/
def waitBuf (s : State) (q : Nat) : State :=
  let k := (s.queue q).home
  let sl := s.slice k
  let s1 := if sl.fragWait.contains q then s
            else count (s.setSlice k { sl with fragWait := sl.fragWait ++ [q] }) pgFET 5
  modJob s1 q (fun j => { j with waitSince := j.waitSince.orElse (fun _ => some s.now) })

/-! ## Faults on the ring (Table 4.9, R120) -/

/-- What a job without a record leaves in flight no longer belongs to its queue (Table 4.9). -/
def orphan (s : State) (q : Nat) : State :=
  let k := (s.queue q).home
  let ln := s.lane k
  let s1 := s.setLane k { ln with recs := ln.recs.map (fun e => match e.2 with
    | some r => if r.purpose = .job q then (e.1, some { r with purpose := .orphan }) else e
    | none => e) }
  { s1 with wsh := { s1.wsh with atomics := s1.wsh.atomics.map (fun a => if a.job = some q then { a with job := none } else a) } }

/-- A queue returns to DISABLED with FETCHED clear, and its job goes without a record (Tables 4.9 and 13.7). -/
def dropQueue (s : State) (q : Nat) : State :=
  let s0 := orphan (releaseImage (stopJob s q) q) q
  (s0.setJob q none).setQueue q { s0.queue q with fetched := false, entryRead := false, st := .disabled }

/-- A translation or access fault on a queue's ring, fragment table or index line: the owner is lost with the status, no
record is written and the queue is DISABLED; a kernel queue halts the block. -/
def ringFault (s : State) (q : Nat) (st : Status) : State :=
  let r := s.queue q
  if r.owner = 0 then haltBlock (countXlt s st) 2 st q (some (q, none))
  else dropQueue (loseContext (countXlt s st) r.owner st (some (q, none))) q

/-! ## Reading fragments (R105, R106) -/

/-- Read the next line of the fragment table (R105). -/
def requestLine (s : State) (q : Nat) : State :=
  match s.job q with
  | none => s
  | some j =>
    match qPieces s q (j.fragTable + j.fragNext / 4 * 64) 64 false with
    | .error st => ringFault s q st
    | .ok ps =>
      count (modJob (issue s (portQ s q) (.queue q .fragRead) (readsOf s (portQ s q) ps)) q
        (fun j => { j with phase := .fragTable })) pgFET 2

/-- The fragment-table entry of the next fragment: ADDR, LENGTH, CRC (Table 4.7). -/
def fragEntry (j : Job) : Nat × Nat × Nat :=
  let a := wordAt j.fragLine (j.fragNext % 4 * 2)
  let b := wordAt j.fragLine (j.fragNext % 4 * 2 + 1)
  (a.toNat, fld b 31 0, fld b 63 32)

/-- LENGTH of a buffer: 8 to 65,536, a multiple of 8. -/
def bufLenOk (n : Nat) : Bool := decide (8 ≤ n ∧ n ≤ 65536 ∧ n % 8 = 0)

/-- A fragment-table entry keeps to Table 4.7. -/
def fragOk (e : Nat × Nat × Nat) : Bool := e.1 % 8 == 0 && bufLenOk e.2.1

/-- A fragment is refused for its format; with CRC set, one of no bytes is first judged by the CRC of no bytes (R107). -/
def badFrag (s : State) (q n crc : Nat) : State :=
  if (s.queue q).crc && n == 0 && crc != 0 then malformed (count s pgFET 4) q ST_FRAGMENT_CRC
  else malformed s q ST_FRAGMENT_FORMAT

/-- Read the next fragment in full, once its table line is at hand; waits for a fragment buffer (R106). With CRC set, a
fragment that breaks Table 4.7 is read too where a buffer holds it, since its CRC is judged first (R107, log 41). -/
def requestFrag (s : State) (q : Nat) : State :=
  match s.job q with
  | none => s
  | some j =>
    let (a, n, crc) := fragEntry j
    let ok := fragOk (fragEntry j)
    if !ok && (!(s.queue q).crc || n == 0 || decide (65536 < n)) then badFrag s q n crc
    else match qPieces s q a n false with
      | .error st => if ok then faultJob s q st else malformed s q ST_FRAGMENT_FORMAT
      | .ok ps =>
        let got := if j.hasBuf then some s else takeBuf s q
        match got with
        | none => waitBuf (modJob s q (fun j => { j with phase := .bufWait false })) q
        | some t =>
          let t1 := chargeWait t q
          modJob (issue t1 (portQ s q) (.queue q .fragRead) (readsOf s (portQ s q) ps)) q
            (fun j => { j with phase := .fragRead })

/-- The job goes on with its next fragment. -/
def nextFrag (s : State) (q : Nat) : State :=
  match s.job q with
  | none => s
  | some j => if j.fragNext % 4 = 0 then requestLine s q else requestFrag s q

/-! ## Retirement -/

/-- A handle a graph run held is let go. -/
def letGraph (s : State) (q h : Nat) : State :=
  match s.job q with
  | some j =>
    if j.heldKeep.contains h then
      unholdHandle (s.setJob q (some { j with heldKeep := j.heldKeep.erase h })) (s.queue q).owner h
    else s
  | none => s

/-- The handle of a memory operand, in handle form. -/
def mrefIdx (a : Word) : Option Nat := if bitAt a 63 then none else some (hIdx (fld a 31 0))

/-- The handle of the ARGS of the GRAPH_RUN at the top of a stack, for an image that takes arguments (R126, R214). -/
def argsHandle (img : List Word) (callers : List Frame) : Option Nat :=
  match callers with
  | [] => none
  | f :: _ => if imgArgs img = 0 then none else (f.pkts[f.pc]?).bind (fun ws => mrefIdx (wordAt ws 2))

/-- A graph run's version is unpinned and the handles its packet held are let go (R126, R214). -/
def dropRun (s : State) (q g i h : Nat) (callers : List Frame) : State :=
  let args := argsHandle (gslot s g i).image callers
  let s1 := letGraph (pinSlot s g i (· - 1)) q h
  match args with
  | some a => letGraph s1 q a
  | none => s1

/-- A graph run ends; the outermost one lets go of every handle still held (R222). -/
def leaveGraph (s : State) (q g i h : Nat) (callers : List Frame) (outer : Bool) : State :=
  let s1 := dropRun s q g i h callers
  if outer then
    match s1.job q with
    | some j => j.heldKeep.foldl (fun t x => letGraph t q x) s1
    | none => s1
  else s1

/-- A frame belongs to a graph run. -/
def isGraph (f : Frame) : Bool := match f.kind with | .graph _ _ _ _ => true | _ => false

/-- Bring a job to its next packet: ends of buffers, of segments and of graphs (R106, R138, R214). -/
def settleN : Nat → State → Nat → State
  | 0, s, _ => s
  | n + 1, s, q =>
    match s.job q with
    | none => s
    | some j =>
      match j.stack with
      | [] => s
      | f :: rest =>
        if f.pc < f.pkts.length then s
        else match f.kind with
          | .inlined => endStream s q
          | .fragment => if j.fragNext < j.fragCount then nextFrag s q else endStream s q
          | .called => settleN n (s.setJob q (some { j with stack := rest })) q
          | .graph g i seg h =>
            let img := (gslot s g i).image
            if seg + 1 < imgSegs img then
              settleN n (s.setJob q (some { j with stack :=
                { f with kind := .graph g i (seg + 1) h, pkts := imgSegPkts img (seg + 1), pc := 0,
                         va := imgSegOff img (seg + 1) } :: rest })) q
            else
              let s1 := leaveGraph s q g i h rest (!rest.any isGraph)
              let s2 := modJob s1 q (fun j =>
                { j with stack := match rest with | [] => [] | c :: cs => { c with pc := c.pc + 1 } :: cs,
                         run := match j.run with | some r => if rest.length ≤ r.depth then none else some r | none => none,
                         layers := if rest.any isGraph then j.layers
                                   else j.layers.map (fun l => { l with passed := true }) })
              settleN n (endLayers (countPacket s2 (s.queue q).owner) q) q

/-- The same, with steps enough for every level and segment a job can have open; the scheduler takes note of the packet the
job then stands at (R273). -/
def settle (s : State) (q : Nat) : State := schedUpdate (settleN 70000 s q) (partQ s q)

/-- The top frame moves past its packet. -/
def bumpTop : List Frame → List Frame
  | f :: fs => { f with pc := f.pc + 1 } :: fs
  | [] => []

/-- The present packet retires (R125, R343) and the call stack changes as the packet says; the job moves to the next. -/
def retireStack (s : State) (q : Nat) (g : List Frame → List Frame) : State :=
  let s1 := unholdPacket s q
  let s2 := countPacket s1 (s.queue q).owner
  let s3 := modJob s2 q (fun j =>
    { j with idx := j.idx + 1, phase := .run, decoded := false, priorCounted := false, schedCounted := false, fanReady := none,
             holdSince := none, waitSince := none, stack := g j.stack })
  settle s3 q

/-- The present packet retires and the job moves to the next. -/
def retire (s : State) (q : Nat) : State := retireStack s q bumpTop

/-- Retire with a register or other change of the job made at the same time. -/
def retireWith (s : State) (q : Nat) (f : Job → Job) : State := retire (modJob s q f) q

/-- Dispatch register i of a job: D14 is the innermost open loop's index, D15 the last status (Table 5.6). -/
def dreg (j : Job) (i : Nat) : Word :=
  if i = 15 then j.d15
  else if i = 14 then
    match (j.stack.flatMap (·.blocks)).filterMap (fun b => match b with | Block.loopb _ k _ => some k | Block.ifb _ => none) with
    | k :: _ => BitVec.ofNat 64 k
    | [] => 0
  else wordAt j.d i

/-- A job with register D0 to D13 written. -/
def setD (j : Job) (i : Nat) (v : Word) : Job := { j with d := j.d.set i v }

/-! ## Holds and the scheduler (R264, R273) -/

/-- A unit of the partition awaits a known-answer run (KAR_PENDING), which holds the partition (R392, R377). -/
def karHolds (s : State) (p : Nat) : Bool :=
  (s.eps.any (fun e => e.2.part == p && (e.2.unit.karPending || (s.hub (e.1 / 32)).unit.karPending))) ||
  (s.chans.any (fun e => e.2.part == p && e.2.unit.karPending))

/-- The partition's channel migration holds a context (R268). -/
def migHolds (s : State) (p c : Nat) : Bool :=
  (s.part p).migrating.isSome &&
  (s.ctx c).pages.any (fun e => (s.part p).migNow.any (fun m =>
    (s.chan m).base ≤ e.2.gran && e.2.gran < (s.chan m).base + (s.chan m).granules))

/-- A pending swap, run or migration holds the job before a grid-translated packet (R264, R268, R377). -/
def swapHolds (s : State) (q : Nat) (j : Job) : Bool :=
  let p := partQ s q
  !j.epochOpen && !j.deferralPass &&
  ((s.part p).swap.isSome || karHolds s p || migHolds s p (s.queue q).owner)

/-- A job of a partition with a pending swap holds at its packet, which would send a grid-translated message (R264). -/
def heldBySwap (s : State) (p : Nat) (j : Job) : Bool :=
  (s.part p).swap.isSome && !j.epochOpen && !j.deferralPass && streamOpen j.phase &&
  (match curPkt j with | some w => gridKind (opOf (hdrOf w)) | none => false)

/-- A launch-kind packet is held under R264, R268 or R273: HOLD_NS starts (R274). -/
def markHeld (s : State) (q : Nat) : State :=
  modJob s q (fun j => { j with holdSince := j.holdSince.orElse (fun _ => some s.now) })

/-- The hold of a grid-translated packet counts in HOLD_NS unless it is a BARRIER_ARM's or a known-answer run's alone
(R274). -/
def holdCounts (s : State) (q op : Nat) : Bool :=
  let p := partQ s q
  launchKind op && ((s.part p).swap.isSome || migHolds s p (s.queue q).owner)

/-- The holds before a packet of an opcode: none where the packet may start, else the state with the hold counted. -/
def gate (s : State) (q op : Nat) : State × Bool :=
  match s.job q with
  | none => (s, false)
  | some j =>
    if gridKind op && swapHolds s q j then (if holdCounts s q op then markHeld s q else s, false)
    else if launchKind op then
      let p := partQ s q
      let c := (s.queue q).owner
      let s1 := schedUpdate s p
      if (s1.part p).cur = some c then (chargeHold s1 q, true)
      else if j.schedCounted then (s1, false)
      else
        let s2 := count s1 pgSCH 6
        let s3 := if (s1.part p).cur.isSome then s2.setCtx c { s2.ctx c with acctPreempt := (s2.ctx c).acctPreempt + 1 } else s2
        (markHeld (modJob s3 q (fun j => { j with schedCounted := true })) q, false)
    else (chargeHold s q, true)

/-! ## Running a packet -/

/-- A spilled buffer or image is restored before the woken job's next packet executes; none where it has to wait (R163). -/
def restoreSpill (s : State) (q : Nat) : Option State :=
  match s.job q with
  | none => none
  | some j =>
    match (if j.spillBuf.isSome then takeBuf s q else some s) with
    | none => none
    | some t => if j.spillImg.isSome then (takeImg t q).map (fun u => chargeWait u q) else some (if j.spillBuf.isSome then chargeWait t q else t)

/-- A job waits for the buffer or the image it has in the spill region. -/
def waitSpill (s : State) (q : Nat) (j : Job) : State :=
  let s1 := if j.spillBuf.isSome then waitBuf s q else s
  if j.spillImg.isSome then waitImg s1 q else s1

/-- The job of a queue may run its packet. -/
def atPacket (s : State) (q : Nat) : Bool := match s.job q with | some j => j.phase == .run | none => false

/-- The job's earlier commands have returned their tokens and its earlier fence signals completed (R124). -/
def priorDone (s : State) (q : Nat) : Bool :=
  openRecs s q == 0 && (match s.job q with | some j => j.atomics == 0 | none => true)

/-- Every engine command of the job has returned its tokens (R222). -/
def tokensDone (s : State) (q : Nat) : Bool := openRecs s q == 0

/-- A packet that starts counts as decoded, once (Table 5.20). -/
def countDecoded (s : State) (q : Nat) : State :=
  match s.job q with
  | some j => if j.decoded then s
              else count (s.setJob q (some { j with decoded := true })) (pgPKD (s.queue q).home) 0
  | none => s

/-- What a read of the present packet from a version area meets: a failed channel, or a stopped key (R214, R290, R341,
Table 13.4). -/
def areaFault (s : State) (q : Nat) (j : Job) : Option Status :=
  match j.stack with
  | [] => none
  | f :: _ =>
    match f.kind with
    | .graph g i _ _ =>
      let off := f.va + 8 * ((f.pkts.take f.pc).map List.length).sum
      let n := 8 * ((curPkt j).getD []).length
      let gs := (((gslot s g i).grans.drop (off / 65536)).take ((off + n - 1) / 65536 - off / 65536 + 1))
      if keyDown s (s.queue q).owner (gslot s g i).key then some ST_KEY_REVOKED
      else if gs.any (fun x => chanFailed s (x * 65536) 65536) then some ST_MEMORY_ERROR
      else none
    | _ => none

/-- A packet row of queue q with an opcode: nothing happens unless the job of q stands ready at such a packet (log 3).
A predicated-off packet retires at once; `tokens` says that WAIT_PRIOR is implied for the packet (R143); `f` is the packet's
effect from the state, the job and the packet's words. -/
def runPacket (s : State) (q op : Nat) (tokens : List Word → Bool) (f : State → Job → List Word → State) : State :=
  match s.job q with
  | none => s
  | some j =>
    match curPkt j with
    | none => s
    | some ws =>
      if s.halted ∨ j.phase ≠ .run ∨ opOf (hdrOf ws) ≠ op ∨ !(sliceUp s (s.queue q).home) ∨
         (s.slice (s.queue q).home).paused then s
      else match areaFault s q j with
      | some e => faultJob s q e
      | none =>
      if !(predOn j (hdrOf ws)) then retire (count (count s (pgPKD (s.queue q).home) 0) (pgPKD (s.queue q).home) 1) q
      else match restoreSpill s q with
        | none => waitSpill s q j
        | some s1 =>
          if !atPacket s1 q then s1
          else if (priorOf (hdrOf ws) || tokens ws) && !priorDone s1 q then
            if j.priorCounted then s1
            else count (modJob s1 q (fun j => { j with priorCounted := true })) (pgPKD (s.queue q).home) 7
          else
            let g := gate s1 q op
            if g.2 then
              let s2 := countDecoded g.1 q
              match s2.job q with
              | some j' => f s2 j' ws
              | none => s2
            else g.1

/-- The row's outcome: the state the packet leaves. -/
def packetRow (s : State) (q op : Nat) (tokens : List Word → Bool) (f : State → Job → List Word → State) : Result :=
  .next (runPacket s q op tokens f)

/-- WAIT_PRIOR is not implied. -/
def noTokens (_ : List Word) : Bool := false

end Sys2Proof.Machine
end

