-- ==== Sys2Proof/Machine/Operands.lean ====
section
/-! DEFINITION. The packets' operand forms and the decoder's checks: Table 5.4 and the payload tables of chapter 5 as
data, and the buffer walk of R129 with the checks of Table 5.5. -/

namespace Sys2Proof.Machine

/-! ## Table 5.4 and the payload tables -/

/-- A packet's row of Table 5.4. Classes: bit 0 tenant, bit 1 kernel, bit 2 security. -/
structure PktRow where
  op : Nat
  lens : List Nat
  classes : Nat
deriving DecidableEq, Repr

/-- Table 5.4. -/
def pktTable : List PktRow :=
  [⟨0x00, [1], 7⟩, ⟨0x01, [5], 3⟩, ⟨0x02, [6], 3⟩, ⟨0x03, [6], 3⟩, ⟨0x04, [5], 3⟩,
   ⟨0x05, (List.range 30).map (3 + ·), 3⟩, ⟨0x06, [5], 3⟩, ⟨0x07, [5], 3⟩, ⟨0x10, [3], 3⟩, ⟨0x11, [3], 3⟩,
   ⟨0x12, [3], 3⟩, ⟨0x13, [3], 3⟩, ⟨0x14, [3], 3⟩, ⟨0x20, [5], 3⟩, ⟨0x21, [1], 3⟩, ⟨0x22, [1], 3⟩, ⟨0x23, [3], 3⟩,
   ⟨0x24, [1], 3⟩, ⟨0x25, [4], 3⟩, ⟨0x26, [1], 3⟩, ⟨0x27, [4], 3⟩] ++
  [⟨0x30, [4], 3⟩, ⟨0x31, [4], 3⟩, ⟨0x32, [2], 3⟩, ⟨0x33, [2], 3⟩, ⟨0x40, [2], 3⟩, ⟨0x41, [2], 3⟩, ⟨0x42, [1, 3], 7⟩,
   ⟨0x43, [6], 3⟩, ⟨0x50, [5], 3⟩, ⟨0x51, [2], 3⟩, ⟨0x52, [4], 3⟩, ⟨0x80, [3], 2⟩, ⟨0x81, [2], 2⟩, ⟨0x82, [4], 2⟩,
   ⟨0x83, [4], 2⟩, ⟨0x84, [4], 2⟩, ⟨0x85, [2], 2⟩, ⟨0x86, [2], 2⟩, ⟨0x87, [3], 2⟩, ⟨0x88, [2], 2⟩, ⟨0x89, [2], 2⟩,
   ⟨0x8A, [2], 2⟩, ⟨0x8B, [2], 2⟩, ⟨0xC0, [4], 4⟩, ⟨0xC1, [2], 4⟩, ⟨0xC2, [2], 4⟩, ⟨0xC3, [7], 4⟩]

def pktRow (op : Nat) : Option PktRow := pktTable.find? (fun r => r.op == op)

/-- Bits [hi:lo] as a mask. -/
def mask (hi lo : Nat) : Nat := 2 ^ (hi + 1) - 2 ^ lo

/-- Every bit of a word. -/
def all64 : Nat := mask 63 0

/-- The defined bits of an MREF's two words (Table 5.3). -/
def mrefMask : List Nat := [mask 63 63 + mask 31 0, all64]

/-- FLAGS bits [14:0] a packet defines. -/
def flagMask (op : Nat) : Nat :=
  if op = 0x01 ∨ op = 0x02 ∨ op = 0x23 ∨ op = 0x82 then 3
  else if op = 0x05 ∨ op = 0x06 ∨ op = 0x11 ∨ op = 0x12 ∨ op = 0x14 ∨ op = 0x32 ∨ op = 0x42 ∨ op = 0x81 then 1
  else if op = 0x20 then 0x3FF
  else if op = 0x50 then 7
  else 0

/-- IMM bits a packet defines: RDST of TIMESTAMP and of QUERY. -/
def immMask (op : Nat) : Nat := if op = 0x52 ∨ op = 0x42 then 0xF else 0

/-- The defined bits of words 1 on of a packet (Tables 5.8 to 5.19). -/
def payloadMask (op flags len : Nat) : List Nat :=
  if op = 0x01 then [all64] ++ mrefMask ++ [mask 41 0]
  else if op = 0x02 then mrefMask ++ mrefMask ++ [mask 41 0]
  else if op = 0x03 then mrefMask ++ mrefMask ++ [all64]
  else if op = 0x04 then mrefMask ++ [all64, all64]
  else if op = 0x05 then
    (mask 28 16 + mask 11 0) :: (if flags % 2 = 1 then mrefMask else List.replicate (len - 2) all64)
  else if op = 0x06 then [all64] ++ mrefMask ++ [mask 15 0]
  else if op = 0x07 then [all64] ++ mrefMask ++ [mask 20 0]
  else if op = 0x10 ∨ op = 0x11 ∨ op = 0x12 ∨ op = 0x13 then [all64, all64]
  else if op = 0x14 then [all64, mask 5 0]
  else if op = 0x20 then (if flags % 4 = 1 then [all64, all64] else mrefMask) ++ [all64, all64]
  else if op = 0x23 then (if flags % 4 = 2 ∨ flags % 4 = 3 then mrefMask else [all64, all64])
  else if op = 0x25 then mrefMask ++ [mask 63 32 + mask 16 0]
  else if op = 0x27 then [mask 47 32 + mask 20 0] ++ mrefMask
  else if op = 0x30 then [mask 39 0] ++ mrefMask
  else if op = 0x31 then [mask 51 48 + mask 39 0] ++ mrefMask
  else if op = 0x32 ∨ op = 0x40 then [all64]
  else if op = 0x33 ∨ op = 0x51 then [mask 31 0]
  else if op = 0x41 then [mask 55 0]
  else if op = 0x42 then (if flags % 2 = 1 then [] else mrefMask)
  else if op = 0x43 then mrefMask ++ mrefMask ++ [all64]
  else if op = 0x50 then [mask 47 0, all64] ++ mrefMask
  else if op = 0x52 then [mask 63 32 + mask 15 0] ++ mrefMask
  else if op = 0x80 then [mask 44 40 + mask 36 32 + mask 27 16 + mask 14 0, mask 25 0]
  else if op = 0x81 then [mask 13 0]
  else if op = 0x82 then [mask 61 0, all64, all64]
  else if op = 0x83 ∨ op = 0x84 then [mask 31 16 + mask 9 0] ++ mrefMask
  else if op = 0x85 then [mask 63 32 + mask 7 0]
  else if op = 0x86 then [mask 47 16 + mask 13 0]
  else if op = 0x87 then [mask 63 16 + mask 7 0, mask 9 0]
  else if op = 0x88 ∨ op = 0x89 then [mask 29 16 + mask 1 0]
  else if op = 0x8A then [mask 22 16 + mask 0 0]
  else if op = 0x8B then [mask 8 0]
  else if op = 0xC0 then [mask 29 16 + mask 11 0, mask 51 0, mask 15 0]
  else if op = 0xC1 then [mask 11 0]
  else if op = 0xC2 then [mask 7 0]
  else if op = 0xC3 then [mask 51 0, mask 31 0, all64, all64, all64, all64]
  else []

/-- Where a packet's MREF operands begin, and whether each is 8-byte aligned by its payload table. -/
def mrefsAt (op flags : Nat) : List (Nat × Bool) :=
  if op = 0x01 ∨ op = 0x06 ∨ op = 0x07 then [(2, false)]
  else if op = 0x02 then [(1, false), (3, false)]
  else if op = 0x03 then [(1, false), (3, false)]
  else if op = 0x04 then [(1, false)]
  else if op = 0x05 then (if flags % 2 = 1 then [(2, false)] else [])
  else if op = 0x20 then (if flags % 4 = 0 then [(1, true)] else [])
  else if op = 0x23 then (if flags % 4 = 2 then [(1, true)] else [])
  else if op = 0x25 then [(1, true)]
  else if op = 0x27 ∨ op = 0x30 ∨ op = 0x31 ∨ op = 0x52 ∨ op = 0x83 ∨ op = 0x84 then [(2, false)]
  else if op = 0x42 then (if flags % 2 = 0 then [(1, true)] else [])
  else if op = 0x43 then [(1, false), (3, false)]
  else if op = 0x50 then [(3, false)]
  else []

/-- The fixed bits of an MREF: in virtual-address form HANDLE is 0 and bits [63:57] of OFFSET are 0. -/
def mrefOk (ws : List Word) (e : Nat × Bool) : Bool :=
  let a := wordAt ws e.1
  let b := wordAt ws (e.1 + 1)
  (!(bitAt a 63) || (fld a 31 0 == 0 && fld b 63 57 == 0)) && (!e.2 || fld b 2 0 == 0)

/-- The fixed bits of a FENCE operand (R127). -/
def fenceOk (w : Word) : Bool := if bitAt w 63 then fld w 62 57 == 0 else fld w 62 24 == 0

/-- Parameter block sizes of the routine library (Table 9.1), identifiers 1 to 14. A slice's library holds exactly these
routines, whatever the library part of its image carries (DESIGN CHOICE, log 53). -/
def routineSizes : List Nat := [80, 48, 64, 48, 64, 64, 64, 48, 80, 48, 16, 40, 48, 48]

def routineSize (id : Nat) : Option Nat := if id = 0 then none else routineSizes[id - 1]?

/-! ## Checks of one packet (Table 5.5) -/

/-- Every reserved bit of a packet is 0. -/
def reservedOk (op : Nat) (ws : List Word) : Bool :=
  let h := hdrOf ws
  let flags := flagsOf h
  fld h 15 14 == 0 && fld h 37 35 == 0 &&
  (flags &&& flagMask op) == flags && (immOf h &&& immMask op) == immOf h &&
  ((ws.drop 1).zip (payloadMask op flags ws.length)).all (fun p => (p.1.toNat &&& p.2) == p.1.toNat)

/-- Every enumerated field of a packet holds a listed value (Table 5.5, R136, R142, R145, R184). A SIZE of SET_CONST
above 4,096 fails here, with ST_PACKET_FIELD (DESIGN CHOICE, log 53). -/
def fieldOk (op : Nat) (ws : List Word) : Bool :=
  let h := hdrOf ws
  let flags := flagsOf h
  let w1 := wordAt ws 1
  (mrefsAt op flags).all (mrefOk ws) &&
  (if op = 0x01 ∨ op = 0x02 then
    let w := wordAt ws (if op = 0x01 then 4 else 5)
    let t := flags % 4
    t != 3 && (if t = 0 then fld w 31 16 != 0 else fld w 31 16 == 0) &&
    decide (1 ≤ fld w 15 0 ∧ fld w 15 0 ≤ 256 ∧ fld w 41 32 ≤ 512)
  else if op = 0x05 then
    fld w1 18 16 == 0 && fld w1 2 0 == 0 &&
    (if flags % 2 = 1 then decide (8 ≤ fld w1 28 16 ∧ fld w1 28 16 ≤ 4096) else fld w1 28 16 == 0)
  else if op = 0x10 ∨ op = 0x11 ∨ op = 0x12 ∨ op = 0x13 then fenceOk w1
  else if op = 0x20 then
    !(bitAt h 39) && decide (flags % 4 ≤ 1) && (!(flags.testBit 9) || flags.testBit 8) &&
    (flags % 4 != 1 || (decide (w1.toNat < 16) && wordAt ws 2 == 0))
  else if op = 0x21 ∨ op = 0x22 ∨ op = 0x24 then !(bitAt h 39)
  else if op = 0x23 then
    !(bitAt h 39) && flags % 4 != 3 &&
    (flags % 4 != 0 || (fld w1 63 32 == 0 && wordAt ws 2 == 0)) &&
    (flags % 4 != 1 || (decide (w1.toNat < 16) && wordAt ws 2 == 0))
  else if op = 0x25 then bufLenOk (fld (wordAt ws 3) 16 0)
  else if op = 0x27 then
    (!(bitAt w1 20) || decide (fld w1 19 16 ≤ 13)) &&
    (match routineSize (fld w1 15 0) with | some n => fld w1 47 32 == n | none => true)
  else if op = 0x31 then decide (fld w1 51 48 ≤ 13)
  else if op = 0x42 then if flags % 2 = 1 then decide (immOf h ≤ 13) else immOf h == 0
  else if op = 0x52 then decide (immOf h ≤ 13)
  else if op = 0x80 then
    decide (8 ≤ fld w1 44 40 ∧ fld w1 44 40 ≤ 24 ∧ 10 ≤ fld w1 36 32 ∧ fld w1 36 32 ≤ 24 ∧ 1 ≤ fld w1 27 24)
  else if op = 0x83 ∨ op = 0x84 then decide (1 ≤ fld w1 31 16 ∧ fld w1 31 16 ≤ 8192)
  else if op = 0x89 then
    let t := fld w1 29 16
    (if fld w1 1 0 = 1 then decide (t < 512) else if fld w1 1 0 = 2 then decide (t < 256)
     else if fld w1 1 0 = 3 then t == 0 else true)
  else if op = 0x8A then bitAt w1 0 || decide (fld w1 22 16 ≤ 31)
  else true)

/-- The length agrees with the opcode, and with the source flag of SET_CONST and TIMESTAMP. -/
def lengthOk (r : PktRow) (h : Word) : Bool :=
  r.lens.contains (lenOf h) &&
  (r.op != 0x05 || flagsOf h % 2 == 0 || lenOf h == 4) &&
  (r.op != 0x42 || (if flagsOf h % 2 = 1 then lenOf h == 1 else lenOf h == 3))

/-- The class may carry the packet; a security TIMESTAMP has DEST 1. -/
def classOk (r : PktRow) (cls : Nat) (h : Word) : Bool :=
  r.classes.testBit cls && (cls != 2 || r.op != 0x42 || flagsOf h % 2 == 1)

/-- An open block of the walk: an IF and whether its ELSE has been seen, or a LOOP; with the word its opener begins
at. -/
inductive Open where
  | ifb (els : Bool) (at_ : Nat)
  | loopb (at_ : Nat)
deriving DecidableEq, Repr

/-- The word an open block's opener begins at. -/
def Open.at : Open → Nat
  | .ifb _ p => p
  | .loopb p => p

/-- It is an IF. -/
def Open.isIf : Open → Bool
  | .ifb _ _ => true
  | .loopb _ => false

/-- The structural checks of one packet, which begins at word p: matching, depth from the point of call, the SET_CONST
range, the routine. -/
def structOk (ifs loops : Nat) (op : Nat) (ws : List Word) (open_ : List Open) (p : Nat) : Except Status (List Open) :=
  let h := hdrOf ws
  if op = 0x20 ∧ !(flagsOf h).testBit 9 then
    if 16 ≤ ifs + (open_.filter Open.isIf).length then .error ST_NEST_DEPTH else .ok (.ifb false p :: open_)
  else if op = 0x21 then
    match open_ with
    | .ifb false p :: r => .ok (.ifb true p :: r)
    | _ => .error ST_NEST_UNMATCHED
  else if op = 0x22 then
    match open_ with
    | .ifb _ _ :: r => .ok r
    | _ => .error ST_NEST_UNMATCHED
  else if op = 0x23 then
    if 8 ≤ loops + (open_.filter (fun o => !o.isIf)).length then .error ST_NEST_DEPTH else .ok (.loopb p :: open_)
  else if op = 0x24 then
    match open_ with
    | .loopb _ :: r => .ok r
    | _ => .error ST_NEST_UNMATCHED
  else if op = 0x05 then
    let w1 := wordAt ws 1
    let n := if flagsOf h % 2 = 1 then fld w1 28 16 else 8 * (ws.length - 2)
    if 4096 < fld w1 11 0 + n then .error ST_CONST_RANGE else .ok open_
  else if op = 0x27 then
    if (routineSize (fld (wordAt ws 1) 15 0)).isNone then .error ST_ROUTINE_UNKNOWN else .ok open_
  else .ok open_

/-- The checks of Table 5.5 at one packet, in order. `rest` is the buffer from the packet's header on, which stands at
word p. A packet that overruns its buffer fails after OPCODE and LENGTH, which its header decides, and before the checks
that read its payload (DESIGN CHOICE: R129 gives the overrun no place in Table 5.5, log 42). -/
def checkPacket (cls ifs loops : Nat) (rest : List Word) (open_ : List Open) (p : Nat) : Except Status (List Open × Nat) :=
  let h := wordAt rest 0
  match pktRow (opOf h) with
  | none => .error ST_PACKET_OPCODE
  | some r =>
    if !lengthOk r h then .error ST_PACKET_LENGTH
    else if rest.length < lenOf h then .error ST_FRAGMENT_FORMAT
    else
      let ws := rest.take (lenOf h)
      if !classOk r cls h then .error ST_PACKET_PRIVILEGE
      else if !reservedOk r.op ws then .error ST_PACKET_RESERVED
      else if !fieldOk r.op ws then .error ST_PACKET_FIELD
      else match structOk ifs loops r.op ws open_ p with
        | .error e => .error e
        | .ok o => .ok (o, lenOf h)

/-- The end of the walk: the outermost block still open fails, with its opener's word. -/
def endWalk (open_ : List Open) : Status × Nat :=
  match open_.getLast? with
  | none => (ST_OK, 0)
  | some o => (ST_NEST_UNMATCHED, o.at)

/-- The buffer walk (R129) from the point of call: `ifs` and `loops` are the blocks open in the callers; p is the word the
walk stands at. The answer is the first failure and the word its packet begins at. -/
def walkBuffer (cls ifs loops : Nat) : Nat → List Word → List Open → Nat → Status × Nat
  | 0, _, _, _ => (ST_OK, 0)
  | _, [], open_, _ => endWalk open_
  | n + 1, w :: ws, open_, p =>
    if (w :: ws).all (· == 0) then endWalk open_
    else if w = 0 then (ST_FRAGMENT_FORMAT, p)
    else match checkPacket cls ifs loops (w :: ws) open_ p with
      | .error e => (e, p)
      | .ok (o, len) => walkBuffer cls ifs loops n ((w :: ws).drop len) o (p + len)

/-- The status of a buffer's checks; ST_OK where it may execute. -/
def checkBuffer (cls ifs loops : Nat) (ws : List Word) : Status := (walkBuffer cls ifs loops (ws.length + 1) ws [] 0).1

/-- The word of a refused buffer at which its failing packet begins. -/
def badWord (cls ifs loops : Nat) (ws : List Word) : Nat := (walkBuffer cls ifs loops (ws.length + 1) ws [] 0).2

/-- An inline entry's packets end exactly at the last inline word (R104 step 5). A header of LEN 0 with another bit set is
left to Table 5.5. -/
def inlineWalk : Nat → List Word → Bool
  | 0, _ => true
  | _, [] => true
  | n + 1, w :: ws =>
    if lenOf w = 0 then w != 0
    else if (w :: ws).length < lenOf w then false
    else inlineWalk n ((w :: ws).drop (lenOf w))

/-- IF and LOOP blocks open in the frames of a job. -/
def openIfs (j : Job) : Nat := ((j.stack.flatMap (·.blocks)).filter (fun b => match b with | .ifb _ => true | _ => false)).length
def openLoops (j : Job) : Nat := ((j.stack.flatMap (·.blocks)).filter (fun b => match b with | .ifb _ => false | _ => true)).length

/-- A refused buffer's failing packet is recorded for the halt capture (R129, R121). -/
def noteBad (s : State) (q va ifs loops : Nat) (ws : List Word) : State :=
  let p := badWord (s.queue q).cls ifs loops ws
  modJob s q (fun j => { j with bad := some (va + 8 * p, (ws.drop p).take (max 1 (lenOf (wordAt ws p)))) })

/-- The counters of a refused buffer (Table 5.20). -/
def countRefused (s : State) (q : Nat) (st : Status) : State :=
  let p := pgPKD (s.queue q).home
  let s1 := count s p 2
  if st = ST_PACKET_PRIVILEGE then count s1 p 3 else s1

end Sys2Proof.Machine
end

