-- ==== Sys2Proof/Machine/Fence.lean ====
section
/-! DEFINITION. Fences: resolution (R152), signals (R149, R150), evaluation of a line's waiters (R160), consumes (R162),
waits at the queue head (R159), and the same for peer dies (R166). -/

namespace Sys2Proof.Machine

/-! ## Resolution -/

/-- The ceiling of a counting fence: the largest count where its entry gives 0 (Table 6.2). A value above 2^63 - 1, for
which R151 states nothing, is a ceiling as it stands, unsigned (DESIGN CHOICE, log 52). -/
def ceilingOf (v : Nat) : Nat := if v = 0 then 2 ^ 63 - 1 else v

/-- The sync-ID translation cache keeps an entry; with 32,768 held, the entry of the lowest key leaves (log 11). -/
def cacheSync (s : State) (key : Nat) (e : Word × Word) : State :=
  let t := s.wsh.syncCache
  let t1 := if t.length < 32768 then t else t.drop 1
  { s with wsh := { s.wsh with syncCache := tput t1 key e } }

/-- The sync-table entry of an ID, from the cache or from memory (R151, R153). -/
def syncEntry (s : State) (c id : Nat) (m : MemView) : Except Status (State × Word × Word) :=
  match s.wsh.syncCache.find? (fun e => e.1 == c * 2 ^ 24 + id) with
  | some (_, lo, hi) => .ok (s, lo, hi)
  | none =>
    match vRead s c (0x10000 + 16 * id) 16 m with
    | .error e => .error e
    | .ok bs =>
      let lo := BitVec.ofNat 64 (leNat (bs.take 8))
      let hi := BitVec.ofNat 64 (leNat (bs.drop 8))
      .ok (s, lo, hi)

/-- A valid sync-table entry (R152 step 1). -/
def syncValid (lo hi : Word) : Bool :=
  bitAt lo 0 && fld lo 63 57 == 0 && !(bitAt lo 2 && bitAt lo 1) && (bitAt lo 2 || hi == 0)

/-- The fence at a virtual address (R152 step 2). -/
def fenceAt (s : State) (c va : Nat) (write counting checked : Bool) (ceiling : Nat) : Except Status Fence :=
  let x := s.ctx c
  let st := checkFenceWord x va write
  if st ≠ ST_OK then .error st
  else match pageOf x va with
    | some e => .ok { pa := physOf e va, key := e.key, home := e.home, counting := counting, checked := checked,
                      ceiling := ceiling, hostVis := e.hostVis }
    | none => .error ST_TRANSLATION_FAULT

/-- Resolving a FENCE operand in a context (R152). `kind` is the kind the operation needs: some true a counting fence,
some false a plain one, none either (Table 6.3). -/
def resolveFence (s : State) (c : Nat) (op : Word) (kind : Option Bool) (write : Bool) (m : MemView) :
    Except Status (State × Fence) :=
  let fenceKind (s : State) (f : Fence) : Except Status (State × Fence) :=
    match kind with
    | some k => if f.counting == k then .ok (s, f) else .error ST_FENCE_KIND
    | none => .ok (s, f)
  if bitAt op 63 then
    match fenceAt s c (fld op 56 0) write false false 0 with
    | .error e => .error e
    | .ok f => fenceKind s f
  else
    let id := fld op 23 0
    if 2 ^ (s.ctx c).syncBits ≤ id then .error ST_SYNC_INVALID
    else match syncEntry s c id m with
      | .error e => .error e
      | .ok (s1, lo, hi) =>
        if !syncValid lo hi then .error ST_SYNC_INVALID
        else
          let s2 := cacheSync s1 (c * 2 ^ 24 + id) (lo, hi)
          match fenceAt s2 c (fld lo 56 3 * 8) write (bitAt lo 2) (bitAt lo 1) (if bitAt lo 2 then ceilingOf hi.toNat else 0) with
          | .error e => .error e
          | .ok f => fenceKind s2 f

/-! ## Atomics -/

/-- A compensating ADD goes ahead of every other operation on the word (R150, R162); none is issued under a key that is
revoked (R290). -/
def compensate (s : State) (a : Atomic) : State :=
  let b : Atomic := { a with operand := -a.operand, use := .compensate, add := true, issued := true, job := none, deferred := false }
  if keyStopped s a.fence.key then s
  else count (issueAtomic { s with wsh := { s.wsh with atomics := b :: s.wsh.atomics } } b) pgWSH 7

/-- A fence signal (R149) or count (R150) as an atomic. -/
def sigAtomic (f : Fence) (v : Word) (c : Nat) (last : W32) (job : Option Nat) (deferred : Bool) (remote pidx : Option Nat) : Atomic :=
  { fence := f, add := f.counting, operand := v, use := .signal, ctx := c, last := last, job := job, deferred := deferred,
    remote := remote, issued := false, pidx := pidx }

/-! ## Last signaller (Table 6.12) -/

def lastQueue (q : Nat) : W32 := BitVec.ofNat 32 (2 ^ 29 + q)
def lastEp (e : Nat) : W32 := BitVec.ofNat 32 (2 ^ 30 + 2 ^ 29 + e)
def lastHost (c : Nat) (operator : Bool) : W32 := BitVec.ofNat 32 (2 ^ 31 + 2 ^ 29 + b2n operator * 2 ^ 14 + c)
def lastDie (d : Nat) : W32 := BitVec.ofNat 32 (2 ^ 31 + 2 ^ 30 + 2 ^ 29 + d)

/-! ## Waking -/

/-- A wait is over: its packet retires (R157). `n` is the counter of Table 6.15 that the wake adds to. -/
def wakeQueue (s : State) (q n : Nat) : State :=
  let s1 := clearWait s q false
  match s1.job q with
  | some j => if j.phase = .fence then retire (count (wakeSlice s1 (s.queue q).home) pgWSH n) q else s1
  | none => s1

/-- A remote watch leaves the table. -/
def dropWatch (s : State) (x : RemoteWatch) : State :=
  let w : LineWaiter := .watch x.die x.queue
  let s1 := match x.line with | some l => unlinkWaiter s l w | none => s
  let s2 := dropReads s1 w x.fence.pa
  { s2 with wsh := { s2.wsh with watches := s2.wsh.watches.filter (fun y => !(y.die == x.die && y.queue == x.queue)) } }

/-- A remote watch is satisfied: it leaves the table and FENCE_WAKE goes to the waiting die (R166). -/
def wakeWatch (s : State) (die q : Nat) (v : Word) : State :=
  match watchOf s die q with
  | none => s
  | some w =>
    relink (sendFence (dropWatch s w) die (fenceBeat 4 (if w.kind = 2 then 8 else 0) q w.ctx 0 w.fence.pa w.fence.key
      (if w.kind = 2 then w.target.toNat else 0) v.toNat))

/-- Kind, target and word of a line's waiter. -/
def waiterInfo (s : State) (w : LineWaiter) : Option (Nat × Word × Fence) :=
  match w with
  | .queue q => let x := s.waiter q
                if x.st = .arming ∨ x.st = .armed then some (x.kind, x.target, x.fence) else none
  | .watch d q => (watchOf s d q).map (fun x => (x.kind, x.target, x.fence))

/-- A value satisfies a wait: unsigned for WAIT_FENCE, signed for counts (R157). -/
def satisfies (kind : Nat) (v target : Word) : Bool :=
  if kind = 0 then decide (target.toNat ≤ v.toNat) else decide (target.toInt ≤ v.toInt)

/-- A consume of the waiter is in flight. -/
def consuming (s : State) (w : LineWaiter) : Bool :=
  s.wsh.atomics.any (fun a => match a.use with | .consume x _ => x == w | _ => false)

/-- The consuming ADD of a waiter (R162). -/
def consumeAtomic (f : Fence) (target : Word) (w : LineWaiter) (path : ConsumePath) (c : Nat) : Atomic :=
  { fence := f, add := true, operand := -target, use := .consume w path, ctx := c, last := 0, job := none, deferred := false,
    remote := none, issued := false, pidx := none }

/-- The context a waiter waits for. -/
def waiterCtx (s : State) (w : LineWaiter) : Nat :=
  match w with
  | .queue q => (s.queue q).owner
  | .watch d q => match watchOf s d q with | some x => x.ctx | none => 0

/-- An access failure of a waiter's own (R289, R341): a queue's job faults; the die of a remote watch is told. -/
def waiterFault (st : Status) (s : State) (w : LineWaiter) : State :=
  match w with
  | .queue q => faultJob s q st
  | .watch d q =>
    match watchOf s d q with
    | some x => sendFence s d (fenceBeat 5 0 0 x.ctx st.toNat x.fence.pa x.fence.key 0 0)
    | none => s

/-- A consume is taken (R162); under a key that is revoked none is issued (R290). -/
def takeConsume (s : State) (f : Fence) (target : Word) (w : LineWaiter) (path : ConsumePath) (c : Nat) : State :=
  if keyStopped s f.key then waiterFault ST_KEY_REVOKED s w else addAtomic s (consumeAtomic f target w path c)

/-- The block is halted and the waiter is a queue of its own die, which it wakes no more (R342). -/
def noWake (s : State) (w : LineWaiter) : Bool := s.halted && (match w with | .queue _ => true | .watch _ _ => false)

/-- One event on a line, its waiters in arm order (the pseudocode of R160). Answers whether a waiter stands on another
word. `free` says that the fence's counting order could be taken at the event: no consume is taken on a value that another
counting operation still in flight may change (R162). `own` is the waiter whose recheck the event is. -/
def evalWaiters (word : Nat) (exact free : Bool) (own : Option LineWaiter) : List LineWaiter → State → Word → State × Bool
  | [], s, _ => (s, false)
  | w :: ws, s, v =>
    match waiterInfo s w with
    | none => evalWaiters word exact free own ws s v
    | some (kind, target, f) =>
      if wordOf f.pa ≠ word then let r := evalWaiters word exact free own ws s v; (r.1, true)
      else if consuming s w || noWake s w then evalWaiters word exact free own ws s v
      else if kind = 0 ∨ (exact ∧ kind = 1) then
        if satisfies kind v target then
          let s1 := match w with | .queue q => wakeQueue s q 3 | .watch d q => wakeWatch s d q v
          evalWaiters word exact free own ws s1 v
        else evalWaiters word exact free own ws s v
      else if exact ∧ free ∧ satisfies kind v target then
        let path := if own = some w then ConsumePath.recheck else ConsumePath.pipeline
        evalWaiters word exact free own ws (takeConsume s f target w path (waiterCtx s w)) (v - target)
      else evalWaiters word exact free own ws s v

/-- Re-read a whole line (R158); one asked for while another is in flight follows it (R156). Under a key that is revoked no
read is issued, and its waiters fail (R289, R290). -/
def rereadLine (s : State) (l : Nat) : State :=
  let x := s.line l
  if keyStopped s x.key then x.waiters.foldl (waiterFault ST_KEY_REVOKED) s
  else if x.reread then s.setLine l { x with again := x.again || inFlight s (.line l) }
  else count (issueRead (s.setLine l { x with reread := true }) { who := .line l, pa := x.pa, len := 64, key := x.key }) pgWSH 4

/-- The cached word of a line takes a value; the last signaller is that of the word (R158). -/
def cacheWord (s : State) (l word : Nat) (v : Word) : State :=
  let x := s.line l
  s.setLine l { x with word := word, value := some v, last := if x.word = word then x.last else 0 }

/-- The cached word of a fence's line, where the line is cached. -/
def cacheFence (s : State) (f : Fence) (v : Word) : State :=
  match findLine s f with
  | some l => cacheWord s l (wordOf f.pa) v
  | none => s

/-- A value of a fence word reaches its line: the waiters are evaluated, and a line with waiters on other words is read
again. -/
def evaluate (s : State) (f : Fence) (v : Word) (exact : Bool) (own : Option LineWaiter) : State :=
  match findLine s f with
  | none => s
  | some l =>
    let r := evalWaiters (wordOf f.pa) exact (!orderHeld s f.pa) own (s.line l).waiters s v
    if r.2 then rereadLine r.1 l else r.1

/-- The record of the last signaller of a word, on a cached line. -/
def noteSignal (s : State) (f : Fence) (last : W32) : State :=
  match findLine s f with
  | none => s
  | some l =>
    let x := s.line l
    s.setLine l { x with word := wordOf f.pa, last := last, value := if x.word = wordOf f.pa then x.value else none }

/-! ## Signals -/

/-- A signal performed on this die: the atomic joins those in flight, and a plain signal is seen by the line's waiters at
once (R160). -/
def performSignal (s : State) (a : Atomic) : State :=
  let s1 := addAtomic s a
  if a.add then noteSignal s1 a.fence a.last
  else
    match findLine s1 a.fence with
    | none => s1
    | some l =>
      let x := s1.line l
      let v := match x.value with
        | some o => if x.word = wordOf a.fence.pa ∧ a.operand.toNat < o.toNat then o else a.operand
        | none => a.operand
      evaluate (cacheFence (noteSignal s1 a.fence a.last) a.fence v) a.fence a.operand false none

/-- A fault of a signal: the signalling context is lost here, or FENCE_FAULT tells its die (R154, R166). -/
def signalFault (s : State) (a : Atomic) (st : Status) : State :=
  match a.remote with
  | some d => sendFence s d (fenceBeat 5 0 0 a.ctx st.toNat a.fence.pa a.fence.key 0 0)
  | none => loseContext s a.ctx st (a.job.map (fun q => (q, a.pidx)))

/-- A signal of value or increment v to a resolved fence, by a context (R149, R150, R160): to the home die's block where
the fence is homed elsewhere (R164). -/
def signal (s : State) (f : Fence) (v : Word) (c : Nat) (last : W32) (job : Option Nat) (deferred : Bool)
    (pidx : Option Nat) : State :=
  if f.home ≠ dieId s then
    let flags := b2n f.counting + 2 * b2n f.checked + 4 * b2n f.counting
    sendFence s f.home (fenceBeat 1 flags 0 c 0 f.pa f.key v.toNat (if f.counting then f.ceiling else 0))
  else
    let a := sigAtomic f v c last job deferred none pidx
    if keyStopped s f.key then signalFault s a ST_KEY_REVOKED
    else performSignal (match job with | some q => modJob s q (fun j => { j with atomics := j.atomics + 1 }) | none => s) a

/-- A FENCE_SIGNAL of another die, performed here; a failing check goes back as FENCE_FAULT (R166). -/
def signalRemote (s : State) (f : Fence) (v : Word) (c die : Nat) : State :=
  let a := sigAtomic f v c (lastDie die) none false (some die) none
  if keyStopped s f.key then signalFault s a ST_KEY_REVOKED else performSignal s a

/-- An atomic signal returned its old value (Table 6.1, R150). -/
def judgeSignal (s : State) (a : Atomic) (old : Word) : State :=
  if a.add then
    let n := old.toInt + a.operand.toInt
    if n < 0 then signalFault (compensate s a) a ST_FENCE_UNDERFLOW
    else if (a.fence.ceiling : Int) < n then signalFault (compensate s a) a ST_FENCE_OVERFLOW
    else
      let v := old + a.operand
      evaluate (cacheFence (count s pgWSH 0) a.fence v) a.fence v true none
  else
    let v := if a.operand.toNat < old.toNat then old else a.operand
    let s1 := count s pgWSH (if a.operand.toNat < old.toNat then 1 else 0)
    let s3 := evaluate (cacheFence s1 a.fence v) a.fence v true none
    if a.operand.toNat < old.toNat ∧ a.fence.checked then signalFault s3 a ST_FENCE_REGRESS else s3

/-! ## Waits (R159) -/

/-- A wait without a line enters UNLINKED. -/
def unlinkWait (s : State) (q : Nat) (w : Waiter) : State :=
  count ((s.setQueue q { s.queue q with wait := true }).setWaiter q { w with st := .unlinked, line := 0 }) pgWSH 5

/-- Steps 2 and 3 of R159, or UNLINKED where no line is available. -/
def armWait (s : State) (q : Nat) (w : Waiter) : State :=
  match takeLine s w.fence with
  | some (l, s1) =>
    let s2 := s1.setQueue q { s1.queue q with wait := true }
    readFence ((linkWaiter s2 l (.queue q)).setWaiter q { w with st := .arming, line := l }) (.queue q) w.fence
  | none => unlinkWait s q w

/-- A wait on a fence of another die: REMOTE with a line entry for the remote line, or UNLINKED where none is available
(Table 6.8, R161). -/
def startRemote (s : State) (q : Nat) (w : Waiter) : State :=
  match takeLine s w.fence with
  | some (l, s1) =>
    let s2 := s1.setQueue q { s1.queue q with wait := true }
    sendFence ((linkWaiter s2 l (.queue q)).setWaiter q { w with st := .remote, line := l }) w.fence.home (watchBeat s2 q w)
  | none => unlinkWait s q w

/-- The cached value of a fence's line satisfies a wait (R159 step 1). -/
def lineHit (x : Line) (f : Fence) (kind : Nat) (target : Word) : Bool :=
  match x.value with
  | some v => x.word == wordOf f.pa && satisfies kind v target
  | none => false

/-- A wait packet with a resolved fence (Table 6.8, row IDLE). Where no line is available the fence is read first. -/
def startWait (s : State) (q kind : Nat) (f : Fence) (target : Word) : State :=
  let w : Waiter := { st := .idle, kind := kind, target := target, fence := f, line := 0, since := s.now, busy := none, seen := 0 }
  let s0 := modJob s q (fun j => { j with phase := .fence })
  if f.home ≠ dieId s then startRemote s0 q w
  else
    match findLine s0 f with
    | some l =>
      let hit := lineHit (s0.line l) f kind target
      if hit && kind != 2 then wakeQueue s0 q 2
      else if hit && (s0.line l).waiters.isEmpty && !orderHeld s0 f.pa then
        takeConsume (s0.setWaiter q w) f target (.queue q) .fast (s.queue q).owner
      else armWait s0 q w
    | none =>
      match takeLine s0 f with
      | some _ => armWait s0 q w
      | none => readFence (s0.setWaiter q w) (.queue q) f

/-- The recheck of a waiting queue returned v (R159 step 4). -/
def readWait (s : State) (q : Nat) (v : Word) : State :=
  let w := s.waiter q
  let s1 := (cacheWord s w.line (wordOf w.fence.pa) v).setWaiter q { w with st := .armed, seen := v }
  let s2 := if w.kind ≠ 2 ∧ satisfies w.kind v w.target then wakeQueue s1 q 2 else s1
  evaluate s2 w.fence v true (some (.queue q))

/-- A read of the fence of a queue without a line returned v (R161, R162): the wait retires, or its consume is taken under
the order the read held; else the order is free, and a wait that has just begun enters UNLINKED or takes a line. -/
def readUnlinked (s : State) (q : Nat) (v : Word) : State :=
  let w := s.waiter q
  let s1 := s.setWaiter q { w with seen := v }
  if satisfies w.kind v w.target then
    if w.kind ≠ 2 then wakeQueue s1 q 2
    else if consuming s (.queue q) then s1
    else takeConsume s1 w.fence w.target (.queue q) .noLine (s.queue q).owner
  else
    let s2 := nextAtomic s1 w.fence.pa
    if w.st = .idle then armWait s2 q (s2.waiter q) else relink s2

/-- A read of a waiting queue's fence word has returned. -/
def queueRead (s : State) (q : Nat) (value : Option Word) : State :=
  if s.halted then s
  else match value with
  | none => faultJob s q ST_MEMORY_ERROR
  | some v => if (s.waiter q).st = .arming then readWait s q v else readUnlinked s q v

/-- A wait of a queue that needs no fence read retires (VALUE 0, or COUNT 0 without CONSUME, R157). -/
def trivialWait (kind : Nat) (target : Word) : Bool := target == 0 && kind != 2

end Sys2Proof.Machine
end

