-- ==== Sys2Proof/Machine/Completion.lean ====
section
/-! DEFINITION. How a queue moves: producer-index reads and fetches (R108, R109), the end of a job (R110, R132), its
completion record (R116, R117), the CI write and the notification (R44, R118, R119), and tensor watch dumps (R358,
R359). -/

namespace Sys2Proof.Machine

/-! ## Accesses to a queue's ring and index line -/

/-- The virtual address of the index line and of an entry. -/
def idxVa (r : Queue) : Nat := r.idxLine * 64
def ringSlot (r : Queue) : Nat := r.ci.toNat % 2 ^ r.log2
def entryAddr (r : Queue) : Nat := r.ringBase * 4096 + ringSlot r * 64

/-! ## Outstanding work (R343) -/

/-- A context has outstanding work. -/
def outstanding (s : State) (c : Nat) : Bool :=
  s.queues.any (fun e => e.2.fetched && e.2.owner == c && e.2.st != .free) ||
  s.eps.any (fun e => e.2.cmds.any (fun x => x.2 == c)) ||
  s.fans.any (fun e => e.2.streams.any (fun x => x.ctx == c))

/-! ## Producer index and fetch (R108, R109) -/

/-- A queue may issue reads: its block runs, its home slice is awake and not paused (R383). -/
def mayRead (s : State) (q : Nat) : Bool :=
  !s.halted && sliceUp s (s.queue q).home && !(s.slice (s.queue q).home).paused

/-- Issue the PI read: the pending bit clears (R109). It is also the read of a poll that is due (R113). -/
def issuePi (s : State) (q : Nat) : State :=
  let r := s.queue q
  match qPieces s q (idxVa r) 8 false with
  | .error st => ringFault s q st
  | .ok ps =>
    let s1 := s.setQueue q { r with pend := false, pollHeld := false, piRead := if r.freshDue then .fresh else .plain }
    let s2 := if r.pollHeld then count s1 pgDBL 2 else s1
    count (issue s2 (portQ s q) (.queue q .piRead) (readsOf s (portQ s q) ps)) pgFET 1

/-- Fetch the entry at CI (R108). -/
def issueFetch (s : State) (q : Nat) : State :=
  let r := s.queue q
  match qPieces s q (entryAddr r) 64 false with
  | .error st => ringFault s q st
  | .ok ps =>
    let s1 := if outstanding s r.owner then s else advance s r.owner
    count (issue (s1.setQueue q { r with fetched := true, entryRead := true,
                                         history := r.history.set r.histNext (ringSlot r),
                                         histNext := (r.histNext + 1) % 8 })
      (portQ s q) (.queue q .entryRead) (readsOf s (portQ s q) ps)) pgFET 0

/-- A queue has a read to make: a fresh PI read, a poll's, a fetch, or the one a pending bit asks for. -/
def wantsRead (r : Queue) : Bool := r.freshDue || r.pollHeld || r.piSeen != r.ci || r.pend

/-- What the Steppe does next for a queue: the fresh read of a HOLD release or of an enable, the read of a poll that is
due, the next fetch, or the read a pending bit asks for (R108, R109, R113); a home slice that sleeps wakes for it. -/
def pump (s : State) (q : Nat) : State :=
  let r := s.queue q
  if s.halted || r.st != .enabled || r.hold || r.fetched || r.piRead != .none || !(wantsRead r) then s
  else if !(sliceUp s r.home) then wakeSlice s r.home
  else if (s.slice r.home).paused then s
  else if r.freshDue || r.pollHeld then issuePi s q
  else if r.piSeen != r.ci then issueFetch s q
  else issuePi s q

/-- Every queue of a slice moves on, as after a wake or a pause. -/
def pumpSlice (s : State) (k : Nat) : State :=
  ((s.queues.filter (fun e => e.2.home == k && e.2.st == .enabled)).map (·.1)).foldl pump s

/-- A wake event for a slice, counted in DBL counter `n` where it is what starts the wake (Table 4.16). -/
def wakeFor (s : State) (k n : Nat) : State :=
  if sliceUp s k then s else wakeSlice (if s.bsn.sliceWaking.getLsbD k then s else count s pgDBL n) k

/-- A doorbell accepted for a queue that its owner may use (R35, R109, R112). -/
def ringDoorbell (s : State) (q : Nat) : State :=
  let r := s.queue q
  let s1 := count s pgDBL 0
  let s2 := if r.pend then count s1 pgDBL 1 else s1
  pump ((wakeFor s2 r.home 4).setQueue q { r with pend := true }) q

/-- A fresh PI read is owed: one already in flight does not count as it (R109, R111). -/
def oweFresh (r : Queue) : Queue :=
  { r with freshDue := true, piRead := if r.piRead = .fresh then .plain else r.piRead }

/-- Queue events ENABLE written 1 and written 0 (Table 4.9). -/
def queueEnable (s : State) (q : Nat) : State :=
  let r := s.queue q
  let x := s.ctx r.owner
  if x.st = .active ∨ x.st = .lost then
    match r.st with
    | .disabled => pump (s.setQueue q { oweFresh r with st := .enabled }) q
    | .disabling => s.setQueue q { r with st := .enabled }
    | _ => s
  else s

def queueDisable (s : State) (q : Nat) : State :=
  let r := s.queue q
  match r.st with
  | .enabled => if r.cls = 2 then s else s.setQueue q { r with st := if r.fetched then .disabling else .disabled,
                                                                pollHeld := false }
  | _ => s

/-- HOLD written 1; HOLD written 0, which in ENABLED asks for a fresh PI read whether or not HOLD was 1 (R109, R111). A
poll that is due is skipped while HOLD is 1. -/
def queueHold (s : State) (q : Nat) (v : Bool) : State :=
  let r := s.queue q
  if r.st = .free then s
  else if v then count (s.setQueue q { r with hold := true, pollHeld := false }) pgSTP 5
  else if r.st = .enabled then pump (s.setQueue q { oweFresh r with hold := false }) q
  else s.setQueue q { r with hold := false }

/-! ## The completion record (Table 4.8) -/

/-- The engine time in ns, rounded once, a half up. -/
def roundHalfUp (num den : Nat) : Nat := if den = 0 then 0 else (2 * num + den) / (2 * den)

/-- The 64 bytes of a completion record. -/
def recordBytes (r : Queue) (j : Job) : List Byte :=
  leBytes 4 (3 * 2 ^ 30 + r.ci.toNat % 65536) ++ leBytes 2 (jobStatus j).toNat ++ leBytes 2 (packetIndex j) ++
  leBytes 8 j.userTag.toNat ++ leBytes 8 j.tFetch ++ leBytes 8 j.tLaunch ++ leBytes 8 j.tDone ++
  leBytes 8 (roundHalfUp j.engineNum j.engineDen) ++ leBytes 8 (j.energy / 1000000) ++
  leBytes 4 (b2n j.stretched + 2 * b2n (j.skip != ST_OK)) ++ leBytes 4 j.launches

/-- The completion record is written (R44 step of R110); a fault on the ring follows Table 4.9. -/
def writeRecord (s : State) (q : Nat) : State :=
  match s.job q with
  | none => s
  | some j =>
    if s.halted then s
    else match qPieces s q j.entryVa 64 true with
      | .error st => ringFault s q st
      | .ok ps => issue (modJob s q (fun j => { j with phase := .record })) (portQ s q) (.queue q .recordWrite)
          (writesOf s (portQ s q) ps (recordBytes (s.queue q) j))

/-- The CI write (Table 4.3a). -/
def writeCi (s : State) (q : Nat) : State :=
  let r := s.queue q
  if s.halted then s
  else match qPieces s q (idxVa r + 8) 8 true with
    | .error st => ringFault s q st
    | .ok ps => issue (modJob s q (fun j => { j with phase := .ciWrite })) (portQ s q) (.queue q .ciWrite)
        (writesOf s (portQ s q) ps (leBytes 8 ((r.ci + 1).toNat)))

/-! ## Deferred signals (R132) -/

/-- Issue a job's deferred signals in order, each after the one before has completed, then the completion record. -/
def issueDeferred (m : MemView) : List Deferred → State → Nat → State
  | [], s, q => writeRecord s q
  | d :: rest, s, q =>
    if s.halted then s
    else
      let s0 := modJob s q (fun j => { j with deferred := rest })
      let c := (s.queue q).owner
      match resolveFence s0 c d.fence (some false) true m with
      | .error e => writeRecord (loseContext (countXlt s0 e) c e (some (q, some d.pidx))) q
      | .ok (s1, f) =>
        let s2 := signal s1 f d.value c (lastQueue q) (some q) true (some d.pidx)
        if f.home ≠ dieId s then issueDeferred m rest s2 q else s2

/-- A job goes on with its deferred signals, as long as it would end with ST_OK. -/
def completeJob (s : State) (q : Nat) (m : MemView) : State :=
  match s.job q with
  | none => s
  | some j => if jobStatus j = ST_OK then issueDeferred m j.deferred s q
              else writeRecord (modJob s q (fun j => { j with deferred := [] })) q

/-! ## Tensor dumps (R358, R359) -/

/-- The header of a dump (R359). -/
def dumpHeader (s : State) (q : Nat) (j : Job) (st : Status) (step n : Nat) : List Byte :=
  leBytes 4 0x4457474B ++ leBytes 2 1 ++ leBytes 2 st.toNat ++ leBytes 4 q ++ leBytes 4 step ++
  leBytes 4 j.layer.toNat ++ leBytes 4 j.operator.toNat ++ leBytes 8 s.now ++ leBytes 8 n ++
  leBytes 2 (s.queue q).owner ++ zeroBytes 22

/-- A dump of SIZE bytes of a tensor: what is written where, or the status that DUMP fails with. A tensor that fails to
resolve leaves the header alone, with its status. -/
def dumpTensor (s : State) (q : Nat) (j : Job) (tensor dump : Word × Word) (size step : Nat) (m : MemView) :
    Except Status State :=
  let c := (s.queue q).owner
  match resolveMref (s.ctx c) dump.1 dump.2 (64 + size) true with
  | .error e => .error e
  | .ok (dva, _) =>
    let r : Except Status (List Byte) :=
      match resolveMref (s.ctx c) tensor.1 tensor.2 size false with
      | .error e => .error e
      | .ok (tva, _) => vRead s c tva size m
    let bytes := match r with
      | .ok bs => dumpHeader s q j ST_OK step bs.length ++ bs
      | .error e => dumpHeader s q j e step 0
    match vWrite s (portQ s q) c dva bytes with
    | .error e => .error e
    | .ok t => .ok (count t pgLOE 7)

/-- Where the write of a dump failed. -/
def dumpFails (s : State) (q : Nat) (dump : Word × Word) (size : Nat) : Nat :=
  let c := (s.queue q).owner
  match resolveMref (s.ctx c) dump.1 dump.2 (64 + size) true with
  | .ok (dva, _) => badWriteAddr s c dva (64 + size)
  | .error _ => 0

/-- A watch's step has come (R358). -/
def watchDue (s : State) (q : Nat) (w : Watch) : Bool := w.q == q && (s.queue q).step == w.base + w.step

/-- TENSOR resolves and its read meets a memory error: it is an operand of the dump's routine (Table 13.4). -/
def tensorError (s : State) (q : Nat) (w : Watch) (m : MemView) : Bool :=
  let c := (s.queue q).owner
  match resolveMref (s.ctx c) w.tensor.1 w.tensor.2 w.size false with
  | .ok (va, _) => match vRead s c va w.size m with
    | .error e => e == ST_MEMORY_ERROR
    | .ok _ => false
  | .error _ => false

/-- The armed watches of a job's queue whose step has come (R358). A memory error of a TENSOR's read loses the context, and
with it the watches left. -/
def takeWatches (s : State) (q : Nat) (j : Job) (m : MemView) : State :=
  let due := s.loe.watches.filter (watchDue s q)
  let s0 := { s with loe := { s.loe with watches := s.loe.watches.filter (fun w => !(watchDue s q w)) } }
  due.foldl (fun t w =>
    if t.halted || (t.ctx (t.queue q).owner).st == .lost then t
    else if tensorError t q w m then loseContext t (t.queue q).owner ST_MEMORY_ERROR (some (q, none))
    else match dumpTensor t q j w.tensor w.dump w.size w.step m with
      | .ok t1 => t1
      | .error e =>
        if e = ST_MEMORY_ERROR then setErr t pgLOE 29 (dumpFails t q w.dump w.size)
        else setErr t pgLOE 1 (t.queue q).owner) s0

/-! ## The end of a completion (R119) -/

/-- The notification of a queue (R118). -/
def notifyQueue (s : State) (q : Nat) (j : Job) : State :=
  let r := s.queue q
  if r.ntfEn && !j.noNotify then
    presentNtf s { src := .queue q, addr := ntfAddr s r.ntfTarget, ctx := r.owner,
                   data := r.ci.toNat % 2 ^ 14 * 2 ^ 18 + q }
  else s

/-- The job's completion ends: CI has advanced, the notification is presented, FETCHED clears, and R109 applies. -/
def finishJob (s : State) (q : Nat) (j : Job) : State :=
  let r := s.queue q
  let s1 := releaseImage s q
  let s2 := s1.setQueue q { r with ci := r.ci + 1, completed := r.completed + 1, fetched := false,
                                   st := if r.st = .disabling then .disabled else r.st }
  let s3 := count s2 pgSTP 2
  let s4 := if jobStatus j = ST_CONTEXT_LOST then count s3 pgSTP 3 else s3
  pump (notifyQueue (s4.setJob q none) q j) q

end Sys2Proof.Machine
end

