-- ==== Sys2Proof/Machine/Notch.lean ====
section
/-! DEFINITION. What the Notch does for others: the key channel and the drain of a key slot (R288 to R290), measurement
logs (R302), the security queue's entries (R95, R296) and the mailbox's answers (R295). -/

namespace Sys2Proof.Machine

/-! ## Measurement logs (R302) -/

/-- A log entry (Table 11.10). -/
def logBytes (type seq time ctx aux layer operator bytes : Nat) (digest : List Byte) : List Byte :=
  leBytes 2 type ++ zeroBytes 2 ++ leBytes 4 seq ++ leBytes 8 time ++ leBytes 2 ctx ++ leBytes 2 aux ++ leBytes 4 layer ++
  leBytes 4 operator ++ leBytes 8 bytes ++ zeroBytes 12 ++ padBytes 48 digest

/-- Fan streams of a partition whose measurement is still to come (R204). -/
def pendingStreams (s : State) (p : Nat) : Nat :=
  ((s.fans.flatMap (fun e => e.2.streams)).filter (fun x => (s.ctx x.ctx).part == p)).length

/-- Entries that an activation in progress has still to append to every sealed log: its present part's is in (R383). -/
def pendingParts (s : State) : Nat := s.swb.fwTodo.length - 1

/-- A sealed partition's log has room for n more entries beside those that its queued streams, its pending swap and an
activation in progress will append (R302). -/
def logRoom (s : State) (p n : Nat) : Bool :=
  decide ((s.part p).log.length + pendingStreams s p + b2n (s.part p).swap.isSome + pendingParts s + n ≤ s.ntc.logCapacity)

/-- The chain after an entry. -/
def chainNext (chain entry : List Byte) : List Byte := sha384 ((if chain.isEmpty then zeroBytes 48 else chain) ++ entry)

/-- Append an entry to a sealed partition's log; an unsealed partition keeps none. -/
def appendLog (s : State) (p type ctx aux layer operator bytes : Nat) (digest : List Byte) : State :=
  let r := s.part p
  if r.sealed.isNone then s
  else
    let e := logBytes type r.log.length s.now ctx aux layer operator bytes digest
    count (s.setPart p { r with log := r.log ++ [e], chain := chainNext r.chain e }) pgNTC 4

/-- A partition is sealed. -/
def isSealed (s : State) (p : Nat) : Bool := (s.part p).sealed.isSome

/-! ## Key slots (R288 to R290) -/

/-- A context holds an ACTIVE MEMORY key. -/
def hasMemKey (s : State) (c : Nat) : Bool :=
  s.ntc.slots.any (fun e => e.2.st == .active && !e.2.weight && e.2.ctx == c)

/-- The other dies a partition spans: the peers of its links. -/
def remoteDies (s : State) (p : Nat) : List Nat :=
  (((s.part p).active.links.map (fun l => l.2.2)).eraseDups).filter (· != dieId s)

/-- The routes to a die. -/
def routesOf (s : State) (die : Nat) : List (Nat × Nat × Nat) := s.swb.settings.routes.filter (fun r => r.1 == die)

/-- The routes on which a die's answer is awaited; a die without a route record is reached over link 0, channel 0 (log 8). -/
def awaitedOn (s : State) (die : Nat) : List (Nat × Nat × Nat) :=
  match routesOf s die with
  | [] => [(die, 0, 0)]
  | l => l

/-- A message on every route to a die (R290). -/
def sendAllRoutes (s : State) (die beat : Nat) : State :=
  (awaitedOn s die).foldl (fun t r =>
    let o := Out.peer r.2.1 r.2.2 die (BitVec.ofNat 256 beat)
    if t.per.retraining.any (fun x => x.1 == r.2.1) then
      count { t with per := { t.per with retrainHeld := t.per.retrainHeld ++ [(r.2.1, o)] } } pgPER 7
    else count (emit t o) pgPER 0) s

/-- A key-drain message's beat (R292). -/
def keyBeat (type ctx key : Nat) : Nat := type + ctx * 2 ^ 34 + key * 2 ^ 116

/-- Every destination has acknowledged: zero messages, the key is overwritten, ZEROED (Table 11.4). -/
def zeroSlot (s : State) (k : Nat) : State :=
  let x := s.slot k
  let s1 := x.dests.foldl (fun t d => emit t (.key d 1 k [])) s
  count (s1.setSlot k { x with st := .zeroed, key := [], destWait := [], zeroAt := s.now }) pgNTC 2

/-- Drain step 4: drain requests to every destination that received the install (R290). -/
def drainRequest (s : State) (k : Nat) : State :=
  let x := s.slot k
  let s1 := x.dests.foldl (fun t d => emit t (.key d 2 k [])) s
  let s2 := s1.setSlot k { x with requested := true, reqAt := s.now, destWait := x.dests, dieWait := [] }
  if x.dests.isEmpty then zeroSlot s2 k else s2

/-- Pages under a key no longer resolve: in one context's own memory, or in every context's view of another die's. -/
def revokeFor (s : State) (c die key : Nat) : State :=
  let x := s.ctx c
  s.setCtx c { x with revoked := if x.revoked.contains (die, key) then x.revoked else (die, key) :: x.revoked }

/-- The key ID a memory request carries. -/
def outKey : Out → Option Nat
  | .chiRead _ _ _ k _ => some k
  | .chiWrite _ _ k _ _ => some k
  | .chiAtomic _ _ k _ _ => some k
  | _ => none

/-- Requests under a key that have not left are not made (R290 step 1): the atomics and reads of fences fail with
ST_KEY_REVOKED, and with them the waits that would have to read again; an access waiting for its port sends nothing. -/
def stopRequests (s : State) (k : Nat) : State :=
  let mine (a : Atomic) : Bool := !a.issued && a.fence.key == k
  let s1 := { s with
    wsh := { s.wsh with atomics := s.wsh.atomics.filter (fun a => !(mine a)), heldReads := s.wsh.heldReads.filter (fun r => r.key != k) },
    flights := s.flights.map (fun f => if !f.sent && f.outs.any (fun o => outKey o == some k) then { f with outs := [] } else f) }
  let s2 := (s.wsh.atomics.filter mine).foldl (fun t a => match a.use with
    | .consume w _ => waiterFault ST_KEY_REVOKED t w
    | .compensate => t
    | .signal =>
      signalFault (match a.job with | some q => modJob t q (fun j => { j with atomics := j.atomics - 1 }) | none => t) a ST_KEY_REVOKED) s1
  let s3 := (s.wsh.heldReads.filter (fun r => r.key == k)).foldl (fun t r => match r.who with
    | .waiter w _ => waiterFault ST_KEY_REVOKED t w
    | .line l => (t.line l).waiters.foldl (waiterFault ST_KEY_REVOKED) (t.setLine l { t.line l with reread := false })
    | _ => t) s2
  (s.wsh.waiters.filter (fun e => e.2.st == .unlinked && e.2.fence.key == k)).foldl
    (fun t e => waiterFault ST_KEY_REVOKED t (.queue e.1)) s3

/-- An ACTIVE slot begins its drain (R290 steps 1 to 4); one KEY_DRAINED is awaited for each route to a die (log 24). -/
def drainSlot (s : State) (k : Nat) : State :=
  let x := s.slot k
  match x.st with
  | .active =>
    let dies := if x.weight then [] else remoteDies s x.part
    let s1 := s.setSlot k { x with st := .draining, drainAt := s.now, requested := false,
                                   dieWait := dies.flatMap (awaitedOn s) }
    let s2 := if x.weight then s1 else stopRequests (revokeFor s1 x.ctx (dieId s) k) k
    let s3 := dies.foldl (fun t d => sendAllRoutes t d (keyBeat 0x40 x.ctx k)) s2
    if dies.isEmpty then drainRequest s3 k else s3
  | _ => s

/-! ## The security queue (R95, R296) -/

/-- Where the entry of a ring slot keeps its buffer in the Notch's region, and where its report goes (log 34). -/
def secBuf (i : Nat) : Nat := Config.notchBase + 4096 + i % 16 * 1024
def secReportAt : Nat := Config.notchBase + 65536

/-- Bytes of the report buffer: no report is longer. -/
def secReportBytes : Nat := 327680

/-- The entry for n packet words: inline up to six, else indirect with one fragment at the slot's buffer (Tables 4.4 to
4.7). -/
def secEntry (i : Nat) (ws : List Word) : List Byte :=
  if ws.length ≤ 6 then padBytes 64 (leBytes 4 (i % 65536 + ws.length * 2 ^ 27 + 2 ^ 30) ++ zeroBytes 12 ++ bytesOfWords ws)
  else padBytes 64 (leBytes 4 (i % 65536 + 2 ^ 31) ++ zeroBytes 12 ++ leBytes 8 (secBuf i) ++ leBytes 2 1)

/-- What the Notch copies into its region before the entry: the blob, or the fragment table and the fragment. -/
def secCopy (i : Nat) (ws : List Word) (blob : List Byte) : List Byte :=
  if ws.length ≤ 6 then blob
  else padBytes 64 (leBytes 8 (secBuf i + 64) ++ leBytes 4 (8 * ws.length)) ++ bytesOfWords ws

/-- The index of the next entry the Notch publishes. -/
def secIndex (s : State) : Nat :=
  (s.queue secQ).ci.toNat + s.ntc.secQueue.length + (if s.ntc.running.isSome then 1 else 0)

/-- The Notch publishes an entry: the copy, the entry and PI are written to its private memory, and the queue is marked
pending internally. -/
def secPublish (s : State) (r : SecReq) : State :=
  let q := s.queue secQ
  let i := secIndex s
  let copy := secCopy i r.words r.blob
  let s1 := { s with ntc := { s.ntc with secQueue := s.ntc.secQueue ++ [r] } }
  let s2 := emits s1 ((if copy.isEmpty then [] else writesOf s 8 [(secBuf i, 1, copy.length)] copy) ++
                      writesOf s 8 [(q.ringBase * 4096 + i % 2 ^ q.log2 * 64, 1, 64)] (secEntry i r.words) ++
                      writesOf s 8 [(idxVa q, 1, 8)] (leBytes 8 (i + 1)))
  pump (s2.setQueue secQ { s2.queue secQ with pend := true }) secQ

/-- The content that CHUNK_GET reads after a response. -/
def keptLarge (x : Mailbox) (rsp : SpdmRsp) : List Byte :=
  match rsp with
  | .chunk _ _ _ => x.large
  | .chunkSendAck => x.large
  | r => r.content

/-- The response in MBX_DATA: its bytes and length are free within Table 11.6's range, since the spec gives the SPDM
messages no byte layout (log 7); `rsp` is what the spec says the response carries. A response in chunks leaves the large
one in place. -/
def mbxAnswer (s : State) (rsp : SpdmRsp) : State :=
  let (f, s1) := s.takeFree
  let n := Config.freeNat f % 2048 + 1
  let (g, s2) := s1.takeFree
  let x := s2.ntc.mbx
  { s2 with ntc := { s2.ntc with mbx := { x with busy := false, rspReady := true, error := false, rspLen := n, rsp := rsp,
                                                   large := keptLarge x rsp,
                                                   data := (List.range 2048).foldl (fun d i =>
                                                     if i < n then Memory.write d i (Config.freeByte g i) else d) x.data } } }

/-- The payload of the response to an entry: its completion status, then the key ID or the report (Table 11.7). -/
def secPayload (s : State) (r : SecReq) (st : Status) : List Byte :=
  let op := fld (wordAt r.words 0) 7 0
  leBytes 2 st.toNat ++
    (if st ≠ ST_OK then [] else if op = 0xC0 then leBytes 2 (fld (wordAt r.words 1) 11 0) else if op = 0xC3 then s.ntc.mbx.large else [])

/-- The entry the security queue is executing has completed with a status: the Notch answers in the mailbox (R296). -/
def secComplete (s : State) (st : Status) : State :=
  match s.ntc.running with
  | none => s
  | some r => mbxAnswer { s with ntc := { s.ntc with running := none } } (.vendor (secPayload s r st))

end Sys2Proof.Machine
end

