-- ==== Sys2Proof/Machine/Queues.lean ====
section
/-! DEFINITION. The queue engine's commands: polls, index and entry reads, fragments, shared buffers, job completion, the
completion record and the CI write (chapter 4, R104 to R119; R45). -/

namespace Sys2Proof.Machine

/-- A job at its fetch (Table 5.6). -/
def newJob (s : State) (q : Nat) (ws : List Word) (tag : Word) : Job :=
  { entry := ws, entryVa := entryAddr (s.queue q), userTag := tag, noNotify := bitAt (wordAt ws 0) 32, phase := .drained,
    rank := .none, status := ST_OK, skip := ST_OK, tFetch := s.now, tLaunch := 0, tDone := s.now, idx := 0,
    endIdx := none, preds := 0, d := List.replicate 14 0, d15 := 0, image := none, layer := 0, operator := 0, stack := [],
    fragTable := 0, fragCount := 0, fragNext := 0, fragLine := [], hasBuf := false, spillBuf := none, spillImg := none,
    deferred := [], atomics := 0, launches := 0, engineNum := 0, engineDen := 1, stretched := false, energy := 0,
    deadline := none, fallback := none, dlDone := false, run := none, layers := [], held := [], heldKeep := [],
    bad := none, decoded := false, priorCounted := false, schedCounted := false, epochOpen := false, fanReady := none, deferralPass := false,
    holdSince := none, waitSince := none }

/-- The status of an entry's header checks (R104), in order. -/
def entryStatus (ci : W32) (ws : List Word) : Status :=
  let w := wordAt ws 0
  let kind := fld w 31 30
  let inl := fld w 29 27
  let seqOk := fld w 15 0 == ci.toNat % 65536
  let inlinePkts := (ws.drop 2).take inl
  if kind = 3 ∨ !seqOk then ST_ENTRY_SEQUENCE
  else if kind = 0 then ST_ENTRY_FORMAT
  else if fld w 26 16 ≠ 0 ∨ fld w 63 33 ≠ 0 then ST_ENTRY_FORMAT
  else if kind = 1 then
    if ((ws.drop (2 + inl)).any (· != 0)) || inl == 0 || decide (6 < inl) then ST_ENTRY_FORMAT
    else if inlineWalk (inlinePkts.length + 1) inlinePkts then ST_OK
    else ST_ENTRY_FORMAT
  else if (ws.drop 4).any (· != 0) || fld (wordAt ws 3) 63 16 != 0 || inl != 0 then ST_ENTRY_FORMAT
  else
    let n := fld (wordAt ws 3) 15 0
    if n = 0 ∨ 4096 < n ∨ (wordAt ws 2).toNat % 64 ≠ 0 then ST_ENTRY_FORMAT else ST_OK

/-- The entry of a queue whose context ends it at once (R70, R85, R117). -/
def endAtFetch (s : State) (q : Nat) (r : EndRank) (st : Status) : State := writeRecord (endJob s q r st (some 0)) q

/-- The malformed-entry action at a fetch; the record follows unless the block halted (R117). -/
def malformedAtFetch (s : State) (q : Nat) (st : Status) : State :=
  writeRecord (malformed (modJob s q (fun j => { j with endIdx := some 0 })) q st) q

/-- An entry whose read has returned, with its bytes (R104, R117, R129). -/
def takeEntry (s : State) (q : Nat) (ws : List Word) : State :=
  let r := s.queue q
  let x := s.ctx r.owner
  let s0 := s.setJob q (some (newJob s q ws (wordAt ws 1)))
  if r.cls = 0 ∧ (x.st = .lost ∨ x.lastStatus ≠ ST_OK) then endAtFetch s0 q .lost ST_CONTEXT_LOST
  else if r.cls = 0 ∧ x.aborting then endAtFetch s0 q .aborted ST_ABORTED
  else
    let st := entryStatus r.ci ws
    if st ≠ ST_OK then malformedAtFetch s0 q st
    else if fld (wordAt ws 0) 31 30 = 1 then
      let pk := (ws.drop 2).take (fld (wordAt ws 0) 29 27)
      let st2 := checkBuffer r.cls 0 0 pk
      if st2 ≠ ST_OK then malformedAtFetch (noteBad (countRefused s0 q st2) q (entryAddr r + 16) 0 0 pk) q st2
      else settle (modJob s0 q (fun j => { j with phase := .run, stack :=
        [{ kind := .inlined, pkts := pktsOf pk, pc := 0, blocks := [], bytes := 0, va := j.entryVa + 16 }] })) q
    else
      requestLine (modJob s0 q (fun j => { j with fragTable := (wordAt ws 2).toNat, fragCount := fld (wordAt ws 3) 15 0 })) q

/-- An entry whose read met a memory error (R117, R341). -/
def entryError (s : State) (q : Nat) : State :=
  let r := s.queue q
  let x := s.ctx r.owner
  let s0 := count (s.setJob q (some (newJob s q (List.replicate 8 0) 0))) pgFET 6
  if r.cls = 2 then endAtFetch s0 q .opStatus ST_MEMORY_ERROR
  else if r.cls = 0 ∧ (x.st = .lost ∨ x.lastStatus ≠ ST_OK) then endAtFetch s0 q .lost ST_CONTEXT_LOST
  else if r.cls = 0 ∧ x.aborting then endAtFetch s0 q .aborted ST_ABORTED
  else writeRecord (loseContext s0 r.owner ST_MEMORY_ERROR (some (q, some 0))) q

/-- A polled queue's interval ends at this time (R113). -/
def pollTime (s : State) (r : Queue) : Bool := r.poll != 0 && s.now % (2 ^ (r.poll - 1) * 1000) == 0

/-- The PI read of a poll that falls due: a queue that is not ENABLED or is held has none, a fetched entry skips it, and
one that cannot leave yet waits (R109, R113, R15). -/
def pollPi (s : State) (q : Nat) : State :=
  let r := s.queue q
  if r.st ≠ .enabled ∨ r.hold then s
  else if r.fetched then count s pgDBL 3
  else pump ((wakeFor s r.home 5).setQueue q { r with pollHeld := true }) q

/-- POLL_DUE: a queue's interval falls due on the timebase (R113, R15); a queue that waits at a watched line has it read
again, held or disabled as it may be (R158). A poll that falls due while an activation pauses the slice is skipped (note 19
of Table 15.3). -/
def execPollDue (qb : BitVec 18) (s : State) : Result :=
  let q := qb.toNat
  let r := s.queue q
  if r.st = .free ∨ s.halted ∨ !(pollTime s r) ∨ (s.slice r.home).paused then .next s
  else
    let w := s.waiter q
    .next (pollPi (if r.wait && (w.st == .arming || w.st == .armed) then rereadLine s w.line else s) q)

/-- PI_READ_RETURN: the producer index arrives (R102, R109). A value that returns while the queue is not
ENABLED is discarded. A doorbell behind a read of an invalid index has its own read. -/
def execPiReadReturn (qb : BitVec 18) (data : Option Word) (s : State) : Result :=
  let q := qb.toNat
  let s := landed s (.queue q .piRead)
  let r := s.queue q
  if r.piRead = .none then .next s
  else
    let s0 := s.setQueue q { r with piRead := .none,
                                    freshDue := if r.piRead = .fresh ∧ r.st = .enabled then false else r.freshDue }
    if s.halted then .next s0
    else match data with
      | none => .next (if r.cls = 2 then s0 else pump (loseContext s0 r.owner ST_MEMORY_ERROR none) q)
      | some w =>
        if r.st ≠ .enabled then .next s0
        else
          let pi : W32 := BitVec.ofNat 32 w.toNat
          if (pi - r.ci).toNat ≤ 2 ^ r.log2 then .next (pump (s0.setQueue q { s0.queue q with piSeen := pi }) q)
          else
            let s1 := count s0 pgSTP 4
            let again (t : State) : State :=
              if r.piSeen == r.ci || (s0.queue q).freshDue then pump t q else t
            match r.cls with
            | 0 => .next (again (loseContext s1 r.owner ST_INDEX_RANGE none))
            | 1 => .next (haltBlock s1 1 ST_INDEX_RANGE q)
            | _ => .next (again s1)

/-- The entry at CI arrives, or its read met an error (R104, R117, R341). -/
def entryReturn (q : Nat) (data : Option (List Word)) (s : State) : Result :=
  let s := landed s (.queue q .entryRead)
  let r := s.queue q
  if s.halted ∨ !r.entryRead then .next s
  else
    let s0 := s.setQueue q { r with entryRead := false, step := r.step + 1 }
    let s1 := if q = secQ then
                match s0.ntc.secQueue with
                | e :: rest => { s0 with ntc := { s0.ntc with running := some e, secQueue := rest } }
                | [] => s0
              else s0
    match data with
    | none => .next (entryError s1 q)
    | some ws => if ws.length = 8 then .next (takeEntry s1 q ws) else .fault .portWidth

/-- A fragment's bytes are in its buffer: its CRC, then the checks of R129, then its packets (R106, R107). -/
def takeFragment (s : State) (q : Nat) (j : Job) (ws : List Word) : State :=
  let r := s.queue q
  let (a, n, crc) := fragEntry j
  let s0 := count (count s pgFET 3) pgFET 7 n
  if r.crc && crc32c ((bytesOfWords ws).take n) != crc then malformed (count s0 pgFET 4) q ST_FRAGMENT_CRC
  else if !(fragOk (fragEntry j)) then malformed s0 q ST_FRAGMENT_FORMAT
  else
    let st := checkBuffer r.cls 0 0 ws
    if st ≠ ST_OK then malformed (noteBad (countRefused s0 q st) q a 0 0 ws) q st
    else settle (modJob s0 q (fun j => { j with phase := .run, fragNext := j.fragNext + 1, stack :=
      [{ kind := .fragment, pkts := pktsOf ws, pc := 0, blocks := [], bytes := n, va := a }] })) q

/-- FRAGMENT_READ_RETURN: a fragment-table line or a fragment has been read in full (R105, R106). -/
def execFragmentReadReturn (qb : BitVec 18) (data : Option (List Word)) (s : State) : Result :=
  let q := qb.toNat
  let s := landed s (.queue q .fragRead)
  match s.job q with
  | none => .next s
  | some j =>
    if s.halted then .next s
    else match j.phase, data with
      | .fragTable, none => .next (faultJob s q ST_MEMORY_ERROR)
      | .fragRead, none => .next (faultJob s q ST_MEMORY_ERROR)
      | .fragTable, some ws =>
        if ws.length = 8 then .next (requestFrag (modJob s q (fun j => { j with fragLine := ws })) q) else .fault .portWidth
      | .fragRead, some ws =>
        if ws.length = ((fragEntry j).2.1 + 7) / 8 then .next (takeFragment s q j ws) else .fault .portWidth
      | _, _ => .next s

/-- FRAGMENT_BUFFER_GRANT: a buffer of a slice goes to the queue that has waited longest (R106, R163). -/
def execFragmentBufferGrant (k : BitVec 3) (s : State) : Result :=
  match (s.slice k.toNat).fragWait with
  | [] => .next s
  | q :: _ =>
    if s.halted then .next s
    else match s.job q with
      | none => .next s
      | some j =>
        match j.phase with
        | .bufWait false => .next (requestFrag s q)
        | _ =>
          match takeBuf s q with
          | none => .next s
          | some t => .next (modJob (chargeWait t q) q (fun j => { j with phase := match j.phase with
              | .bufWait _ => .run
              | p => p }))

/-- CONST_IMAGE_GRANT: an image of a slice goes to the job that has waited longest (R135, R163). -/
def execConstImageGrant (k : BitVec 3) (s : State) : Result :=
  match (s.slice k.toNat).imgWait with
  | [] => .next s
  | q :: _ =>
    if s.halted then .next s
    else match takeImg s q with
      | none => .next s
      | some t => .next (modJob (chargeWait t q) q (fun j => { j with phase := match j.phase with
          | .imgWait => .run
          | p => p }))

/-- JOB_COMPLETION: the last condition of R110 holds: the dumps, the deferred signals, the record (R44, R132, R358).
T_DONE is taken before the deferred signals (DESIGN CHOICE, log 53). -/
def execJobCompletion (qb : BitVec 18) (m : MemView) (s : State) : Result :=
  let q := qb.toNat
  match s.job q with
  | none => .next s
  | some j =>
    if s.halted ∨ j.phase ≠ .drained ∨ openRecs s q ≠ 0 ∨ j.atomics ≠ 0 then .next s
    else
      let s1 := endLayers (modJob s q (fun j => { j with tDone := s.now, phase := .completing })) q
      .next (completeJob (takeWatches s1 q j m) q m)

/-- COMPLETION_RECORD_COMPLETE: the record is in memory, or its write met an error; the CI write follows (R44, R341). -/
def execCompletionRecordComplete (qb : BitVec 18) (ok : Bool) (s : State) : Result :=
  let q := qb.toNat
  let s := landed s (.queue q .recordWrite)
  match s.job q with
  | none => .next s
  | some j =>
    if s.halted ∨ j.phase ≠ .record then .next s
    else .next (writeCi (if ok ∨ (s.queue q).cls = 2 then s else loseContext s (s.queue q).owner ST_MEMORY_ERROR none) q)

/-- CI_WRITE_COMPLETE: the completion ends, with the notification's presentation (R119). -/
def execCiWriteComplete (qb : BitVec 18) (ok : Bool) (s : State) : Result :=
  let q := qb.toNat
  let s := landed s (.queue q .ciWrite)
  match s.job q with
  | none => .next s
  | some j =>
    if s.halted ∨ j.phase ≠ .ciWrite then .next s
    else
      let s1 := if ok ∨ (s.queue q).cls = 2 then s else loseContext s (s.queue q).owner ST_MEMORY_ERROR none
      if s1.halted then .next s1
      else .next (if q = secQ then secComplete (finishJob s1 q j) (jobStatus j) else finishJob s1 q j)

/-- A memory access of State.out. -/
def isAccess (o : Out) : Bool := match o with | .chiRead _ _ _ _ _ | .chiWrite _ _ _ _ _ | .chiAtomic _ _ _ _ _ => true | _ => false

/-- PCRD_GRANT: the block retries the request that received RetryAck (R45). -/
def execPcrdGrant (qb : BitVec 18) (w : ChiWait) (s : State) : Result :=
  match w with
  | .recheck => .next (retry s (.waiter (.queue qb.toNat) false))
  | .atomic n =>
    match atomicAt s n with
    | some a => .next (retry s (.atomic a.fence.pa))
    | none => .next s
  | .line l => .next (retry s (.line l.toNat))
  | .other i =>
    match s.out[i]? with
    | some o => .next (if isAccess o then emit s o else s)
    | none => .next s
  | w => .next (retry s (.queue qb.toNat w))

end Sys2Proof.Machine
end

