-- ==== Sys2Proof/Machine/Watershed.lean ====
section
/-! DEFINITION. The Watershed's commands: the fence packets, the returns of its atomics and reads, host and engine signals,
fence messages of other dies, the wait-for snapshot and the probe (chapter 6). -/

namespace Sys2Proof.Machine

/-! ## Packets -/

/-- A wait packet (R157): resolved, retired at once where it needs no fence, else armed. -/
def waitPacket (s : State) (q kind : Nat) (ws : List Word) (m : MemView) : State :=
  match resolveFence s (s.queue q).owner (wordAt ws 1) (some (kind != 0)) (kind == 2) m with
  | .error e => faultJob s q e
  | .ok (s1, f) =>
    if trivialWait kind (wordAt ws 2) then retire s1 q else startWait s1 q kind f (wordAt ws 2)

/-- WAIT_FENCE. -/
def execWaitFence (q : BitVec 18) (m : MemView) (s : State) : Result :=
  packetRow s q.toNat 0x10 noTokens (fun s _ ws => waitPacket s q.toNat 0 ws m)

/-- WAIT_COUNT, with CONSUME as kind 2. -/
def execWaitCount (q : BitVec 18) (m : MemView) (s : State) : Result :=
  packetRow s q.toNat 0x12 noTokens (fun s _ ws =>
    waitPacket s q.toNat (if flagsOf (hdrOf ws) % 2 = 1 then 2 else 1) ws m)

/-- A signal packet: the atomic issues and the packet retires (Table 5.4). -/
def signalPacket (s : State) (q : Nat) (counting : Bool) (ws : List Word) (m : MemView) : State :=
  let c := (s.queue q).owner
  match resolveFence s c (wordAt ws 1) (some counting) true m with
  | .error e => faultJob s q e
  | .ok (s1, f) =>
    let i := match s1.job q with | some j => some (packetIndex j) | none => none
    retire (signal s1 f (wordAt ws 2) c (lastQueue q) (some q) false i) q

/-- DEFER of a SIGNAL_FENCE. -/
def deferred (ws : List Word) : Bool := flagsOf (hdrOf ws) % 2 == 1

/-- SIGNAL_FENCE: signalled now, under the WAIT_PRIOR that R143 implies, or recorded for the job's end (R132). -/
def execSignalFence (q : BitVec 18) (m : MemView) (s : State) : Result :=
  packetRow s q.toNat 0x11 (fun ws => !deferred ws) (fun s j ws =>
    if deferred ws then
      retireWith s q.toNat (fun x => { x with deferred := x.deferred ++
        [{ fence := wordAt ws 1, value := wordAt ws 2, pidx := packetIndex j }] })
    else signalPacket s q.toNat false ws m)

/-- CREDIT. -/
def execCredit (q : BitVec 18) (m : MemView) (s : State) : Result :=
  packetRow s q.toNat 0x13 (fun _ => true) (fun s _ ws => signalPacket s q.toNat true ws m)

/-! ## Returns -/

/-- FENCE_ATOMIC_COMPLETE: the n-th atomic in flight returned its old value, or met a memory error (R149, R150). A
deferred signal of a job lets the next one issue (R132). -/
def execFenceAtomicComplete (n : Nat) (old : Option Word) (m : MemView) (s : State) : Result :=
  match atomicAt s n with
  | none => .next s
  | some a =>
    match a.use with
    | .consume _ _ => .next s
    | .compensate =>
      let s1 := dropAtomic (landed s (.atomic a.fence.pa)) n
      let s2 := match old with | none => signalFault s1 a ST_MEMORY_ERROR | some _ => s1
      .next (nextAtomic s2 a.fence.pa)
    | .signal =>
      let s0 := dropAtomic (landed s (.atomic a.fence.pa)) n
      let s1 := match a.job with | some q => modJob s0 q (fun j => { j with atomics := j.atomics - 1 }) | none => s0
      let s2 := match old with | none => signalFault s1 a ST_MEMORY_ERROR | some o => judgeSignal s1 a o
      let s3 := nextAtomic s2 a.fence.pa
      match a.job with
      | some q =>
        if a.deferred then
          match s3.job q with
          | some j => .next (if j.phase = .completing then completeJob s3 q m else s3)
          | none => .next s3
        else .next s3
      | none => .next s3

/-- The wait a consume serves still stands. -/
def consumeStands (s : State) (a : Atomic) (w : LineWaiter) (path : ConsumePath) : Bool :=
  match w with
  | .queue q =>
    let x := s.waiter q
    x.kind == 2 && x.fence.pa == a.fence.pa && x.target == -a.operand && (path == .fast || path == .noLine || x.st != .idle) &&
    (match s.job q with | some j => j.phase == .fence | none => false)
  | .watch d q => s.wsh.watches.any (fun x => x.die == d && x.queue == q && x.kind == 2 && x.fence.pa == a.fence.pa)

/-- A remote watch takes a line and is rechecked, or has none and is read under its fence's order (R159, R161, R162). -/
def armWatch (s : State) (x : RemoteWatch) : State :=
  let w : LineWaiter := .watch x.die x.queue
  match takeLine s x.fence with
  | some (l, s1) => readFence (linkWaiter (putWatch s1 { x with line := some l }) l w) w x.fence
  | none => readFence (count (putWatch s { x with line := none }) pgWSH 5) w x.fence

/-- A consume that met a direct write is compensated, and its waiter goes on: from the fast path at step 2 of R159; from a
read with no line in UNLINKED; any other stays as it is (R156, R162). -/
def consumeLowered (s : State) (a : Atomic) (w : LineWaiter) (path : ConsumePath) : State :=
  let s1 := setErr (compensate s a) pgWSH 3 a.fence.pa
  if !(consumeStands s a w path) then s1
  else match path, w with
    | .fast, .queue q => armWait s1 q (s1.waiter q)
    | .fast, .watch d q => match watchOf s1 d q with | some x => armWatch s1 x | none => s1
    | .noLine, .queue q => if (s1.waiter q).st = .idle then unlinkWait s1 q (s1.waiter q) else s1
    | _, _ => s1

/-- A consume returned old value o (R150, R162): the wait retires; one lowered by a direct write, or whose waiter has
gone, is compensated; a negative COUNT that passes the ceiling is a fault of the waiting context. -/
def judgeConsume (s : State) (a : Atomic) (w : LineWaiter) (path : ConsumePath) (o : Word) : State :=
  let target := -a.operand
  if o.toInt < target.toInt then consumeLowered s a w path
  else if (ceilingOf a.fence.ceiling : Int) < o.toInt + a.operand.toInt then
    waiterFault ST_FENCE_OVERFLOW (compensate s a) w
  else if consumeStands s a w path && !(noWake s w) then
    let n := if path = .pipeline then 3 else 2
    let s1 := match w with
      | .queue q => (wakeQueue s q n).setWaiter q Waiter.reset
      | .watch d q => wakeWatch s d q o
    evaluate (cacheFence s1 a.fence (o - target)) a.fence (o - target) true none
  else compensate s a

/-- CONSUME_ADD_RETURN: the ADD of a consuming wait returned its old value, or met a memory error. -/
def execConsumeAddReturn (n : Nat) (old : Option Word) (s : State) : Result :=
  match atomicAt s n with
  | none => .next s
  | some a =>
    match a.use with
    | .consume w path =>
      let s0 := dropAtomic (landed s (.atomic a.fence.pa)) n
      match old with
      | none => .next (nextAtomic (waiterFault ST_MEMORY_ERROR s0 w) a.fence.pa)
      | some o => .next (nextAtomic (judgeConsume s0 a w path o) a.fence.pa)
    | _ => .next s

/-- A read for a remote watch returned v: its line's waiters are evaluated, the watch itself by step 4 of R159; without a
line the watch alone (R161, R162). -/
def watchRead (s : State) (x : RemoteWatch) (v : Word) : State :=
  let w : LineWaiter := .watch x.die x.queue
  match x.line with
  | some l => evaluate (cacheWord s l (wordOf x.fence.pa) v) x.fence v true (some w)
  | none =>
    if !(satisfies x.kind v x.target) then relink (nextAtomic s x.fence.pa)
    else if x.kind ≠ 2 then wakeWatch s x.die x.queue v
    else if consuming s w then s
    else takeConsume s x.fence x.target w .noLine x.ctx

/-- A read for a waiter of another die has returned. -/
def watchReturn (s : State) (d q : Nat) (value : Option Word) : State :=
  match watchOf s d q, value with
  | some _, none => waiterFault ST_MEMORY_ERROR s (.watch d q)
  | some x, some v => watchRead s x v
  | none, _ => s

/-- FENCE_RECHECK_RETURN: the oldest read in flight for a waiter's fence word returns, for a queue of this die or a remote
watch (R159 step 4, R161, R166); a read whose waiter has gone returns to nobody. -/
def execFenceRecheckReturn (qb : BitVec 18) (die : Option (BitVec 16)) (value : Option Word) (s : State) : Result :=
  let q := qb.toNat
  let w : LineWaiter := match die with | none => .queue q | some d => .watch d.toNat q
  match s.flights.find? (fun f => f.sent && (f.who == .waiter w false || f.who == .waiter w true)) with
  | none => .next s
  | some f =>
    let s1 := landed s f.who
    if f.who = .waiter w true then .next s1
    else match die with
      | none => .next (queueRead s1 q value)
      | some d => .next (watchReturn s1 d.toNat q value)

/-- Evaluate the waiters of every word of a line on the words read. -/
def evalWords (l : Nat) : List Word → Nat → State → State
  | [], _, s => s
  | v :: vs, i, s =>
    evalWords l vs (i + 1) (evalWaiters i true (!orderHeld s ((s.line l).pa + 8 * i)) none (s.line l).waiters s v).1

/-- The words a line's waiters stand on as a re-read showed them (Table 6.11). -/
def noteWords (s : State) (ws : List Word) (xs : List LineWaiter) : State :=
  xs.foldl (fun t x => match x with
    | .queue q => t.setWaiter q { t.waiter q with seen := wordAt ws (wordOf (t.waiter q).fence.pa) }
    | .watch _ _ => t) s

/-- LINE_REREAD_RETURN: a whole line has been read; every waiter is evaluated on its word (R156, R158), and a re-read
asked for meanwhile follows. -/
def execLineRereadReturn (lb : BitVec 16) (data : Option (List Word)) (s : State) : Result :=
  let l := lb.toNat
  if !(inFlight s (.line l)) then .next s
  else
    let s1 := landed s (.line l)
    let x := s1.line l
    let s2 := s1.setLine l { x with reread := false, again := false }
    let after (t : State) : State := if x.again then rereadLine t l else t
    match data with
    | none => .next (after (x.waiters.foldl (waiterFault ST_MEMORY_ERROR) s2))
    | some ws =>
      if ws.length = 8 then
        .next (after (evalWords l ws 0 (noteWords (s2.setLine l { s2.line l with value := some (wordAt ws x.word) }) ws x.waiters)))
      else .fault .portWidth

/-- UNLINKED_REREAD: the interval of an UNLINKED waiter's fence, here or of another die, expires, and the fence is read again
unless a read of it is still outstanding (R161). A fence of another die is read by no message (log 44). -/
def execUnlinkedReread (qb : BitVec 18) (die : Option (BitVec 16)) (s : State) : Result :=
  let q := qb.toNat
  let out (w : LineWaiter) : Bool :=
    s.flights.any (fun f => f.who == .waiter w false) || s.wsh.heldReads.any (fun r => r.who == .waiter w false)
  match die with
  | none =>
    let x := s.waiter q
    if x.st ≠ .unlinked ∨ x.fence.home ≠ dieId s ∨ out (.queue q) ∨ consuming s (.queue q) then .next s
    else .next (readFence s (.queue q) x.fence)
  | some d =>
    let w : LineWaiter := .watch d.toNat q
    match watchOf s d.toNat q with
    | none => .next s
    | some x => if x.line.isSome ∨ out w ∨ consuming s w then .next s else .next (readFence s w x.fence)

/-- REMOTE_WATCH_RETRY: 10 µs after a BUSY answer, FENCE_WATCH is sent again (Table 6.8). -/
def execRemoteWatchRetry (qb : BitVec 18) (s : State) : Result :=
  let q := qb.toNat
  let w := s.waiter q
  match w.busy with
  | none => .next s
  | some t =>
    if w.st = .remote ∧ t + 10000 ≤ s.now then
      .next (sendFence (s.setWaiter q { w with busy := none }) w.fence.home (watchBeat s q w))
    else .next s

/-! ## Host signals (R155) -/

/-- A signal of a context with no job: resolution failures lose the context (R152, R155). -/
def signalOf (s : State) (c : Nat) (id : Nat) (counting : Bool) (v : Word) (last : W32) (m : MemView) : State :=
  match resolveFence s c (BitVec.ofNat 64 id) (some counting) true m with
  | .error e => loseContext (countXlt s e) c e none
  | .ok (s1, f) => signal s1 f v c last none false none

/-- SIG_NOTIFY: the line is read again and its waiters evaluated (R156). The line of a fence of another die is that die's to
read, and no message of Table 6.9 asks for it (R164, log 44). -/
def notifyFence (s : State) (c id : Nat) (m : MemView) : State :=
  match resolveFence s c (BitVec.ofNat 64 id) none false m with
  | .error e => loseContext (countXlt s e) c e none
  | .ok (s1, f) =>
    if f.home ≠ dieId s then s1
    else match findLine s1 f with
      | some l => rereadLine s1 l
      | none => s1

/-- A write of the signal page that the port has accepted (Table 6.5). -/
def signalPage (s : State) (c off : Nat) (data : Word) (operator : Bool) (m : MemView) : State :=
  let s := count s pgHFE 4
  let v : Word := BitVec.ofNat 64 (fld data 39 0)
  if off = 0 then signalOf s c (fld data 63 40) false v (lastHost c operator) m
  else if off = 8 then signalOf s c (fld data 63 40) true v (lastHost c operator) m
  else if off = 0x10 ∧ fld data 63 24 = 0 then notifyFence s c (fld data 23 0) m
  else setErr s pgWSH 1 off

/-! ## Engine signals (R50, R175) -/

/-- A sync-channel signal: the endpoint's bound context names the fence. -/
def syncSignal (s : State) (e id : Nat) (counting : Bool) (v : Word) (m : MemView) : State :=
  match epCtx s e with
  | none => setErr s pgECP 2 e
  | some c => signalOf s c id counting v (lastEp e) m

/-- SYNC_SIGNAL. -/
def execSyncSignal (e : BitVec 14) (id : BitVec 24) (v : Word) (m : MemView) (s : State) : Result :=
  .next (syncSignal s e.toNat id.toNat false v m)

/-- SYNC_ADD. -/
def execSyncAdd (e : BitVec 14) (id : BitVec 24) (v : Word) (m : MemView) (s : State) : Result :=
  .next (syncSignal s e.toNat id.toNat true v m)

/-- The fence word of a discarded engine message as ERR_ADDR shows it (R172): its address where the sync ID resolves; a free
value where its entry is not cached, since the row reads no memory (log 31); 0 where the ID resolves to no word. -/
def syncWordAddr (s : State) (c id : Nat) : Nat × State :=
  if s.wsh.syncCache.any (fun e => e.1 == c * 2 ^ 24 + id) then
    match resolveFence s c (BitVec.ofNat 64 id) none false [] with
    | .ok (_, f) => (f.pa, s)
    | .error _ => (0, s)
  else if 2 ^ (s.ctx c).syncBits ≤ id then (0, s)
  else
    let (f, t) := s.takeFree
    ((Config.freeWord f).toNat % 2 ^ 52, t)

/-- RESERVED_SYNC_OP: discarded and recorded; a bound context is lost (R50, R172). Ops 0b00 and 0b01 are not reserved. -/
def execReservedSyncOp (e : BitVec 14) (id : BitVec 24) (op : BitVec 2) (_v : Word) (s : State) : Result :=
  if op.toNat < 2 then .next s
  else match epCtx s e.toNat with
    | none => .next (setErr (setErr s pgWSH 0 0) pgECP 2 e.toNat)
    | some c =>
      let x := syncWordAddr s c id.toNat
      .next (loseContext (setErr x.2 pgWSH 0 x.1) c ST_SYNC_OP_RESERVED none)

/-! ## Fence messages of other dies (R165, R166) -/

/-- The defined bits of a fence message: FLAGS is limited to its five bits; STATUS, QUEUE and AUX only where Table 6.10
gives them. VALUE too counts as reserved in a message to which the table gives it no meaning (DESIGN CHOICE, log 52). -/
def fenceMask (queue status value aux : Bool) : Nat :=
  0xFF + 0x1F * 2 ^ 8 + b2n queue * mask 33 16 + mask 47 34 + b2n status * mask 63 48 + mask 115 64 + mask 127 116 +
  b2n value * mask 191 128 + b2n aux * mask 255 192

/-- The fence a message names, homed on this die. -/
def beatFence (s : State) (b : Nat) : Fence :=
  { pa := bitsN b 115 64, key := bitsN b 127 116, home := dieId s, counting := b.testBit 10, checked := b.testBit 9,
    ceiling := bitsN b 255 192, hostVis := false }

/-- FENCE_SIGNAL. -/
def execFenceSignal (die : BitVec 16) (beat : BitVec 256) (s : State) : Result :=
  .next (peerIn s die.toNat beat 1 (fenceMask false false true (beat.getLsbD 10)) (fun s b =>
    signalRemote s { beatFence s b with counting := b.testBit 10 || b.testBit 8 } (BitVec.ofNat 64 (bitsN b 191 128))
      (bitsN b 47 34) die.toNat))

/-- FENCE_WAKE with BUSY: nothing was inserted and nothing consumed. -/
def busyWake (s : State) (die b : Nat) : State :=
  sendFence s die (fenceBeat 4 16 (bitsN b 33 16) (bitsN b 47 34) 0 (bitsN b 115 64) (bitsN b 127 116) 0 0)

/-- A remote watch is taken in: R159 and R162 run for it. -/
def takeWatch (s : State) (x : RemoteWatch) : State :=
  let w : LineWaiter := .watch x.die x.queue
  let s1 := { s with wsh := { s.wsh with watches := s.wsh.watches ++ [x] } }
  match findLine s x.fence with
  | some l =>
    let ln := s.line l
    let hit := lineHit ln x.fence x.kind x.target
    if hit && x.kind != 2 then wakeWatch s1 x.die x.queue (ln.value.getD 0)
    else if hit && ln.waiters.isEmpty && !orderHeld s x.fence.pa then takeConsume s1 x.fence x.target w .fast x.ctx
    else armWatch s1 x
  | none => armWatch s1 x

/-- FENCE_WATCH: BUSY where the table of 8,192 watches is full. -/
def execFenceWatch (die : BitVec 16) (beat : BitVec 256) (s : State) : Result :=
  .next (peerIn s die.toNat beat 2 (fenceMask true false true false) (fun s b =>
    if 8192 ≤ s.wsh.watches.length then busyWake s die.toNat b
    else takeWatch s
      { die := die.toNat, queue := bitsN b 33 16, ctx := bitsN b 47 34,
        kind := if b.testBit 11 then 2 else if b.testBit 10 then 1 else 0,
        target := BitVec.ofNat 64 (bitsN b 191 128), fence := beatFence s b, line := none, since := s.now }))

/-- FENCE_UNWATCH. -/
def execFenceUnwatch (die : BitVec 16) (beat : BitVec 256) (s : State) : Result :=
  .next (peerIn s die.toNat beat 3 (fenceMask true false false false) (fun s b =>
    match watchOf s die.toNat (bitsN b 33 16) with
    | none => s
    | some x => relink (dropWatch s x)))

/-- FENCE_WAKE: the REMOTE wait retires; BUSY asks for a retry; a waiter that has gone gives back what was consumed,
under the largest CEILING (DESIGN CHOICE, log 52). -/
def execFenceWake (die : BitVec 16) (beat : BitVec 256) (s : State) : Result :=
  .next (peerIn s die.toNat beat 4 (fenceMask true false (beat.getLsbD 11) true) (fun s b =>
    let q := bitsN b 33 16
    let w := s.waiter q
    let here := w.st == .remote && w.fence.pa == bitsN b 115 64 && w.fence.home == die.toNat
    if here && b.testBit 12 then s.setWaiter q { w with busy := some s.now }
    else if here then
      if s.halted then s
      else wakeQueue (cacheWord s w.line (wordOf w.fence.pa) (BitVec.ofNat 64 (bitsN b 255 192))) q 8
    else
      let s1 := setErr s pgWSH 2 (bitsN b 115 64)
      if b.testBit 11 && !(b.testBit 12) then
        sendFence s1 die.toNat (fenceBeat 1 5 0 (bitsN b 47 34) 0 (bitsN b 115 64) (bitsN b 127 116) (bitsN b 191 128)
          (2 ^ 63 - 1))
      else s1))

/-- FENCE_FAULT: the named signalling context is lost. -/
def execFenceFault (die : BitVec 16) (beat : BitVec 256) (s : State) : Result :=
  .next (peerIn s die.toNat beat 5 (fenceMask false true false false) (fun s b =>
    loseContext s (bitsN b 47 34) (BitVec.ofNat 16 (bitsN b 63 48)) none))

/-! ## The wait-for snapshot (R170) -/

/-- Begin a snapshot; ignored while one runs. -/
def startWfg (s : State) (debug : Bool) : State :=
  if s.wsh.wfgRunning then s else { s with wsh := { s.wsh with wfgRunning := true, wfgDebug := debug } }

/-- The bytes of the snapshot: header, then one record for each waiter not in IDLE, up to the buffer's size. -/
def wfgBytes (s : State) : List Byte :=
  let qs := (s.wsh.waiters.filter (fun e => e.2.st != .idle)).map (·.1)
  let room := s.wsh.wfgSize.toNat / 64 * 64
  let fit := qs.take ((room - 64) / 32)
  let recs := fit.flatMap (fun q => waitRecord s ((s.queue q).owner != 0 && !s.wsh.wfgDebug) q)
  leBytes 4 0x47465757 ++ leBytes 4 fit.length ++ leBytes 8 s.now ++ leBytes 1 (b2n (fit.length != qs.length)) ++
  zeroBytes 47 ++ recs

/-- WFG_DONE: the snapshot has been written. -/
def execWfgDone (s : State) : Result :=
  if !s.wsh.wfgRunning then .next s
  else
    let base := s.wsh.wfgBase.toNat
    let bs := wfgBytes s
    let t := putOrDrop s pgWSH [(base, 0, bs.length)] bs
    .next { t with wsh := { t.wsh with wfgRunning := false, wfgDone := true } }

/-! ## The probe (R171) -/

/-- Waiters on a fence's word, remote watches included. -/
def wordWaiters (s : State) (f : Fence) : Nat :=
  (s.wsh.waiters.filter (fun e => e.2.st != .idle && e.2.fence.pa == f.pa && e.2.fence.home == f.home)).length +
  (s.wsh.watches.filter (fun w => w.fence.pa == f.pa && w.fence.home == f.home)).length

/-- The last signaller of a fence's word, where its line entry holds that word. -/
def lastOf (s : State) (f : Fence) : Nat :=
  match findLine s f with
  | some l => if (s.line l).word = wordOf f.pa then (s.line l).last.toNat else 0
  | none => 0

/-- The value a probe's read returns. A read behind an atomic in flight on the line returns what memory holds after it, and a
fence of another die is not in this die's memory: those are open (`f`, log 44). -/
def probeValue (s : State) (x : Fence) (free : Nat) (m : MemView) : Option Word :=
  if x.home ≠ dieId s ∨ lineBusy s x.pa then some (Config.freeWord free)
  else (memRead s m x.pa 8).map (fun bs => BitVec.ofNat 64 (leNat bs))

/-- What a probe of a fence in a context shows; a fence that does not resolve shows OK 0. -/
def probeFence (s : State) (c : Nat) (sel : Word) (showValue : Bool) (free : Nat) (m : MemView) : Probe :=
  match resolveFence s c sel none false m with
  | .error _ => { sel := sel, value := 0, info := 0 }
  | .ok (s1, f) =>
    match probeValue s1 f free m with
    | none => { sel := sel, value := 0, info := 0 }
    | some v =>
      { sel := sel, value := if showValue then v else 0,
        info := BitVec.ofNat 64 (lastOf s1 f * 2 ^ 32 + 2 ^ 31 + b2n (findLine s1 f).isSome * 2 ^ 30 + b2n f.counting * 2 ^ 29 +
                                 wordWaiters s1 f % 2 ^ 19) }

end Sys2Proof.Machine
end

