-- ==== Sys2Proof/Machine/Packets.lean ====
section
/-! DEFINITION. The packets whose effect chapter 5 states: NOP, constants, control flow, calls and TIMESTAMP (R134 to
R144). -/

namespace Sys2Proof.Machine

/-- Read n bytes at a memory operand of a packet (R126). -/
def readOp (s : State) (q : Nat) (a b : Word) (n : Nat) (m : MemView) : Except Status (List Byte) :=
  let c := (s.queue q).owner
  match resolveMref (s.ctx c) a b n false with
  | .error e => .error e
  | .ok (va, _) => vRead s c va n m

/-- A context in which a handle that a packet already holds still resolves, whatever a FREE has made of its generation since
(R78, R83). -/
def keptCtx (c : Context) (held : List Nat) (a : Word) : Context :=
  let i := hIdx (fld a 31 0)
  if held.contains i then setHandle c i { handleAt c i with gen := hGen (fld a 31 0), live := true, retired := false } else c

/-- The handle of a memory operand that a packet holds from its resolution on (R126), or the status the operand fails
with. -/
def operandHandle (c : Context) (held : List Nat) (a b : Word) (n : Nat) (write : Bool) : Except Status (Option Nat) :=
  (resolveMref (keptCtx c held a) a b n write).map (·.2)

/-- Read n bytes at a memory operand whose handle the packet may hold already. -/
def readKept (s : State) (q : Nat) (held : List Nat) (a b : Word) (n : Nat) (m : MemView) : Except Status (List Byte) :=
  let c := (s.queue q).owner
  match resolveMref (keptCtx (s.ctx c) held a) a b n false with
  | .error e => .error e
  | .ok (va, _) => vRead s c va n m

/-- Write bytes at a memory operand of a packet. -/
def writeOp (s : State) (q : Nat) (a b : Word) (bs : List Byte) : Except Status State :=
  let c := (s.queue q).owner
  match resolveMref (s.ctx c) a b bs.length true with
  | .error e => .error e
  | .ok (va, _) => vWrite s (portQ s q) c va bs

/-- An 8-byte memory operand as a word. -/
def readWordOp (s : State) (q : Nat) (a b : Word) (m : MemView) : Except Status Word :=
  (readOp s q a b 8 m).map (fun bs => BitVec.ofNat 64 (leNat bs))

/-- NOP. -/
def execNop (q : BitVec 18) (s : State) : Result :=
  packetRow s q.toNat 0x00 noTokens (fun s _ _ => retire s q.toNat)

/-! ## Constants (R135, R142) -/

/-- Write words into a constant image from a word index. -/
def setConstWords : Table Word → Nat → List Word → Table Word
  | t, _, [] => t
  | t, i, w :: ws => setConstWords (tset 0 t i w) (i + 1) ws

/-- SET_CONST: inline or memory bytes enter the job's image, which the job takes at its first SET_CONST. -/
def execSetConst (qb : BitVec 18) (m : MemView) (s : State) : Result :=
  packetRow s qb.toNat 0x05 noTokens (fun s j ws =>
    let q := qb.toNat
    let off := fld (wordAt ws 1) 11 0 / 8
    let got := if j.image.isSome then some s else takeImg s q
    match got with
    | none => modJob (waitImg s q) q (fun j => { j with phase := .imgWait })
    | some t =>
      let data : Except Status (List Word) :=
        if flagsOf (hdrOf ws) % 2 = 1 then
          (readOp t q (wordAt ws 2) (wordAt ws 3) (fld (wordAt ws 1) 28 16) m).map wordsOfBytes
        else .ok (ws.drop 2)
      match data with
      | .error e => faultJob t q e
      | .ok ds => retireWith t q (fun j => { j with image := j.image.map (fun im => setConstWords im off ds) }))

/-! ## Control flow (R136, R137) -/

/-- The comparisons of Table 5.7 on s = source AND MASK. -/
def compare (cmp : Nat) (x v : Word) : Bool :=
  match cmp with
  | 0 => x == v
  | 1 => x != v
  | 2 => decide (x.toNat < v.toNat)
  | 3 => decide (v.toNat ≤ x.toNat)
  | 4 => decide (x.toInt < v.toInt)
  | 5 => decide (v.toInt ≤ x.toInt)
  | 6 => x != 0
  | _ => x == 0

/-- The position of the ELSE (where `els`) or ENDIF that closes the block open before a position. -/
def findElse (els : Bool) : List (List Word) → Nat → Nat → Nat
  | [], i, _ => i
  | p :: ps, i, depth =>
    let op := opOf (hdrOf p)
    let opens := op == 0x20 && !((flagsOf (hdrOf p)).testBit 9)
    if opens then findElse els ps (i + 1) (depth + 1)
    else if depth = 0 ∧ (op = 0x22 ∨ (els = true ∧ op = 0x21)) then i
    else if op = 0x22 then findElse els ps (i + 1) (depth - 1)
    else findElse els ps (i + 1) depth

/-- The position of the ENDLOOP that closes the loop open before a position. -/
def findEndloop : List (List Word) → Nat → Nat → Nat
  | [], i, _ => i
  | p :: ps, i, depth =>
    let op := opOf (hdrOf p)
    if op = 0x23 then findEndloop ps (i + 1) (depth + 1)
    else if op = 0x24 then (if depth = 0 then i else findEndloop ps (i + 1) (depth - 1))
    else findEndloop ps (i + 1) depth

/-- Change the innermost frame. -/
def onTop (g : Frame → Frame) : List Frame → List Frame
  | f :: fs => g f :: fs
  | [] => []

/-- IF: the condition opens a block or writes a predicate. -/
def execIfPkt (qb : BitVec 18) (m : MemView) (s : State) : Result :=
  packetRow s qb.toNat 0x20 noTokens (fun s j ws =>
    let q := qb.toNat
    let fl := flagsOf (hdrOf ws)
    let src : Except Status Word :=
      if fl % 4 = 1 then .ok (dreg j (fld (wordAt ws 1) 3 0)) else readWordOp s q (wordAt ws 1) (wordAt ws 2) m
    match src with
    | .error e => faultJob s q e
    | .ok v =>
      let c := compare (fl / 4 % 8) (v &&& wordAt ws 4) (wordAt ws 3)
      let bit := fl / 32 % 8
      let s1 := if fl.testBit 8 then
          modJob s q (fun j => { j with preds := if c then j.preds ||| BitVec.ofNat 8 (2 ^ bit)
                                                 else j.preds &&& ~~~(BitVec.ofNat 8 (2 ^ bit)) })
        else s
      if fl.testBit 9 then retire s1 q
      else retireStack s1 q (onTop (fun f =>
        { f with blocks := .ifb c :: f.blocks,
                 pc := if c then f.pc + 1 else findElse true (f.pkts.drop (f.pc + 1)) (f.pc + 1) 0 })))

/-- ELSE: reached after a taken branch it skips to ENDIF; reached by a skip it starts the else branch. -/
def execElsePkt (qb : BitVec 18) (s : State) : Result :=
  packetRow s qb.toNat 0x21 noTokens (fun s _ _ =>
    retireStack s qb.toNat (onTop (fun f =>
      let taken := match f.blocks with | .ifb b :: _ => b | _ => false
      { f with pc := if taken then findElse false (f.pkts.drop (f.pc + 1)) (f.pc + 1) 0 else f.pc + 1 })))

/-- ENDIF closes the block. -/
def execEndif (qb : BitVec 18) (s : State) : Result :=
  packetRow s qb.toNat 0x22 noTokens (fun s _ _ =>
    retireStack s qb.toNat (onTop (fun f => { f with blocks := f.blocks.drop 1, pc := f.pc + 1 })))

/-- LOOP latches its count; 0 skips to the matching ENDLOOP. -/
def execLoop (qb : BitVec 18) (m : MemView) (s : State) : Result :=
  packetRow s qb.toNat 0x23 noTokens (fun s j ws =>
    let q := qb.toNat
    let src := flagsOf (hdrOf ws) % 4
    let v : Except Status Nat :=
      if src = 0 then .ok (fld (wordAt ws 1) 31 0)
      else if src = 1 then .ok (dreg j (fld (wordAt ws 1) 3 0)).toNat
      else (readWordOp s q (wordAt ws 1) (wordAt ws 2) m).map (·.toNat)
    match v with
    | .error e => faultJob s q e
    | .ok n =>
      retireStack s q (onTop (fun f =>
        { f with blocks := .loopb (f.pc + 1) 0 (min n 0xFFFFFFFF) :: f.blocks,
                 pc := if n = 0 then findEndloop (f.pkts.drop (f.pc + 1)) (f.pc + 1) 0 else f.pc + 1 })))

/-- ENDLOOP sends decode back to the body, or ends the loop. -/
def execEndloop (qb : BitVec 18) (s : State) : Result :=
  packetRow s qb.toNat 0x24 noTokens (fun s _ _ =>
    retireStack s qb.toNat (onTop (fun f =>
      match f.blocks with
      | .loopb body i n :: bs =>
        if i + 1 < n then { f with blocks := .loopb body (i + 1) n :: bs, pc := body }
        else { f with blocks := bs, pc := f.pc + 1 }
      | _ => { f with pc := f.pc + 1 })))

/-! ## Calls (R138, R139) -/

/-- CALL_BUFFER reads and checks a buffer and executes it one level down. -/
def execCallBuffer (qb : BitVec 18) (m : MemView) (s : State) : Result :=
  packetRow s qb.toNat 0x25 noTokens (fun s j ws =>
    let q := qb.toNat
    let n := fld (wordAt ws 3) 16 0
    if 16 ≤ j.stack.length - 1 then malformed (countRefused s q ST_NEST_DEPTH) q ST_NEST_DEPTH
    else if 65536 < (j.stack.map (·.bytes)).sum + n then malformed (countRefused s q ST_CALL_SPACE) q ST_CALL_SPACE
    else
      let got := if j.hasBuf then some s else takeBuf s q
      match got with
      | none => waitBuf (modJob s q (fun j => { j with phase := .bufWait true })) q
      | some t =>
        match readOp t q (wordAt ws 1) (wordAt ws 2) n m with
        | .error e => faultJob t q e
        | .ok bs =>
          let t1 := count (count t (pgPKD (s.queue q).home) 5) pgFET 7 n
          if (t1.queue q).crc && crc32c bs != fld (wordAt ws 3) 63 32 then malformed (count t1 pgFET 4) q ST_FRAGMENT_CRC
          else
            let bw := wordsOfBytes bs
            let st := checkBuffer (t1.queue q).cls (openIfs j) (openLoops j) bw
            let va := match resolveMref (t1.ctx (t1.queue q).owner) (wordAt ws 1) (wordAt ws 2) n false with
              | .ok (a, _) => a
              | .error _ => 0
            if st ≠ ST_OK then malformed (noteBad (countRefused t1 q st) q va (openIfs j) (openLoops j) bw) q st
            else
              retireStack t1 q (fun st => { kind := .called, pkts := pktsOf bw, pc := 0, blocks := [], bytes := n, va := va } ::
                                          bumpTop st))

/-- RETURN resumes the caller, ends a graph run at its own level (R214), or ends the packet stream at level 0. -/
def execReturnPkt (qb : BitVec 18) (s : State) : Result :=
  packetRow s qb.toNat 0x26 noTokens (fun s j _ =>
    let q := qb.toNat
    if j.stack.length ≤ 1 then endStream (retireStack s q (fun _ => [])) q
    else retireStack s q (fun st => match st with
      | f :: fs => match f.kind with
        | .graph g i _ h => { f with kind := .graph g i (imgSegs (gslot s g i).image) h, pkts := [], pc := 0, blocks := [] } :: fs
        | _ => fs
      | [] => []))

/-! ## TIMESTAMP (R144) -/

/-- TIMESTAMP writes the timebase to memory or a register. -/
def execTimestamp (qb : BitVec 18) (s : State) : Result :=
  packetRow s qb.toNat 0x42 noTokens (fun s _ ws =>
    let q := qb.toNat
    if flagsOf (hdrOf ws) % 2 = 1 then retireWith s q (fun j => setD j (immOf (hdrOf ws) % 16) s.timebase)
    else match writeOp s q (wordAt ws 1) (wordAt ws 2) (leBytes 8 s.now) with
      | .error e => faultJob s q e
      | .ok t => retire t q)

end Sys2Proof.Machine
end

