-- ==== Sys2Proof/Machine/Observe.lean ====
section
/-! DEFINITION. What observation records: event rings (R354, R355), layer counters (R353) and trace records (R356,
R357). -/

namespace Sys2Proof.Machine

/-! ## Event rings -/

/-- The launch record a tag names. -/
def recAt (s : State) (tag : Nat) : Option LaunchRec := tget none (s.lane (tag / 8192)).recs (tag % 8192)

/-- Layer and operator of an endpoint's oldest unretired command; 0 where it holds none (R354). -/
def epIds (s : State) (e : Nat) : Nat × Nat :=
  match (s.ep e).cmds.head? with
  | some (tag, _) => match recAt s tag with
    | some r => (r.layer.toNat, r.operator.toNat)
    | none => (0, 0)
  | none => (0, 0)

/-- An entry of an endpoint's ring, as the block fills it in. -/
def eventEntry (s : State) (e type detail data : Nat) : BitVec 128 :=
  let ids := epIds s e
  BitVec.ofNat 128 (s.now / 10 % 2 ^ 40 * 2 ^ 88 + ids.2 % 65536 * 2 ^ 72 + ids.1 % 65536 * 2 ^ 56 + data % 2 ^ 24 * 2 ^ 32 +
    (epCtx s e).getD 0 * 2 ^ 16 + detail % 256 * 2 ^ 8 + type % 256)

/-- A new entry enters a ring of sixteen; the oldest is overwritten (R355). -/
def pushEvent (s : State) (e type detail data : Nat) : State :=
  let x := s.ep e
  let v := eventEntry s e type detail data
  if x.ring.length < 16 then count (s.setEp e { x with ring := x.ring ++ [v] }) pgLOE 3
  else count (count (s.setEp e { x with ring := x.ring.drop 1 ++ [v], lost := satAdd 0xFFFF x.lost 1 }) pgLOE 3) pgLOE 4

/-! ## Layer counters -/

/-- The set of a layer-counter entry (4-way, 4,096 entries). -/
def layerSet (l : LayerCtr) : Nat := Config.setIndex 1 [l.ctx, l.layer.toNat, l.operator.toNat] % 1024

/-- a/b + c/d, exactly. -/
def addFrac (x y : Nat × Nat) : Nat × Nat := if x.2 = y.2 then (x.1 + y.1, x.2) else (x.1 * y.2 + y.1 * x.2, x.2 * y.2)

/-- Count launches, engine time and energy for a command's identifiers (R353). -/
def countLayer (s : State) (c : Nat) (layer operator : W32) (launches : Nat) (ns : Nat × Nat) (fj : Nat) : State :=
  let hit (x : LayerCtr) : Bool := x.ctx == c && x.layer == layer && x.operator == operator
  let old : LayerCtr := match s.loe.layers.find? hit with
    | some x => x
    | none => { ctx := c, layer := layer, operator := operator, launches := 0, engine := (0, 1), energy := 0 }
  let new := { old with launches := old.launches + BitVec.ofNat 64 launches, engine := addFrac old.engine ns,
                        energy := old.energy + fj }
  { s with loe := { s.loe with layers := trimSet layerSet (layerSet new) 4 (new :: s.loe.layers.filter (fun x => !hit x)) 0 } }

/-! ## Trace -/

/-- A session records a record of a context; `none` is a record with no context (R356). -/
def traceWants (s : State) (c : Option Nat) : Bool :=
  match s.loe.trace.owner with
  | none => false
  | some (.tenant o) => c == some o
  | some .operator => c == none || c == some 0
  | some .debug => true

/-- The sixteen bytes of a trace record (R357). -/
def traceBytes (s : State) (kind source ctx : Nat) (stretched : Bool) (payload : Nat) : List Byte :=
  leBytes 16 (payload % 2 ^ 64 * 2 ^ 64 + s.now / 10 % 2 ^ 30 * 2 ^ 34 + ctx % 2 ^ 14 * 2 ^ 20 + source % 2 ^ 14 * 2 ^ 6 +
    b2n stretched * 2 ^ 4 + kind)

/-- A record is dropped and counted. -/
def dropTrace (s : State) : State :=
  let t := s.loe.trace
  count { s with loe := { s.loe with trace := { t with dropped := t.dropped + 1, gap := t.gap + 1,
                                                        gapAt := if t.gap = 0 then s.now else t.gapAt } } } pgLOE 6

/-- Where the next record drains to: the session's buffer, after the bytes drained so far. -/
def drainAddr (t : Trace) : Nat := t.base.toNat + t.written.toNat % (t.size * 64)

/-- Sixteen bytes drain to the session's buffer; the status where the write fails. -/
def drainTrace (s : State) (bs : List Byte) : Except Status State :=
  let t := s.loe.trace
  let s1 := count { s with loe := { s.loe with trace := { t with written := t.written + 16 } } } pgLOE 5
  match t.owner with
  | some (TraceOwner.tenant o) => vWrite s1 8 o (drainAddr t) bs
  | _ => match putPieces s1 8 [(drainAddr t, 0, 16)] bs with
    | some s2 => .ok s2
    | none => .error ST_MEMORY_ERROR

/-- A drain's write met a memory error: ERR_STATUS bit 29 records it (R341). -/
def drainError (s : State) : State :=
  let t := s.loe.trace
  setErr s pgLOE 29 (match t.owner with
    | some (TraceOwner.tenant o) => badWriteAddr s o (drainAddr t) 16
    | _ => drainAddr t)

/-- The drain stands at the end of a buffer it does not wrap, or has no buffer. -/
def traceFull (t : Trace) : Bool :=
  t.stoppedFull || t.size == 0 || (!t.ctrl.getLsbD 2 && decide (t.size * 64 < t.written.toNat + 16))

/-- A record drains at once, or joins the 4 MiB trace buffer behind a stopped drain, or is dropped. -/
def putTrace (s : State) (bs : List Byte) : State :=
  let t := s.loe.trace
  if traceFull t then
    if t.buf.length < 262144 then
      { s with loe := { s.loe with trace := { t with stoppedFull := true, buf := t.buf ++ [bs] } } }
    else dropTrace { s with loe := { s.loe with trace := { t with stoppedFull := true } } }
  else match drainTrace s bs with
    | .ok s1 => s1
    | .error st => dropTrace (if st = ST_MEMORY_ERROR then drainError s else s)

/-- A record of a session; the first one accepted after drops is preceded by a LOSS record (R357). -/
def traceRec (s : State) (kind source : Nat) (ctx : Option Nat) (stretched : Bool) (payload : Nat) : State :=
  if !(traceWants s ctx) then s
  else
    let t := s.loe.trace
    let bs := traceBytes s kind source (ctx.getD 0) stretched payload
    if t.gap = 0 || (traceFull t && decide (262144 ≤ t.buf.length)) then putTrace s bs
    else
      let loss := traceBytes s 3 0 0 false (min t.gap (2 ^ 32 - 1) + min ((s.now - t.gapAt) / 1000) (2 ^ 32 - 1) * 2 ^ 32)
      let s1 := putTrace { s with loe := { s.loe with trace := { t with gap := 0 } } } loss
      if s1.loe.trace.gap = 0 then putTrace s1 bs else dropTrace s

/-- While a session records instructions, each one that a processor of a slice in SLICES retires gives a record of KIND 1
(R356, Table 13.9). -/
def traceInstructions (s : State) (k p c : Nat) (fw : FwRun) : State :=
  fw.retired.foldl (fun t r =>
    if t.loe.trace.ctrl.getLsbD 3 && t.loe.trace.ctrl.getLsbD (8 + k) then
      traceRec t 1 (8 * k + p) (some c) false (r.1.toNat + r.2.toNat * 2 ^ 32)
    else t) s

end Sys2Proof.Machine
end

