-- ==== Sys2Proof/Machine/Objects.lean ====
section
/-! DEFINITION. Memory objects and contexts: the allocator (R79 to R81, R267), FREE in both modes (R83), the abort of a
context's work (Table 3.8, R86, R87), and the kernel packets that create and destroy contexts (R69, R85). -/

namespace Sys2Proof.Machine

/-! ## The pool (R79, R267) -/

/-- The channels of a partition with their rotation positions, in order; those being unbound have left it (R268). -/
def rotation (s : State) (p : Nat) : List (Nat × Nat) :=
  (sortBy (fun a b => a.1 ≤ b.1) (s.part p).active.chans).filter (fun e => !(s.part p).migChans.contains e.2)

/-- The channels a context allocates from, in rotation order: in a sealed partition, those without a MEMORY key of the
context are skipped (R286). -/
def allocChans (s : State) (p c : Nat) : List (Nat × Nat) :=
  (rotation s p).filter (fun e => !(isSealed s p) || (memKey s c e.2).isSome)

/-- A pool under allocation: rotation position, channel and zeroed granules of each channel in rotation order, and the
rotation position that the next allocation begins at. -/
structure Pool where
  chans : List (Nat × Nat × List Nat)
  next : Nat

/-- The channels' places in the list, from the present rotation position on. -/
def Pool.order (p : Pool) : List Nat :=
  let from_ (i : Nat) : Bool := match p.chans[i]? with | some e => decide (p.next ≤ e.1) | none => false
  let l := List.range p.chans.length
  l.filter from_ ++ l.filter (fun i => !from_ i)

/-- Take the lowest zeroed granule of the next channel that has one. -/
def Pool.take (p : Pool) : Option (Nat × Nat × Pool) :=
  match p.order.find? (fun i => match p.chans[i]? with | some (_, _, _ :: _) => true | _ => false) with
  | none => none
  | some i =>
    match p.chans[i]? with
    | some (at_, m, g :: gs) => some (m, g, { chans := p.chans.set i (at_, m, gs), next := at_ + 1 })
    | _ => none

/-- The lowest naturally aligned, wholly free range of 8,192 granules of a list. -/
def alignedRun : Nat → List Nat → Option Nat
  | 0, _ => none
  | _, [] => none
  | n + 1, g :: gs =>
    if g % 8192 = 0 ∧ (g :: gs)[8191]? = some (g + 8191) then some g else alignedRun n gs

/-- Take a 512 MiB leaf from one channel. -/
def Pool.takeLarge (p : Pool) : Option (Nat × Nat × Pool) :=
  (p.order.filterMap (fun i => match p.chans[i]? with
    | some (at_, m, gs) => match alignedRun (gs.length + 1) gs with
      | some g => some (m, g, { chans := p.chans.set i (at_, m, gs.filter (fun x => !(decide (g ≤ x) && decide (x < g + 8192)))),
                                 next := at_ + 1 })
      | none => none
    | none => none)).head?

/-- One 64 KiB page of a plan: page number, granule, channel, part of a 512 MiB leaf. -/
structure PlanPage where
  page : Nat
  gran : Nat
  chan : Nat
  large : Bool

/-- Choose granules for n pages from a page number (R80 step 3); pages the pool cannot supply are left out. -/
def planPages : Nat → Nat → Nat → Pool → List PlanPage × Pool
  | 0, _, _, p => ([], p)
  | fuel + 1, page, n, p =>
    if n = 0 then ([], p)
    else
      let big := if page % 8192 = 0 ∧ 8192 ≤ n then p.takeLarge else none
      match big with
      | some (m, g, p1) =>
        let r := planPages fuel (page + 8192) (n - 8192) p1
        ((List.range 8192).map (fun i => { page := page + i, gran := g + i, chan := m, large := true }) ++ r.1, r.2)
      | none =>
        match p.take with
        | some (m, g, p1) =>
          let r := planPages fuel (page + 1) (n - 1) p1
          ({ page := page, gran := g, chan := m, large := false } :: r.1, r.2)
        | none => planPages fuel (page + 1) (n - 1) p

/-- Take n granules for tables; fewer where the pool has fewer. -/
def takeTables : Nat → Pool → List Nat × Pool
  | 0, p => ([], p)
  | n + 1, p =>
    match p.take with
    | some (_, g, p1) => let r := takeTables n p1; (g :: r.1, r.2)
    | none => ([], p)

/-- The zeroed granules of a list of channels of a partition. -/
def poolFrom (s : State) (p : Nat) (l : List (Nat × Nat)) : Pool :=
  { chans := l.map (fun e => (e.1, e.2, (s.chan e.2).free)), next := (s.part p).rotation }

/-- The pool of a partition for a context. -/
def poolOf (s : State) (p c : Nat) : Pool := poolFrom s p (allocChans s p c)

/-- The pool's channels after an allocation. -/
def putPool (s : State) (p : Nat) (pool : Pool) : State :=
  pool.chans.foldl (fun t e => t.setChan e.2.1 { t.chan e.2.1 with free := e.2.2 })
    (s.setPart p { s.part p with rotation := pool.next })

/-- Zeroed granules in the pool, and those still being zeroed. -/
def poolFree (p : Pool) : Nat := (p.chans.map (·.2.2.length)).sum
def poolZeroing (s : State) (p : Pool) : Nat :=
  (s.zeroing.filter (fun z => match chanOf s z.gran with
    | some m => p.chans.any (fun e => e.2.1 == m)
    | none => false)).length

/-! ## Choosing a virtual range (R80 step 2) -/

/-- The lowest start at or above `cur`, aligned to `al` pages, with n free pages before `limit`. -/
def findGap (n al limit : Nat) : List Nat → Nat → Option Nat
  | [], cur => if cur + n ≤ limit then some cur else none
  | p :: ps, cur =>
    if p < cur then findGap n al limit ps cur
    else if cur + n ≤ p then (if cur + n ≤ limit then some cur else none)
    else findGap n al limit ps (roundUp (p + 1) al)

/-- The first page above the sync table. -/
def heapStart (c : Context) : Nat := 1 + ceilDiv (16 * 2 ^ c.syncBits) 65536

/-- The outcome of an allocation. -/
inductive AllocOut where
  | fail (st : Status)
  | wait
  | done (s : State) (handle va : Nat)

/-- The lowest handle index that can be issued (R77). -/
def freeHandle (c : Context) : Option Nat :=
  let ok (i : Nat) : Bool := let h := handleAt c i; !h.live && !h.retired && !h.releasing
  (List.range (c.handles.length + 1)).find? (fun i => ok i && decide (i < 2 ^ c.handleBits))

/-- The page entry of an object's page: attributes, key ID (Table 11.3), and as home die this die, since R164 names no source
of another (DESIGN CHOICE, log 54). -/
def pageEntry (s : State) (p c attr : Nat) (x : PlanPage) : PageEntry :=
  let hv := attr.testBit 2
  { gran := x.gran, write := attr.testBit 0, sync := attr.testBit 1, hostVis := hv, large := x.large,
    key := if hv || !(isSealed s p) then 0 else (memKey s c x.chan).getD 0, home := dieId s }

/-- Put many page entries into a context's table. -/
def putPages (t : Table PageEntry) (l : List (Nat × PageEntry)) : Table PageEntry := l.foldl (fun t e => tput t e.1 e.2) t

/-- Allocate an object for a context (R80, R81): attributes bit 0 WRITE, 1 SYNC, 2 HOST_VISIBLE. The entries stay in
State: the writes of them into the context's granules, whose layout R72 does not give, are no output (DESIGN CHOICE, log
4). -/
def allocObject (s : State) (c size hint attr : Nat) : AllocOut :=
  let x := s.ctx c
  let n := ceilDiv size 65536
  let limit := vaEnd x
  let al := if 8192 ≤ n then 8192 else 1
  let start := heapStart x
  let used := x.pages.map (·.1)
  if size = 0 ∨ limit < size ∨ (hint ≠ 0 ∧ limit < hint + n * 65536) then .fail ST_ALLOC_SIZE
  else
    let va : Option Nat :=
      if hint = 0 then findGap n al (limit / 65536) used (roundUp start al)
      else if hint % 65536 ≠ 0 ∨ hint / 65536 < start ∨
              used.any (fun p => decide (hint / 65536 ≤ p) && decide (p < hint / 65536 + n)) then none
      else some (hint / 65536)
    match va with
    | none => .fail ST_ALLOC_VA_BUSY
    | some page =>
      match freeHandle x with
      | none => .fail ST_ALLOC_HANDLES
      | some i =>
        let pool := poolOf s x.part c
        let r := planPages (n + 1) page n pool
        let regions := ((List.range n).map (fun k => (page + k) / 8192)).eraseDups
        let small := regions.filter (fun g => !(r.1.any (fun e => e.large && e.page / 8192 == g)))
        let newL2 := small.filter (fun g => !x.l2.contains g)
        let newL1 := ((regions.map (· / 8192)).eraseDups).filter (fun g => !x.l1.contains g)
        let tables := newL1.length + newL2.length
        if x.quota < x.used + n + tables then .fail ST_ALLOC_QUOTA
        else if poolFree pool < n + tables then
          if n + tables ≤ poolFree pool + poolZeroing s pool then .wait else .fail ST_ALLOC_NO_SPACE
        else
          let tb := takeTables tables r.2
          let h := handleAt x i
          let x1 := setHandle { x with pages := putPages x.pages (r.1.map (fun e => (e.page, pageEntry s x.part c attr e))),
                                       l1 := x.l1 ++ newL1, l2 := x.l2 ++ newL2, tables := x.tables ++ tb.1,
                                       used := x.used + n + tables } i
                    { h with live := true, base := page * 65536, size := size, attr := attr, holders := 0 }
          let s1 := putPool (s.setCtx c x1) x.part tb.2
          let leaves := (r.1.filter (fun e => e.large && e.page % 8192 == 0)).length
          .done (count (count s1 pgOBJ 0) pgXLT 7 leaves) (h.gen * 2 ^ 24 + i) (page * 65536)

/-- The result block (Table 3.6). -/
def resultBlock (handle : Nat) (st : Status) (va : Nat) : List Byte :=
  leBytes 4 handle ++ leBytes 2 st.toNat ++ zeroBytes 2 ++ leBytes 8 va

/-! ## Aborts (R83, R86) -/

/-- An abort message for a context to a set of endpoints on one lane; with ONE_CMD it names a TAG (Table 7.1). -/
def sendAbort (s : State) (lane : Nat) (eps : List Nat) (c : Nat) (tag : Option Nat) : State :=
  sendRuns s lane 3 eps (match tag with
    | some t => 0x02 + t * 2 ^ 16 + c * 2 ^ 32 + 2 ^ 46
    | none => 0x02 + c * 2 ^ 32) []

/-- The Fan group clear of a stream (Table 7.1). -/
def groupClear (s : State) (fan : Nat) (x : Stream) : State :=
  sendRuns s x.lane 2 x.targets 0x05 []

/-! ## Owners of Fans and channels (R200, R281, R307) -/

/-- The security owner of a partition's units: the sealed partition's OWNER_ID, or the operator (R281). -/
def ownerOf (s : State) (p : Nat) : List Byte := (s.part p).sealed.getD []

/-- The owner that a unit records as it goes to a partition, or is no longer owned (R281). -/
def ownerAt (s : State) (old : List Byte) (valid : Bool) (p : Nat) : List Byte := if valid then ownerOf s p else old

/-- The clear of a partition's units still awaits tokens, or a barrier channel or Fan that stays with the partition still
changes owner (R169, R200, R307). -/
def ownerClearing (s : State) (p : Nat) : Bool :=
  s.lanes.any (fun l => l.2.recs.any (fun r => match r.2 with | some x => x.purpose == .owner p | none => false)) ||
  s.blockWait.any (fun m => m.purpose == .owner p) ||
  s.sad.any (fun e => e.2.changing == some (true, p)) || s.fans.any (fun e => e.2.changing == some (true, p))

/-- A SEAL_PARTITION whose units have been cleared retires. -/
def sealGo (s : State) (p : Nat) : State :=
  match s.job secQ with
  | some j => if j.phase = .sealWait p ∧ !ownerClearing s p then retire s secQ else s
  | none => s

/-- The queues whose FAN_STREAM waits at a Fan. -/
def fanWaiters (s : State) (f : Nat) : List Nat :=
  s.jobs.filterMap (fun e => match e.2 with
    | some j => match j.phase, curPkt j with
      | .fanWait, some ws => if fld (wordAt ws 4) 20 16 = f then some e.1 else none
      | _, _ => none
    | none => none)

/-- The packets waiting at a Fan look again, after a freed slot or a change of owner (R200, R201). -/
def wakeFan (s : State) (f : Nat) : State := (fanWaiters s f).foldl (fun t q => modJob t q (fun j => { j with phase := .run })) s

/-- A Fan's change of owner ends once no stream is queued: a new security owner's Fan has its loop buffer zeroed (R200,
Table 11.15). -/
def fanSettle (s : State) (f : Nat) : State :=
  let x := s.fan f
  match x.changing with
  | none => s
  | some (v, p) =>
    if x.streams.isEmpty then
      let o := ownerAt s x.owner v p
      let s1 := if o = x.owner then s else count s pgNTC 7
      let y := { x with valid := v, part := p, changing := none, owner := o, loop := if o = x.owner then x.loop else [] }
      sealGo (wakeFan (count (s1.setFan f y) pgFAN 7) f) p
    else s

/-- Streams of a Fan that a test names are removed, with their group clears; packets that wait for a slot go on, and a
change of owner that waited for the streams. -/
def dropStreams (s : State) (bad : Stream → Bool) : State :=
  s.fans.foldl (fun t e =>
    let gone := e.2.streams.filter bad
    if gone.isEmpty then t
    else
      let t1 := t.setFan e.1 { t.fan e.1 with streams := e.2.streams.filter (fun x => !bad x) }
      fanSettle (wakeFan (gone.foldl (fun u x => groupClear u e.1 x) t1) e.1) e.1) s

/-- The answer to an upstream request (R193): the result block in beat 0, to one endpoint. -/
def answerUp (s : State) (e tag : Nat) (block : List Byte) : State :=
  sendRunsSpine s 3 [e] (0x01 + tag * 2 ^ 16 + leNat block * 2 ^ 64) []

/-- An upstream request that waited is answered. -/
def endUp (s : State) (e tag : Nat) (block : List Byte) : State :=
  let s1 := s.setEp e { s.ep e with upstream := (s.ep e).upstream - 1 }
  count (answerUp s1 e tag block) pgECP 5

/-- Jobs and upstream requests in FREE's wait whose object has been released go on (R83). -/
def resumeFrees (s : State) : State :=
  let s1 := s.jobs.foldl (fun t e => match e.2 with
    | some j => match j.phase with
      | .freeWait c i => if (handleAt (t.ctx c) i).releasing then t else retire (count t pgOBJ 2) e.1
      | _ => t
    | none => t) s
  s1.freeWait.foldl (fun t w =>
    let (e, tag, c, i) := w
    if (handleAt (t.ctx c) i).releasing then t
    else count (endUp { t with freeWait := t.freeWait.filter (· != w) } e tag (resultBlock 0 ST_OK 0)) pgOBJ 2) s1

/-- The launch records of a context that hold a handle: lane, record, the awaited endpoints, the job. -/
def recordsHolding (s : State) (c i : Nat) : List (Nat × Nat × LaunchRec) :=
  s.lanes.flatMap (fun l => l.2.recs.filterMap (fun e => match e.2 with
    | some r => if r.ctx = c ∧ r.held.contains i then some (l.1, e.1, r) else none
    | none => none))

/-- Every holder of a freed object aborts (R83). -/
def abortHolders (s : State) (c i : Nat) : State :=
  let recs := recordsHolding s c i
  let s1 := recs.foldl (fun t r => count (sendAbort t r.1 r.2.2.await c (some (tagOf r.1 r.2.1))) pgOBJ 6) s
  let byRec := recs.filterMap (fun r => match r.2.2.purpose with | .job q => some q | _ => none)
  let byJob := (s.jobs.filter (fun e => (s.queue e.1).owner == c && (match e.2 with
    | some j => j.held.contains i || j.heldKeep.contains i
    | none => false))).map (·.1)
  let s2 := byJob.foldl (fun t _ => count t pgOBJ 6) s1
  ((byRec ++ byJob).eraseDups).foldl (fun t q => endJob t q .aborted ST_ABORTED_FREE none) s2

/-- INFLIGHT of a context (Table 3.1): its holdings of handles (R78), and one for each decoded packet or engine command not
yet retired that holds none (log 46). -/
def inflightOf (s : State) (c : Nat) : Nat :=
  (s.ctx c).inflight +
  (s.jobs.filter (fun e => (s.queue e.1).owner == c && (match e.2 with
    | some j => streamOpen j.phase && j.decoded && j.held.isEmpty
    | none => false))).length +
  (s.lanes.map (fun l => (l.2.recs.filter (fun e => match e.2 with
    | some r => (match r.purpose with | .job _ => true | _ => false) && r.ctx == c && !r.await.isEmpty && r.held.isEmpty
    | none => false)).length)).sum

/-- FREE of a handle (R77, R83): the status the resolution fails with, or the state and the entry's index. -/
def freeObject (s : State) (c h : Nat) : Except Status (State × Nat) :=
  let x := s.ctx c
  match resolveHandle x h with
  | .error e => .error e
  | .ok i =>
    let e := handleAt x i
    let e1 := { e with live := false, releasing := true, gen := if e.gen = 255 then 255 else e.gen + 1,
                       retired := decide (e.gen = 255) }
    let s1 := s.setCtx c (setHandle x i e1)
    if e.holders = 0 then .ok (releaseObject s1 c i, i)
    else if x.abortMode then .ok (abortHolders s1 c i, i)
    else .ok (s1, i)

/-! ## Packets -/

/-- ALLOC: the result block is written, its status goes to D15, and the job goes on (R80, R81, R131). -/
def allocPacket (s : State) (q : Nat) (ws : List Word) : State :=
  let c := (s.queue q).owner
  let finish (t : State) (h : Nat) (st : Status) (va : Nat) : State :=
    match writeOp t q (wordAt ws 3) (wordAt ws 4) (resultBlock h st va) with
    | .error e => faultJob t q e
    | .ok u => retireWith u q (fun j => { j with d15 := BitVec.ofNat 64 st.toNat })
  match allocObject s c (fld (wordAt ws 1) 47 0) (wordAt ws 2).toNat (flagsOf (hdrOf ws) % 8) with
  | .fail st => finish (count s pgOBJ 1) 0 st 0
  | .wait => modJob { s with allocWait := s.allocWait ++ [.queue q] } q (fun j => { j with phase := .allocWait })
  | .done t h va => finish t h ST_OK va

/-- ALLOC. -/
def execAlloc (q : BitVec 18) (s : State) : Result :=
  packetRow s q.toNat 0x50 noTokens (fun s _ ws => allocPacket s q.toNat ws)

/-- FREE: it retires at once, or in abort mode once every holder has aborted and the memory is released. -/
def execFree (qb : BitVec 18) (s : State) : Result :=
  packetRow s qb.toNat 0x51 noTokens (fun s _ ws =>
    let q := qb.toNat
    let c := (s.queue q).owner
    match freeObject s c (fld (wordAt ws 1) 31 0) with
    | .error e => faultJob s q e
    | .ok (t, i) =>
      if (t.ctx c).abortMode && (handleAt (t.ctx c) i).releasing then
        resumeFrees (match t.job q with
          | some j => if streamOpen j.phase then modJob t q (fun j => { j with phase := .freeWait c i }) else t
          | none => t)
      else resumeFrees (retire (count t pgOBJ 2) q))

/-! ## Contexts -/

/-- Peer abort beat (R165). -/
def abortBeat (type c : Nat) : Nat := type + c * 2 ^ 34

/-- Steps 2 to 5 of Table 3.8 for a context's work on this die: waiters, graphs and routines stop, abort messages go to
every endpoint that holds its commands, each on the lane that issued them (R176); jobs end with ST_ABORTED, or keep the
status they were lost with. -/
def abortWork (s : State) (c : Nat) : State :=
  let qs := (s.jobs.filter (fun e => e.2.isSome && (s.queue e.1).owner == c)).map (·.1)
  let s1 := qs.foldl (fun t q => match t.job q with
    | some j => if streamOpen j.phase || openRecs t q != 0 then endJob t q .aborted ST_ABORTED none else t
    | none => t) s
  let s2 := dropStreams s1 (fun x => x.ctx == c)
  (List.range 8).foldl (fun t k =>
    let eps := (t.eps.filter (fun e => e.2.cmds.any (fun x => x.2 == c && x.1 / 8192 == k))).map (·.1)
    let n := (eps.map (fun e => ((t.ep e).cmds.filter (fun x => x.2 == c && x.1 / 8192 == k)).length)).sum
    if eps.isEmpty then t else sendAbort (count t pgOBJ 6 n) k eps c none) s2

/-- A teardown turns to abort mode: Table 3.8, and CONTEXT_ABORT to the other dies of the partition (R85, R87). -/
def startAbort (s : State) (c : Nat) : State :=
  let dies := remoteDies s (s.ctx c).part
  let s1 := abortWork (s.setCtx c { s.ctx c with aborting := true, forced := true, peerAborts := dies }) c
  dies.foldl (fun t d => sendPeer t d (abortBeat 0x10 c)) s1

/-- Every queue of a context stops fetching (R85). -/
def disableQueues (s : State) (c : Nat) : State :=
  s.queues.foldl (fun t e => if e.2.owner = c ∧ e.2.st = .enabled then queueDisable t e.1 else t) s

/-- CONTEXT_DESTROY (R68, R85, Table 3.3). -/
def execContextDestroy (qb : BitVec 18) (s : State) : Result :=
  packetRow s qb.toNat 0x81 noTokens (fun s _ ws =>
    let q := qb.toNat
    let c := fld (wordAt ws 1) 13 0
    let x := s.ctx c
    if c = 0 ∨ x.st = .free then opStatus s q ST_CONTEXT_INVALID
    else if x.st = .teardown ∨ x.st = .removing then opStatus s q ST_CONTEXT_BUSY
    else
      let force := flagsOf (hdrOf ws) % 2 = 1
      let s1 := disableQueues (s.setCtx c { x with st := .teardown, destroyedBy := some q, forced := decide force }) c
      let s2 := modJob s1 q (fun j => { j with phase := .destroyWait c })
      if x.abortMode ∨ force then
        let s3 := startAbort s2 c
        s3.setCtx c { s3.ctx c with forced := decide force }
      else s2)

/-- Granules for a new context's tables: root, handle table, sync table, and the two tables that map the latter. -/
def ctxTables (va sync handles : Nat) : Nat × Nat × Nat :=
  (ceilDiv (8 * 2 ^ va) 65536, ceilDiv (32 * 2 ^ handles) 65536, ceilDiv (16 * 2 ^ sync) 65536)

/-- The bytes of a context record's fields that CONTEXT_CREATE sets, as its packet carries them: what a type 5 entry
digests (Table 11.11, log 12). -/
def ctxFields (ws : List Word) : List Byte := bytesOfWords [wordAt ws 1, wordAt ws 2]

/-- A context at its creation. -/
def freshContext (s : State) : Context := { Context.reset with lastAdv := s.now }

/-- CONTEXT_CREATE (R69): the packet's effect, which waits for zeroing as ALLOC does. -/
def createPacket (s : State) (q : Nat) (ws : List Word) : State :=
  let w := wordAt ws 1
  let c := fld w 13 0
  let p := fld w 23 16
  let va := fld w 27 24
  let sync := fld w 36 32
  let hb := fld w 44 40
  let quota := fld (wordAt ws 2) 25 0
  let t := ctxTables va sync hb
  let n := t.1 + t.2.1 + t.2.2 + 2
  if c = 0 then opStatus s q ST_CONTEXT_INVALID
  else if (s.ctx c).st ≠ .free then opStatus s q ST_CONTEXT_BUSY
  else if p = 255 then opStatus s q ST_PARTITION_INVALID
  else if quota < n then opStatus s q ST_ALLOC_QUOTA
  else
    let pool := poolFrom s p (rotation s p)
    if poolFree pool < n then
      if n ≤ poolFree pool + poolZeroing s pool then
        modJob { s with allocWait := s.allocWait ++ [.queue q] } q (fun j => { j with phase := .allocWait })
      else opStatus s q ST_ALLOC_NO_SPACE
    else if isSealed s p && !(logRoom s p 1) then opStatus s q ST_MEASURE_FULL
    else
      let s0 := appendLog s p 5 c 0 0 0 0 (sha384 (ctxFields ws))
      let r := takeTables n pool
      let syncG := (r.1.drop (t.1 + t.2.1)).take t.2.2
      let x : Context :=
        { freshContext s0 with
          st := .active, abortMode := bitAt w 14, part := p, vaBits := va, syncBits := sync, handleBits := hb, quota := quota,
          used := n, root := r.1.getD 0 0, htab := r.1.getD t.1 0, tables := r.1,
          pages := putPages [] ((List.range syncG.length).map (fun i =>
            (1 + i, { gran := syncG.getD i 0, write := true, sync := false, hostVis := false, large := false, key := 1,
                      home := dieId s }))),
          l1 := [0], l2 := [0] }
      retire (count (putPool ((clearTenant s0 c).setCtx c x) p r.2) pgOBJ 4) q

/-- CONTEXT_CREATE. -/
def execContextCreate (q : BitVec 18) (s : State) : Result :=
  packetRow s q.toNat 0x80 noTokens (fun s _ ws => createPacket s q.toNat ws)

end Sys2Proof.Machine
end

