-- ==== Sys2Proof/Machine/Grid.lean ====
section
/-! DEFINITION. A partition's virtual grid and the rectangles that name its units (R141, R256). -/

namespace Sys2Proof.Machine

/-- One more than the largest of a list; 0 for none. -/
def extent (l : List Nat) : Nat := l.foldl (fun m x => max m (x + 1)) 0

/-- Grid width W and height H. -/
def gridW (m : Members) : Nat := extent (m.cores.map (·.1))
def gridH (m : Members) : Nat := extent (m.cores.map (·.2.1))

/-- The core at a virtual position. -/
def coreAt (m : Members) (x y : Nat) : Option Nat :=
  (m.cores.find? (fun c => c.1 == x && c.2.1 == y)).map (·.2.2)

/-- Every endpoint of a membership. -/
def memberEps (m : Members) : List Nat := m.cores.map (·.2.2) ++ m.copies.map (·.2) ++ m.links.map (·.2.1)

/-- Endpoints bound to a partition (R273). -/
def boundCount (m : Members) : Nat := m.cores.length + m.copies.length + m.links.length

/-- The fields of GRID: X0, Y0, EXT_X, EXT_Y. -/
def gridFields (g : Word) : Nat × Nat × Nat × Nat := (fld g 15 0, fld g 31 16, fld g 47 32, fld g 63 48)

/-- The endpoints a rectangle names: of compute cores (target 0), copy engines (1) or links (2); none where it reaches
outside the grid. An extent of 0 names nothing. -/
def rectEps (m : Members) (target : Nat) (g : Word) : Option (List Nat) :=
  let (x0, y0, ex, ey) := gridFields g
  let inX (x : Nat) : Bool := decide (x0 ≤ x) && decide (x < x0 + ex)
  if ex = 0 ∨ ey = 0 then some []
  else if target = 0 then
    if gridW m < x0 + ex ∨ gridH m < y0 + ey then none
    else some ((m.cores.filter (fun c => inX c.1 && decide (y0 ≤ c.2.1) && decide (c.2.1 < y0 + ey))).map (·.2.2))
  else if y0 ≠ 0 ∨ ey ≠ 1 then none
  else if target = 1 then
    if m.copies.length < x0 + ex then none else some ((m.copies.filter (fun c => inX c.1)).map (·.2))
  else
    if m.links.length < x0 + ex then none else some ((m.links.filter (fun c => inX c.1)).map (·.2.1))

/-- The copy endpoint of a virtual index. -/
def copyEp (m : Members) (i : Nat) : Option Nat := (m.copies.find? (fun c => c.1 == i)).map (·.2)

/-- The active membership of a queue's partition. -/
def membersQ (s : State) (q : Nat) : Members := (s.part (partQ s q)).active

/-- A list of endpoints without those that are DEFECT, and the lowest of the DEFECT ones (R376). -/
def splitDefect (s : State) (es : List Nat) : List Nat × Option Nat :=
  let bad := es.filter (fun e => decide ((s.ep e).unit.st = .defect))
  (es.filter (fun e => !decide ((s.ep e).unit.st = .defect)), bad.foldl (fun m e => some (match m with | some x => min x e | none => e)) none)

end Sys2Proof.Machine
end

