-- ==== Sys2Proof/Machine/Launch.lean ====
section
/-! DEFINITION. Launching work on engines: descriptors and their envelopes (R180 to R183), the steps of Table 7.6, COPY and
FILL (R185), slots and records (R186, R187), decrypting moves (R303). -/

namespace Sys2Proof.Machine

/-! ## Descriptors -/

/-- A region entry (Table 7.5). -/
structure Region where
  kind : Nat
  rows : Nat
  rowBytes : Nat
  stride : Nat
  spad : Nat
  a : Word
  b : Word
  inc : List Int

/-- Region i of a descriptor whose entries begin at word `o`. -/
def regionAt (ws : List Word) (o i : Nat) : Region :=
  let w (k : Nat) : Word := wordAt ws (o + 6 * i + k)
  { kind := fld (w 0) 63 62, rows := fld (w 0) 55 40, rowBytes := fld (w 0) 31 0, stride := fld (w 1) 63 32,
    spad := fld (w 1) 31 0, a := w 2, b := w 3,
    inc := [signedN 32 (fld (w 4) 31 0), signedN 32 (fld (w 4) 63 32), signedN 32 (fld (w 5) 31 0), signedN 32 (fld (w 5) 63 32)] }

/-- Region i satisfies Table 7.5. -/
def regionOk (ws : List Word) (o i : Nat) : Bool :=
  let r := regionAt ws o i
  let w0 := wordAt ws (o + 6 * i)
  fld w0 61 56 == 0 && fld w0 39 32 == 0 && decide (1 ≤ r.rows) && decide (1 ≤ r.rowBytes) &&
  (r.rows == 1 || decide (r.rowBytes ≤ r.stride)) &&
  (if r.kind = 0 then r.a == 0 && r.b == 0
   else r.spad == 0 && fld r.a 62 32 == 0 && mrefOk [r.a, r.b] (0, false))

/-- NLOOP, NREG, ARG_WORDS of a descriptor (Table 7.4). -/
def descLoops (ws : List Word) : Nat := fld (wordAt ws 0) 15 13
def descRegs (ws : List Word) : Nat := fld (wordAt ws 0) 12 8
def descArgs (ws : List Word) : Nat := fld (wordAt ws 0) 31 24

/-- Where the region entries and the argument words begin. -/
def regBase (ws : List Word) : Nat := 1 + descLoops ws
def argBase (ws : List Word) : Nat := regBase ws + 6 * descRegs ws

/-- The counts of the four loop levels. -/
def loopCounts (ws : List Word) : List Nat :=
  (List.range 4).map (fun l => if l < descLoops ws then fld (wordAt ws (1 + l)) 31 0 else 1)

/-- The core that receives the dependency token: none, or what DEP_X and DEP_Y name, if they name a core (R188). -/
def depOf (m : Members) (w : Word) : Option (Option Nat) :=
  let x := fld w 47 32
  let y := fld w 63 48
  if x = 0xFFFF ∧ y = 0xFFFF then some none else (coreAt m x y).map some

/-- A descriptor is valid (R183). -/
def descOk (m : Members) (ws : List Word) : Bool :=
  let w := wordAt ws 0
  fld w 7 0 == 1 && decide (descRegs ws ≤ 16) && decide (descLoops ws ≤ 4) &&
  ws.length == 1 + descLoops ws + 6 * descRegs ws + descArgs ws &&
  (List.range (descLoops ws)).all (fun l => fld (wordAt ws (1 + l)) 63 32 == 0) &&
  (List.range (descRegs ws)).all (regionOk ws (regBase ws)) &&
  (depOf m w).isSome

/-- Bytes below the nest origin that an envelope reaches, and bytes from the origin to its end (R183). -/
def envelope (counts : List Nat) (r : Region) : Nat × Nat :=
  let steps := (r.inc.zip counts).map (fun p => p.1 * ((p.2 : Int) - 1))
  let down := (steps.map (fun d => min 0 d)).foldl (· + ·) 0
  let up := (steps.map (fun d => max 0 d)).foldl (· + ·) 0
  ((-down).toNat, (r.rows - 1) * r.stride + r.rowBytes + up.toNat)

/-- A scratchpad envelope lies in the context's share (R270). -/
def spadOk (c : Context) (counts : List Nat) (r : Region) : Bool :=
  let e := envelope counts r
  decide (c.spadBase * 4096 + e.1 ≤ r.spad ∧ r.spad + e.2 ≤ (c.spadBase + c.spadSize) * 4096)

/-- A memory envelope resolved: its first virtual address, its length and the handle it holds (R126, R183). -/
def resolveRegion (c : Context) (counts : List Nat) (r : Region) : Except Status (Nat × Nat × Option Nat) :=
  let e := envelope counts r
  let n := e.1 + e.2
  let write := r.kind != 1
  if r.b.toNat < e.1 then .error (if bitAt r.a 63 then ST_TRANSLATION_FAULT else
    match resolveHandle c (fld r.a 31 0) with | .error st => st | .ok _ => ST_OBJECT_RANGE)
  else match resolveMref c r.a (BitVec.ofNat 64 (r.b.toNat - e.1)) n write with
    | .error st => .error st
    | .ok (va, h) => .ok (va, n, h)

/-- The words 2 and 3 of a memory region as sent (Table 7.5). -/
def sentRegion (ws : List Word) (o i first n off : Nat) : List Word :=
  (ws.set (o + 6 * i + 2) (BitVec.ofNat 64 (first + n * 2 ^ 16))).set (o + 6 * i + 3) (BitVec.ofNat 64 off)

/-- What a descriptor becomes: its words as sent, its segments, the handles it holds. -/
structure Built where
  desc : List Word
  segs : List (Nat × Nat × Nat)
  handles : List Nat

/-- Steps 4 and 5 of Table 7.6 over the memory regions, in order. -/
def buildRegions (c : Context) (counts : List Nat) (o : Nat) : List Nat → Built → Except Status Built
  | [], b => .ok b
  | i :: is, b =>
    let r := regionAt b.desc o i
    if r.kind = 0 then buildRegions c counts o is b
    else match resolveRegion c counts r with
      | .error st => .error st
      | .ok (va, n, h) =>
        let gs := segsOf c va n
        buildRegions c counts o is
          { desc := sentRegion b.desc o i b.segs.length gs.length (envelope counts r).1, segs := b.segs ++ gs,
            handles := b.handles ++ h.toList }

/-! ## Skips (R191) -/

/-- A block-detected skip at the packet a job stands at: an event in the ring of an endpoint, LCH_SKIP_LAST, the job's
first skip. -/
def noteSkip (s : State) (q e : Nat) (st : Status) : State :=
  match s.job q with
  | none => s
  | some j =>
    let k := (s.queue q).home
    let last := BitVec.ofNat 64 (packetIndex j + q * 2 ^ 16 + (s.queue q).owner * 2 ^ 34 + st.toNat * 2 ^ 48)
    let s1 := count (pushEvent s e 0x10 0 st.toNat) pgLCH 2
    let s2 := s1.setLane k { s1.lane k with skipLast := last }
    modJob s2 q (fun j => { j with skip := if j.skip = ST_OK then st else j.skip })

/-- The least endpoint of a list. -/
def lowest (es : List Nat) : Nat := es.foldl min 16383

/-- A skip retires the packet. -/
def skipPacket (s : State) (q : Nat) (es : List Nat) (st : Status) : State := retire (noteSkip s q (lowest es) st) q

/-! ## Steps 6 to 8 -/

/-- The first words of a job's constant image (R135). -/
def constWordsOf (j : Job) (n : Nat) : List Word :=
  (List.range n).map (fun i => match j.image with | some im => tget 0 im i | none => 0)

/-- The present packet is COPY or FILL. -/
def atCopyFill (j : Job) : Bool :=
  match curPkt j with
  | some p => opOf (hdrOf p) == 3 || opOf (hdrOf p) == 4
  | none => false

/-- Reserve the free slots of a list of endpoints; what is left is still needed (R187). -/
def reserveSlots : List Nat → State → State × List Nat
  | [], s => (s, [])
  | e :: es, s =>
    if slotFree s e && !slotWanted s e then
      reserveSlots es (s.setEp e { s.ep e with reserved := (s.ep e).reserved + 1 })
    else let r := reserveSlots es s; (r.1, e :: r.2)

/-- Step 8: a command whose record and slots are held leaves. -/
def issueCmd (s : State) (q : Nat) (p : Plan) (c : Cmd) (r : Nat) : State :=
  match s.job q with
  | none => s
  | some j =>
    let k := (s.queue q).home
    let o := (s.queue q).owner
    let s1 := p.targets.foldl (fun t e => t.setEp e { t.ep e with reserved := (t.ep e).reserved - 1 }) s
    let s2 := putRec s1 k r { purpose := .job q, ctx := o, layer := j.layer, operator := j.operator, pidx := packetIndex j,
                              await := p.targets, held := p.handles, since := s.now }
    let s3 := p.handles.foldl (fun t i => holdHandle t o i) s2
    let s4 := sendCommand s3 k { ecmd := p.ecmd, tag := tagOf k r, ctx := o, layer := j.layer.toNat, operator := j.operator.toNat,
                                 imemGen := p.imemGen, depWait := p.depWait, depEp := p.depEp } p.targets c.desc
                (constWordsOf j p.constWords) c.segs
    let s5 := modJob s4 q (fun j => { j with tLaunch := if j.tLaunch = 0 then s.now else j.tLaunch })
    if atCopyFill j then count s5 pgLCH 6 else s5

/-- A plan goes on from where it stands: each command takes a record, then its slots, then leaves; the packet retires
after the last. -/
def runPlan : Nat → State → Nat → Plan → State
  | 0, s, _, _ => s
  | n + 1, s, q, p =>
    match p.cmds with
    | [] => retire s q
    | c :: rest =>
      let k := (s.queue q).home
      let ln := s.lane k
      match p.record with
      | none =>
        match (if ln.recWait.isEmpty then freeRec s k else none) with
        | none =>
          let s1 := count (s.setLane k { ln with recWait := ln.recWait ++ [q] }) pgLCH 4
          modJob s1 q (fun j => { j with phase := .recWait p, waitSince := j.waitSince.orElse (fun _ => some s.now) })
        | some r =>
          let s1 := putRec s k r { purpose := .job q, ctx := (s.queue q).owner, layer := 0, operator := 0, pidx := 0,
                                   await := [], held := [], since := s.now }
          let (s2, need) := reserveSlots p.targets s1
          let p1 := { p with record := some r, need := need }
          if need.isEmpty then runPlan n (issueCmd s2 q p1 c r) q { p with record := none, cmds := rest }
          else
            let s3 := if need.any (fun e => (s2.ep e).held) then count s2 pgIMX 4 else s2
            let s4 := count { s3 with slotWait := s3.slotWait ++ [q] } pgLCH 5
            modJob s4 q (fun j => { j with phase := .slotWait p1, waitSince := j.waitSince.orElse (fun _ => some s.now) })
      | some r => runPlan n (issueCmd s q p c r) q { p with record := none, cmds := rest }

/-- A plan from its first command: the packet holds its handles, and the job is open in its layer (R262, log 14). -/
def startPlan (s : State) (q : Nat) (p : Plan) (handles : List Nat) : State :=
  let o := (s.queue q).owner
  let s1 := handles.foldl (fun t i => holdHandle t o i) s
  let s2 := modJob s1 q (fun j => { j with held := j.held ++ handles, epochOpen := true })
  runPlan (2 * p.cmds.length + 1) s2 q { p with handles := handles }

/-! ## LAUNCH (Table 7.6) -/

/-- DESC_WORDS, IMEM_GEN, CONST_WORDS of a launch packet's last word. -/
def launchTail (w : Word) : Nat × Nat × Nat := (fld w 15 0, fld w 31 16, fld w 41 32)

/-- Steps 3 to 5 and on, for a valid descriptor. -/
def launchValid (s : State) (q target : Nat) (es : List Nat) (ws : List Word) (dh : Option Nat) (gen consts : Nat) : State :=
  let c := s.ctx (s.queue q).owner
  let counts := loopCounts ws
  let regs := List.range (descRegs ws)
  if regs.any (fun i => (regionAt ws (regBase ws) i).kind == 0 && !spadOk c counts (regionAt ws (regBase ws) i)) then
    skipPacket s q es ST_SPAD_RANGE
  else match buildRegions c counts (regBase ws) regs { desc := ws, segs := [], handles := [] } with
    | .error st => faultJob s q st
    | .ok b =>
      if 256 < b.segs.length then skipPacket s q es ST_LAUNCH_SEGMENTS
      else
        let (good, bad) := splitDefect s es
        let s1 := match bad with | some e => noteSkip s q e ST_ENGINE_ILLEGAL | none => s
        if good.isEmpty then retire s1 q
        else startPlan s1 q
          { ecmd := if target = 0 then 1 else if target = 1 then 2 else 4, targets := good,
            cmds := [{ desc := b.desc, segs := b.segs }], imemGen := gen, constWords := consts,
            depEp := ((depOf (membersQ s q) (wordAt ws 0)).getD none), depWait := fld (wordAt ws 0) 23 16, record := none,
            need := [], handles := [] } (dh.toList ++ b.handles)

/-- The checks of a decrypting move on its descriptor (R303). -/
def decryptOk (es : List Nat) (ws : List Word) : Bool :=
  let r0 := regionAt ws (regBase ws) 0
  let r1 := regionAt ws (regBase ws) 1
  es.length == 1 && descLoops ws == 0 && descArgs ws == 3 && descRegs ws == 2 && r0.rows == 1 && r1.rows == 1 &&
  r0.kind == 1 && r1.kind == 2 && r0.rowBytes == r1.rowBytes + 16 &&
  fld (wordAt ws (argBase ws)) 62 12 == 0 && fld (wordAt ws (argBase ws + 2)) 63 32 == 0

/-- A context's ACTIVE WEIGHT slot. -/
def weightSlot (s : State) (c k : Nat) : Bool :=
  let x := s.slot k
  x.st == .active && x.weight && x.ctx == c

/-- A decrypting move's measurement in a sealed partition, before step 3 (R303). -/
def measureMove (s : State) (q : Nat) (ws : List Word) (m : MemView) : Except Status State :=
  let c := (s.queue q).owner
  let p := (s.ctx c).part
  let r := regionAt ws (regBase ws) 0
  match resolveMref (s.ctx c) r.a r.b r.rowBytes false with
  | .error st => .error st
  | .ok (va, _) =>
    match vRead s c va r.rowBytes m with
    | .error st => .error st
    | .ok bs => .ok (appendLog s p 3 c 0 0 0 bs.length (sha384 bs))

/-- LAUNCH from its translated rectangle on (steps 2 to 8). -/
def launchFrom (s : State) (q target : Nat) (es : List Nat) (a b : Word) (tail : Word) (m : MemView) : State :=
  let c := (s.queue q).owner
  let (dw, gen, consts) := launchTail tail
  match resolveMref (s.ctx c) a b (8 * dw) false with
  | .error st => faultJob s q st
  | .ok (va, dh) =>
    match vRead s c va (8 * dw) m with
    | .error st => faultJob s q st
    | .ok bytes =>
      let ws := wordsOfBytes bytes
      if !descOk (membersQ s q) ws then skipPacket s q es ST_LAUNCH_DESC
      else if (loopCounts ws).contains 0 then retire (count s pgLCH 3) q
      else if target = 1 ∧ 1 ≤ descArgs ws ∧ bitAt (wordAt ws (argBase ws)) 63 then
        if !decryptOk es ws then skipPacket s q es ST_LAUNCH_DESC
        else if !weightSlot s c (fld (wordAt ws (argBase ws)) 11 0) then skipPacket s q es ST_KEY_ABSENT
        else if isSealed s (s.ctx c).part then
          if !logRoom s (s.ctx c).part 1 then opStatus s q ST_MEASURE_FULL
          else match measureMove s q ws m with
            | .error st => faultJob s q st
            | .ok s1 => launchValid s1 q target es ws dh gen consts
        else launchValid s q target es ws dh gen consts
      else launchValid s q target es ws dh gen consts

/-- LAUNCH and LAUNCH_INDIRECT from the GRID word on. -/
def launchGrid (s : State) (q target : Nat) (grid a b tail : Word) (m : MemView) : State :=
  match rectEps (membersQ s q) target grid with
  | none => faultJob s q ST_GRID_RANGE
  | some [] => retire s q
  | some es => launchFrom s q target es a b tail m

/-- LAUNCH. -/
def execLaunch (qb : BitVec 18) (m : MemView) (s : State) : Result :=
  packetRow s qb.toNat 0x01 noTokens (fun s _ ws =>
    launchGrid (count s pgLCH 0) qb.toNat (flagsOf (hdrOf ws) % 4) (wordAt ws 1) (wordAt ws 2) (wordAt ws 3) (wordAt ws 4) m)

/-- LAUNCH_INDIRECT. -/
def execLaunchIndirect (qb : BitVec 18) (m : MemView) (s : State) : Result :=
  packetRow s qb.toNat 0x02 noTokens (fun s _ ws =>
    let q := qb.toNat
    match readWordOp (count s pgLCH 0) q (wordAt ws 1) (wordAt ws 2) m with
    | .error st => faultJob (count s pgLCH 0) q st
    | .ok g => launchGrid (holdPacket (count s pgLCH 0) q (mrefIdx (wordAt ws 1))) q (flagsOf (hdrOf ws) % 4) g (wordAt ws 3) (wordAt ws 4) (wordAt ws 5) m)

/-! ## COPY and FILL (R185) -/

/-- The first n bytes of a list of segments, and the rest. -/
def takeSegs : List (Nat × Nat × Nat) → Nat → List (Nat × Nat × Nat) × List (Nat × Nat × Nat)
  | [], _ => ([], [])
  | (a, k, l) :: gs, n =>
    if n = 0 then ([], (a, k, l) :: gs)
    else if l ≤ n then let r := takeSegs gs (n - l); ((a, k, l) :: r.1, r.2)
    else ([(a, k, n)], (a + n, k, l - n) :: gs)

/-- Bytes the first 128 segments of a list cover. -/
def span128 (gs : List (Nat × Nat × Nat)) : Nat := ((gs.take 128).map (·.2.2)).sum

/-- The commands of a COPY or FILL: each takes the most its limits allow, 1 GiB and 128 segments in each region. The
regions are given as KIND and segments. -/
def splitCmds : Nat → List (Nat × List (Nat × Nat × Nat)) → List Word → Nat → List Cmd
  | 0, _, _, _ => []
  | f + 1, regs, args, n =>
    if n = 0 then []
    else
      let len := (regs.map (fun r => span128 r.2)).foldl min (min n (2 ^ 30))
      let parts := regs.map (fun r => (r.1, takeSegs r.2 len))
      let heads := parts.foldl (fun (acc : List (Nat × Nat × Nat × Nat) × Nat) p =>
        (acc.1 ++ [(p.1, len, acc.2, p.2.1.length)], acc.2 + p.2.1.length)) ([], 0)
      { desc := builtDesc heads.1 args, segs := parts.flatMap (fun p => p.2.1) } ::
        (if len = 0 then [] else splitCmds f (parts.map (fun p => (p.1, p.2.2))) args (n - len))

/-- COPY or FILL to a copy engine over regions already resolved: KIND, virtual address, handle. -/
def moveRegions (s : State) (q ecmd e size : Nat) (regs : List (Nat × Nat × Option Nat)) (args : List Word) : State :=
  let c := s.ctx (s.queue q).owner
  if size = 0 then retire s q
  else if (s.ep e).unit.st = .defect then skipPacket s q [e] ST_ENGINE_ILLEGAL
  else
    let rs := regs.map (fun r => (r.1, segsOf c r.2.1 size))
    let fuel := (rs.map (fun r => r.2.length)).sum + size / 2 ^ 30 + 1
    startPlan s q { ecmd := ecmd, targets := [e], cmds := splitCmds fuel rs args size, imemGen := 0, constWords := 0, depEp := none,
                    depWait := 0, record := none, need := [], handles := [] } (regs.flatMap (fun r => r.2.2.toList))

/-- COPY. -/
def execCopy (qb : BitVec 18) (s : State) : Result :=
  packetRow s qb.toNat 0x03 noTokens (fun s0 _ ws =>
    let q := qb.toNat
    let s := count s0 pgLCH 0
    let w := wordAt ws 5
    let c := s.ctx (s.queue q).owner
    let n := fld w 47 0
    match copyEp (membersQ s q) (fld w 63 48) with
    | none => faultJob s q ST_GRID_RANGE
    | some e =>
      match resolveMref c (wordAt ws 1) (wordAt ws 2) n false with
      | .error st => faultJob s q st
      | .ok (a, ha) =>
        match resolveMref c (wordAt ws 3) (wordAt ws 4) n true with
        | .error st => faultJob s q st
        | .ok (b, hb) => moveRegions s q 2 e n [(1, a, ha), (2, b, hb)] [])

/-- FILL. -/
def execFill (qb : BitVec 18) (s : State) : Result :=
  packetRow s qb.toNat 0x04 noTokens (fun s0 _ ws =>
    let q := qb.toNat
    let s := count s0 pgLCH 0
    let w := wordAt ws 3
    let n := fld w 47 0
    match copyEp (membersQ s q) (fld w 63 48) with
    | none => faultJob s q ST_GRID_RANGE
    | some e =>
      match resolveMref (s.ctx (s.queue q).owner) (wordAt ws 1) (wordAt ws 2) n true with
      | .error st => faultJob s q st
      | .ok (a, ha) => moveRegions s q 3 e n [(2, a, ha)] [wordAt ws 4])

/-! ## Grants -/

/-- SLOT_GRANT: a slot of an endpoint goes to the oldest waiting launch that names it; the launch issues once it holds
every slot (R187). -/
def execSlotGrant (eb : BitVec 14) (s : State) : Result :=
  let e := eb.toNat
  match s.slotWait.find? (fun q => (needOf s q).contains e) with
  | none => .next s
  | some q =>
    if s.halted || !slotFree s e then .next s
    else match s.job q with
      | none => .next s
      | some j => match j.phase with
        | .slotWait p =>
          let p1 := { p with need := p.need.filter (· != e) }
          let s1 := s.setEp e { s.ep e with reserved := (s.ep e).reserved + 1 }
          if p1.need.isEmpty then
            let s2 := chargeWait { s1 with slotWait := s1.slotWait.filter (· != q) } q
            .next (runPlan (2 * p.cmds.length + 1) (modJob s2 q (fun j => { j with phase := .run })) q p1)
          else .next (modJob s1 q (fun j => { j with phase := .slotWait p1 }))
        | _ => .next s

/-- LAUNCH_RECORD_GRANT: a freed record goes to the launch that has waited longest at step 6 (R186). -/
def execLaunchRecordGrant (kb : BitVec 3) (s : State) : Result :=
  let k := kb.toNat
  let ln := s.lane k
  match ln.recWait with
  | [] => .next s
  | q :: rest =>
    match (if s.halted then none else freeRec s k), s.job q with
    | some _, some j => match j.phase with
      | .recWait p =>
        let s1 := s.setLane k { ln with recWait := [] }
        let s2 := runPlan (2 * p.cmds.length + 1) (chargeWait (modJob s1 q (fun j => { j with phase := .run })) q) q p
        .next (s2.setLane k { s2.lane k with recWait := rest ++ (s2.lane k).recWait })
      | _ => .next (s.setLane k { ln with recWait := rest })
    | some _, none => .next (s.setLane k { ln with recWait := rest })
    | none, _ => .next s

end Sys2Proof.Machine
end

