-- ==== Sys2Proof/Machine/Imem.lean ====
section
/-! DEFINITION. Instruction memories, tile-program containers and Fans (R194 to R204). -/

namespace Sys2Proof.Machine

/-! ## Containers (Table 7.8) -/

/-- A number of a container header at byte offset `o`. -/
def hdrNat (h : List Byte) (o n : Nat) : Nat := leNat ((h.drop o).take n)

/-- The first container check of R195, without the segment table. -/
def headerOk (h : List Byte) (stream : Bool) : Bool :=
  hdrNat h 0 4 == 0x5054474B && hdrNat h 4 2 == 1 && hdrNat h 6 2 == 128 && hdrNat h 8 4 % 32 == 0 &&
  hdrNat h 12 4 == b2n stream && hdrNat h 28 4 == 0 && hdrNat h 40 24 == 0 && hdrNat h 112 16 == 0 &&
  (if stream then hdrNat h 16 4 == 0 && decide (1 ≤ hdrNat h 24 2 ∧ hdrNat h 24 2 ≤ 4096) else hdrNat h 24 2 == 0)

def bodyBytes (h : List Byte) : Nat := hdrNat h 8 4
def imemBytes (h : List Byte) : Nat := hdrNat h 16 4
def segCount (h : List Byte) : Nat := hdrNat h 24 2
def hdrGen (h : List Byte) : Nat := hdrNat h 26 2
def hdrDigest (h : List Byte) : List Byte := (h.drop 64).take 48

/-- What both load packets read first: the container's header, its body's address and the handle of the operand. -/
def readContainer (s : State) (q : Nat) (a b : Word) (m : MemView) : Except Status (List Byte × Nat × Option Nat) :=
  let c := (s.queue q).owner
  match resolveMref (s.ctx c) a b 128 false with
  | .error st => .error st
  | .ok (va, h) =>
    match vRead s c va 128 m with
    | .error st => .error st
    | .ok hd => .ok (hd, va + 128, h)

/-- A context that may load into its partition: in a sealed one it holds an ACTIVE MEMORY key (R301). -/
def mayLoad (s : State) (c : Nat) : Bool := !isSealed s (s.ctx c).part || hasMemKey s c

/-! ## LOAD_IMEM -/

/-- The checks of R195 on a LOAD_IMEM, in order, after the key (R301) and before the log's room (R302). -/
def loadStatus (s : State) (c gen : Nat) (es : List Nat) (h : List Byte) : Status :=
  if !mayLoad s c then ST_KEY_ABSENT
  else if !headerOk h false then ST_CONTAINER_FORMAT
  else if hdrGen h ≠ gen ∨ gen = 0 then ST_CONTAINER_FORMAT
  else if es.any (fun e => decide ((s.ep e).imemKib * 1024 < imemBytes h)) then ST_IMEM_SIZE
  else if isSealed s (s.ctx c).part && !logRoom s (s.ctx c).part 1 then ST_MEASURE_FULL
  else ST_OK

/-- The launch of a queue that waits at step 7 loses the slots it has reserved on newly held targets; it keeps its place, and
counts as held behind the load unless it did already (R187, R198). -/
def holdLaunch (s : State) (q : Nat) (es : List Nat) : State :=
  match s.job q with
  | none => s
  | some j => match j.phase with
    | .slotWait p =>
      let lost := p.targets.filter (fun e => es.contains e && !p.need.contains e)
      let new := p.targets.any es.contains && !(p.need.any (fun e => (s.ep e).held))
      let s1 := lost.foldl (fun t e => t.setEp e { t.ep e with reserved := (t.ep e).reserved - 1 })
                  (if new then count s pgIMX 4 else s)
      modJob s1 q (fun j => { j with phase := .slotWait { p with need := p.need ++ lost } })
    | _ => s

/-- The targets of a load are marked as held (R198 step 1). -/
def holdTargets (s : State) (es : List Nat) : State :=
  es.foldl (fun t e => t.setEp e { t.ep e with held := true }) (s.slotWait.foldl (fun t q => holdLaunch t q es) s)

/-- LOAD_IMEM: the container is checked and the targets are held (R195, R198). -/
def execLoadImem (qb : BitVec 18) (m : MemView) (s : State) : Result :=
  packetRow s qb.toNat 0x06 noTokens (fun s j ws =>
    let q := qb.toNat
    let c := (s.queue q).owner
    match rectEps (membersQ s q) 0 (wordAt ws 1) with
    | none => faultJob s q ST_GRID_RANGE
    | some [] => retire s q
    | some es =>
      match readContainer s q (wordAt ws 2) (wordAt ws 3) m with
      | .error st => faultJob s q st
      | .ok (h, va, hd) =>
        let gen := fld (wordAt ws 4) 15 0
        let st := loadStatus s c gen es h
        if st ≠ ST_OK then opStatus s q st
        else
          let stb := match resolveMref (s.ctx c) (wordAt ws 2) (wordAt ws 3) (128 + bodyBytes h) false with
            | .ok _ => ST_OK
            | .error e => e
          if stb ≠ ST_OK then faultJob s q stb
          else if flagsOf (hdrOf ws) % 2 = 1 ∧ es.any (fun e => (s.ep e).held || !(s.ep e).cmds.isEmpty) then
            opStatus (count s pgIMX 1) q ST_IMEM_BUSY
          else
            let s2 := holdTargets (holdPacket s q hd) es
            let s3 := if es.any (fun e => !(s.ep e).cmds.isEmpty) then count s2 pgIMX 5 else s2
            let l : Load := { q := q, ctx := c, lane := (s.queue q).home, targets := es, generation := gen,
                              segs := segsOf (s.ctx c) va (bodyBytes h), bodyBytes := bodyBytes h, digest := hdrDigest h,
                              layer := hdrNat h 32 4, operator := hdrNat h 36 4 }
            modJob { s3 with loads := s3.loads ++ [l] } q (fun j =>
              { j with phase := .load, epochOpen := true, priorCounted := false }))

/-- The first load all of whose targets have retired their commands and stand behind no earlier load (R198 step 3). -/
def readyLoad (s : State) : List Load → List Nat → Option Load
  | [], _ => none
  | l :: ls, blocked =>
    if l.targets.all (fun e => (s.ep e).cmds.isEmpty && !blocked.contains e) then some l
    else readyLoad s ls (blocked ++ l.targets)

/-- Data beats of a load: one message for each 256 bytes of body (R197). -/
def sendData (lane : Nat) (es : List Nat) : Nat → List Byte → Nat → State → State
  | 0, _, _, s => s
  | n + 1, bs, off, s =>
    match bs with
    | [] => s
    | _ => sendData lane es n (bs.drop 256) (off + 256)
             (sendRuns s lane 1 es (0x02 + off * 2 ^ 32) (wordsOfBytes (padBytes 256 (bs.take 256))))

/-- BEGIN, the DATA messages and END (R197). -/
def sendLoad (s : State) (l : Load) (body : List Byte) (tag : Nat) : State :=
  let s1 := sendRuns s l.lane 1 l.targets (0x01 + l.generation * 2 ^ 16 + l.bodyBytes * 2 ^ 32) []
  let s2 := sendData l.lane l.targets (l.bodyBytes / 256 + 1) body 0 (count s1 pgIMX 6 (hubRuns l.targets).length)
  sendRuns s2 l.lane 1 l.targets (0x03 + tag * 2 ^ 16) []

/-- A load waits for its targets' launch boundary (Table 7.9). -/
def loadWaits (s : State) : List Load → List Nat → Bool
  | [], _ => false
  | l :: ls, blocked =>
    !(l.targets.all (fun e => (s.ep e).cmds.isEmpty && !blocked.contains e)) || loadWaits s ls (blocked ++ l.targets)

/-- IMEM_LOAD_ISSUE: the loader issues a load whose targets have reached their launch boundary: the body is fetched on the
home slice's port, which waits while the port is at its limit (R58) and fails under a key that is revoked (R290); the packet
retires and the targets are released (R197, R198). -/
def execImemLoadIssue (m : MemView) (s : State) : Result :=
  match (if s.halted then none else readyLoad s s.loads []) with
  | none => .next s
  | some l =>
    if !(portRoom s l.lane) then .next s
    else if l.segs.any (fun g => keyStopped s g.2.1) then .next (faultJob s l.q ST_KEY_REVOKED)
    else match readPieces s m l.segs with
    | none => .next (faultJob s l.q ST_MEMORY_ERROR)
    | some body =>
      let p := (s.ctx l.ctx).part
      if isSealed s p && !logRoom s p 1 then .next (opStatus (dropLoads s l.q) l.q ST_MEASURE_FULL)
      else
        let d := sha384 body
        let s0 := count (appendLog (emits s (readsOf s l.lane l.segs)) p 1 l.ctx l.generation l.layer l.operator l.bodyBytes d) pgIMX 7
        let ok := d == l.digest
        let s1 := sendLoad s0 l body (if ok then l.generation else 0)
        let s2 := dropLoads (count s1 pgIMX 3 (l.bodyBytes * l.targets.length)) l.q
        if ok then .next (retire (count s2 pgIMX 0) l.q)
        else .next (opStatus (count s2 pgIMX 2) l.q ST_CONTAINER_DIGEST)

/-! ## FAN_STREAM -/

/-- A stream's segment table (R202): OFFSET, LENGTH, REPEAT of each entry; none where it is not valid. -/
def segTable (body n : Nat) (bs : List Byte) : Option (List (Nat × Nat × Nat)) :=
  let es := (List.range n).map (fun i => (hdrNat bs (16 * i) 4, hdrNat bs (16 * i + 4) 4, hdrNat bs (16 * i + 8) 4, hdrNat bs (16 * i + 12) 4))
  let ok (e : Nat × Nat × Nat × Nat) : Bool :=
    e.1 % 32 == 0 && decide (16 * n ≤ e.1) && e.2.1 % 32 == 0 && decide (32 ≤ e.2.1) && decide (e.1 + e.2.1 ≤ body) &&
    (decide (e.2.2.1 ≤ 1) || decide (e.2.1 ≤ 262144)) && e.2.2.2 == 0
  if es.all ok then some (es.map (fun e => (e.1, e.2.1, e.2.2.1))) else none

/-- The lowest free slot of a Fan's queue. -/
def freeSlot (f : Fan) : Option Nat := (List.range 8).find? (fun i => !f.streams.any (fun x => x.slot == i))

/-- FAN_STREAM waits, for a change of owner or for a slot (R200, R201). -/
def waitFan (s : State) (q : Nat) : State :=
  modJob s q (fun j => { j with phase := .fanWait, waitSince := j.waitSince.orElse (fun _ => some s.now) })

/-- The stream of a checked FAN_STREAM, but for its slot. -/
def streamOf (s : State) (q gen : Nat) (es : List Nat) (h : List Byte) (va : Nat) (segs : List (Nat × Nat × Nat)) : Stream :=
  let c := (s.queue q).owner
  { slot := 0, q := q, ctx := c, lane := (s.queue q).home, targets := es, generation := gen, segTable := segs,
    segs := segsOf (s.ctx c) va (bodyBytes h), bodyBytes := bodyBytes h, digest := hdrDigest h, computed := [],
    layer := hdrNat h 32 4, operator := hdrNat h 36 4, emitted := false }

/-- A stream takes a slot: its group is set in its cores, it is queued, and the packet retires (R201). -/
def queueStream (s : State) (q f slot : Nat) (x : Stream) : State :=
  let s1 := sendRuns s x.lane 2 x.targets (0x04 + (128 * f + slot) * 2 ^ 16 + x.generation * 2 ^ 32) []
  let s2 := wakeSlice (s1.setFan f { s1.fan f with streams := (s1.fan f).streams ++ [{ x with slot := slot }] }) (f / 4)
  retireWith (chargeWait s2 q) q (fun j => { j with epochOpen := true })

/-- A checked stream takes the lowest free slot, or waits for one. -/
def placeStream (s : State) (q f : Nat) (x : Stream) : State :=
  match freeSlot (s.fan f) with
  | some slot => queueStream s q f slot x
  | none => waitFan s q

/-- The checks of a FAN_STREAM on its container (R195, R202, R301, R302): the container's handle and the stream, or the
outcome: a status that loses the context (true) or one that ends the job. -/
def checkStream (s : State) (q gen : Nat) (es : List Nat) (ws : List Word) (m : MemView) :
    Except (Bool × Status) (Option Nat × Stream) :=
  let c := (s.queue q).owner
  if 4096 < es.length then .error (false, ST_FAN_GROUP)
  else match readContainer s q (wordAt ws 2) (wordAt ws 3) m with
  | .error st => .error (true, st)
  | .ok (h, va, hd) =>
    if !mayLoad s c then .error (false, ST_KEY_ABSENT)
    else if !headerOk h true then .error (false, ST_CONTAINER_FORMAT)
    else
      match resolveMref (s.ctx c) (wordAt ws 2) (wordAt ws 3) (128 + bodyBytes h) false with
      | .error st => .error (true, st)
      | .ok _ =>
        if bodyBytes h < 16 * segCount h then .error (false, ST_CONTAINER_FORMAT)
        else match vRead s c va (16 * segCount h) m with
        | .error st => .error (true, st)
        | .ok tb =>
          match segTable (bodyBytes h) (segCount h) tb with
          | none => .error (false, ST_CONTAINER_FORMAT)
          | some segs =>
            if hdrGen h ≠ gen ∨ gen = 0 then .error (false, ST_CONTAINER_FORMAT)
            else if isSealed s (s.ctx c).part && !logRoom s (s.ctx c).part 1 then .error (false, ST_MEASURE_FULL)
            else .ok (hd, streamOf s q gen es h va segs)

/-- FAN_STREAM (R195, R200, R201). A packet that waited for a slot has been checked. -/
def execFanStream (qb : BitVec 18) (m : MemView) (s : State) : Result :=
  packetRow s qb.toNat 0x07 noTokens (fun s j ws =>
    let q := qb.toNat
    let f := fld (wordAt ws 4) 20 16
    let fan := s.fan f
    if fan.changing.isSome then waitFan s q
    else if !fan.valid ∨ fan.part ≠ partQ s q then faultJob (count s pgFAN 6) q ST_FAN_NOT_OWNED
    else match j.fanReady with
    | some x => placeStream s q f x
    | none => match rectEps (membersQ s q) 0 (wordAt ws 1) with
      | none => faultJob s q ST_GRID_RANGE
      | some [] => retire s q
      | some es =>
        match checkStream s q (fld (wordAt ws 4) 15 0) es ws m with
        | .error (true, st) => faultJob s q st
        | .error (false, st) => opStatus s q st
        | .ok (hd, x) =>
          let s1 := modJob (holdPacket s q hd) q (fun j => { j with fanReady := some x })
          placeStream (if (freeSlot fan).isNone then count s1 pgFAN 5 else s1) q f x)

/-- The emissions of a stream after its header beat: each segment REPEAT times (R202). -/
def emissions (body : List Byte) (segs : List (Nat × Nat × Nat)) : List (List Word) :=
  segs.flatMap (fun g => List.replicate g.2.2 (wordsOfBytes ((body.drop g.1).take g.2.1)))

/-- The beats of a list of word groups leave a Fan; the last is marked. -/
def fanOuts (f grp : Nat) : List (List Word) → List Out
  | [] => []
  | [w] => [.fan f grp w true]
  | w :: ws => .fan f grp w false :: fanOuts f grp ws

/-- Beats (32 bytes) of the segments that a test picks, counted as often as `mult` says. -/
def segBeats (segs : List (Nat × Nat × Nat)) (mult : Nat → Nat) : Nat := (segs.map (fun g => g.2.1 / 32 * mult g.2.2)).sum

/-- The bytes of the segments that a body repeats, which the loop buffer takes (R202). -/
def loopBytes (body : List Byte) (segs : List (Nat × Nat × Nat)) : List Byte :=
  (segs.filter (fun g => decide (1 < g.2.2))).flatMap (fun g => (body.drop g.1).take g.2.1)

/-- The last n elements of a list. -/
def lastN {α : Type} (n : Nat) (l : List α) : List α := l.drop (l.length - n)

/-- The port of a Fan's fetch (R43). -/
def fanPort (f : Nat) : Nat := 8 + f % 4

/-- The head stream of a Fan leaves it: its body is fetched with ReadNoSnp, then come the header beat and the segments
(R202, R203). -/
def emitStream (s : State) (f : Nat) (x : Stream) (rest : List Stream) (body : List Byte) : State :=
  let grp := 128 * f + x.slot
  let head := beatWords (x.generation + grp * 2 ^ 16)
  let s1 := emits s (x.segs.map (fun p => .chiRead (fanPort f) p.1 p.2.2 p.2.1 false) ++
                     fanOuts f grp (head :: emissions body x.segTable))
  let loop := segBeats x.segTable (fun r => if 1 < r then r else 0)
  let once := segBeats x.segTable (fun r => if r = 1 then 1 else 0)
  let y := s1.fan f
  let s2 := s1.setFan f { y with streams := { x with emitted := true, computed := sha384 body } :: rest,
                                 bytes := y.bytes + BitVec.ofNat 64 (32 * (1 + loop + once)),
                                 loop := lastN 262144 (y.loop ++ loopBytes body x.segTable) }
  count (count (count s2 pgFAN 1 (x.segTable.filter (fun g => decide (1 < g.2.2))).length) pgFAN 2 loop) pgFAN 3 once

/-- The head stream of a Fan is removed for its context's loss. -/
def loseStream (s : State) (x : Stream) (st : Status) : State :=
  dropStreams (loseContext s x.ctx st none) (fun y => y == x)

/-- FAN_STREAM_EMIT: the group of the head stream is ready. The fetch waits while its port is at its limit (R58), and fails
under a key that is revoked (R290). -/
def execFanStreamEmit (fb : BitVec 5) (m : MemView) (s : State) : Result :=
  let f := fb.toNat
  match (s.fan f).streams with
  | [] => .next s
  | x :: rest =>
    if x.emitted || !(sliceUp s (f / 4)) || !(portRoom s (fanPort f)) then .next s
    else if x.segs.any (fun g => keyStopped s g.2.1) then .next (loseStream s x ST_KEY_REVOKED)
    else match readPieces s m x.segs with
      | none => .next (loseStream s x ST_MEMORY_ERROR)
      | some body => .next (emitStream s f x rest body)

/-- The head stream of a Fan ends: group clear, the slot frees, the digest is judged (R203, R204). -/
def endFanStream (s : State) (f : Nat) (x : Stream) (rest : List Stream) : State :=
  let s1 := groupClear (s.setFan f { s.fan f with streams := rest }) f x
  let s2 := count (appendLog s1 (s1.ctx x.ctx).part 2 x.ctx x.generation x.layer x.operator x.bodyBytes x.computed) pgFAN 0
  let s3 := if x.computed = x.digest then s2 else loseContext s2 x.ctx ST_CONTAINER_DIGEST none
  fanSettle (wakeFan s3 f) f

/-- FAN_STREAM_COMPLETE: the last beat has left. -/
def execFanStreamComplete (fb : BitVec 5) (s : State) : Result :=
  let f := fb.toNat
  match (s.fan f).streams with
  | [] => .next s
  | x :: rest => if x.emitted then .next (endFanStream s f x rest) else .next s

end Sys2Proof.Machine
end

