-- ==== Sys2Proof/Machine/Saddle.lean ====
section
/-! DEFINITION. The Saddle: arming, releases and changes of owner of the barrier channels (R52, R167 to R169). -/

namespace Sys2Proof.Machine

/-- Arming or disarming table writes for a set of cores (Table 7.1). -/
def armWrites (s : State) (lane c : Nat) (es : List Nat) (arm : Bool) : State :=
  count (sendRuns s lane 2 es ((if arm then 0x02 else 0x03) + c * 2 ^ 8) []) pgSAD (if arm then 1 else 2) (hubRuns es).length

/-- The armed cores of a channel after cores are armed for a queue, or disarmed. -/
def armSet (x : Chan) (q step : Nat) (es : List Nat) (arm : Bool) : Chan :=
  let keep := x.armed.filter (fun e => !es.contains e)
  let by' := x.armedBy.filter (fun e => !es.contains e.1)
  if arm then { x with armed := keep ++ es, armedBy := by' ++ es.map (fun e => (e, q, step)) }
  else { x with armed := keep, armedBy := by' }

/-- Jobs that wait at a BARRIER_ARM of a channel go on (R168, R169). -/
def wakeArms (s : State) (c : Nat) : State :=
  s.jobs.foldl (fun t e => match e.2 with
    | some j => match j.phase, curPkt j with
      | .armWait, some ws => if fld (wordAt ws 2) 5 0 = c then modJob t e.1 (fun j => { j with phase := .run }) else t
      | _, _ => t
    | none => t) s

/-- A channel's change of owner ends once nothing is armed and release is 0 (R169 steps 3 and 4); it records the security
owner of its new partition (R281). -/
def chanSettle (s : State) (c : Nat) : State :=
  let x := s.barrier c
  match x.changing with
  | none => s
  | some (v, p) =>
    if x.armed.isEmpty && !x.release then
      let o := ownerAt s x.owner v p
      let s1 := if o = x.owner then s else count s pgNTC 7
      sealGo (wakeArms (count (s1.setBarrier c { x with valid := v, part := p, changing := none, owner := o }) pgSAD 5) c) p
    else s

/-- Disarm cores of a channel for a unit of the spine: on the lane of each run's first hub (R176). -/
def disarmSpine (s : State) (c : Nat) (es : List Nat) : State :=
  let mine := (s.barrier c).armed.filter (fun e => es.contains e)
  if mine.isEmpty then s
  else
    let s1 := count (sendRunsSpine s 2 mine (0x03 + c * 2 ^ 8) []) pgSAD 2 (hubRuns mine).length
    s1.setBarrier c (armSet (s1.barrier c) 0 0 mine false)

/-- A channel's owner changes (R169): its cores are disarmed, and the new owner applies when the channel is quiet. -/
def chanOwner (s : State) (c : Nat) (v : Bool) (p : Nat) : State :=
  let x := s.barrier c
  let s1 := s.setBarrier c { x with changing := some (v, p) }
  chanSettle (disarmSpine s1 c x.armed) c

/-- Every channel disarms a set of cores (R379, Table 10.4 step 2). -/
def disarmAll (s : State) (es : List Nat) : State :=
  s.sad.foldl (fun t e => chanSettle (disarmSpine t e.1 es) e.1) s

/-- A Fan's owner changes once its streams have ended (R200). -/
def fanOwner (s : State) (f : Nat) (v : Bool) (p : Nat) : State :=
  fanSettle (s.setFan f { s.fan f with changing := some (v, p) }) f

/-- BARRIER_ARM (R167, R168). -/
def execBarrierArm (qb : BitVec 18) (s : State) : Result :=
  packetRow s qb.toNat 0x14 noTokens (fun s _ ws =>
    let q := qb.toNat
    let c := fld (wordAt ws 2) 5 0
    let x := s.barrier c
    if x.changing.isSome then modJob s q (fun j => { j with phase := .armWait })
    else if !x.valid ∨ x.part ≠ partQ s q then faultJob (count s pgSAD 4) q ST_BARRIER_CHANNEL
    else match rectEps (membersQ s q) 0 (wordAt ws 1) with
      | none => faultJob s q ST_GRID_RANGE
      | some [] => retire s q
      | some es =>
        if x.release then modJob (count s pgSAD 3) q (fun j => { j with phase := .armWait })
        else
          let arm := flagsOf (hdrOf ws) % 2 = 0
          let s1 := armWrites s (s.queue q).home c es arm
          let s2 := s1.setBarrier c (armSet (s1.barrier c) q (s1.queue q).step es arm)
          retireWith s2 q (fun j => { j with epochOpen := true }))

/-- BARRIER_RELEASE_RAISE: the synchronised sad_all bit rises; release follows while a core is armed (R52, R168). -/
def execBarrierReleaseRaise (cb : BitVec 6) (s : State) : Result :=
  let c := cb.toNat
  let x := s.barrier c
  .next (s.setBarrier c { x with all := true, any := x.any || !x.armed.isEmpty, release := x.release || !x.armed.isEmpty })

/-- BARRIER_RELEASE_LOWER: the synchronised sad_any bit falls; release falls and an episode has completed. -/
def execBarrierReleaseLower (cb : BitVec 6) (s : State) : Result :=
  let c := cb.toNat
  let x := s.barrier c
  if x.release then
    let s1 := s.setBarrier c { x with all := false, any := false, release := false, episodes := x.episodes + 1 }
    .next (chanSettle (wakeArms (count s1 pgSAD 0) c) c)
  else .next (s.setBarrier c { x with all := false, any := false })

end Sys2Proof.Machine
end

