-- ==== Sys2Proof/Machine/Capability.lean ====
section
/-! DEFINITION. The capability and topology table (R90 to R93), unit states and the defect list (R374, R376), and clearing
at a change of owner (R307, Table 11.15). -/

namespace Sys2Proof.Machine

/-! ## Sections (Table 3.14) -/

/-- ID_VERSION (Table 16.9): block version 4.1 and the patch level. -/
def idVersion : W32 := BitVec.ofNat 32 (0x04 * 2 ^ 24 + 0x01 * 2 ^ 16 + Config.idPatch.toNat)

/-- The number of a unit state (Table 14.13). -/
def unitStateNo : UnitState → Nat
  | .healthy => 0
  | .suspect => 1
  | .defect => 2
  | .fused => 3

/-- An entry of n bytes (log 15). -/
def capItem (sec n : Nat) (fields : List Nat) : List Byte := (List.range n).map (Config.capEntry sec fields)

/-- The fuse words that were read. -/
def fuseWords (s : State) : List Nat := (List.range 1024).map (fun i => (tget 0 s.swb.fuses i).toNat)

/-- The units of a kind that exist, and the hubs and channels that are not fused off. -/
def existing (s : State) (kind : Nat) : Nat := (s.eps.filter (fun e => e.2.exist && e.2.kind == kind)).length

/-- Table 1.5 as present on this die: queues, contexts, partitions, sync IDs, key slots, dispatch processors, packets and
launches in millions a second, lanes, Fans, cores of a Fan, its bytes a cycle, the replay and fetch rates in 0.1 GB/s, fetch
ports, barrier channels and their cores, the endpoints of each kind, hubs, the largest instruction memory in KiB, channels,
their memory in granules, their bandwidth in GB/s, register-window and doorbell bytes, doorbell pages. -/
def capacities (s : State) : List Nat :=
  let chans := s.chans.filter (fun c => decide (c.2.unit.st ≠ .fused))
  [262144, 16384, 256, 16777216, 4096, 64, 512, 128, 8, 32, 4096, 32, 16000, 4096, 4, 64, 8192] ++
  [existing s 0, existing s 1, existing s 2, (s.hubs.filter (fun h => decide (h.2.unit.st ≠ .fused))).length,
   (s.eps.map (fun e => if e.2.exist then e.2.imemKib else 0)).foldl max 0, chans.length, (chans.map (·.2.granules)).sum,
   (chans.map (·.2.gbps)).sum] ++
  [1048576, 16777216, 4096]

/-- The mark of an entry of a section that belongs to no partition's view. -/
def wholeEntry : Nat := 256

/-- Section 0x0002: existing endpoints, with their partitions. -/
def secEndpoints (s : State) : List (Nat × List Byte) :=
  (s.eps.filter (fun e => e.2.exist)).map (fun e =>
    (e.2.part, capItem 2 8 [e.1, e.2.kind, e.1 / 32, unitStateNo e.2.unit.st, e.2.mhz, e.2.imemKib, e.2.part]))

def secHubs (s : State) : List (Nat × List Byte) :=
  (s.hubs.filter (fun h => decide (h.2.unit.st ≠ .fused))).map (fun h =>
    (wholeEntry, capItem 3 4 [h.1, (s.eps.filter (fun e => e.2.exist && e.1 / 32 == h.1)).length, Config.clusterId h.1,
                              unitStateNo h.2.unit.st]))

def secChannels (s : State) : List (Nat × List Byte) :=
  (s.chans.filter (fun c => decide (c.2.unit.st ≠ .fused))).map (fun c =>
    (c.2.part, capItem 4 16 [c.2.granules / 16384, c.2.gbps, c.2.state, c.2.part]))

def secLinks (s : State) : List (Nat × List Byte) :=
  (s.eps.filter (fun e => e.2.exist && e.2.kind == 2)).map (fun e =>
    (e.2.part, capItem 5 8 [e.1, e.2.peer, e.2.linkState, e.2.part]))

/-- Section 0x0006: every one of the thirteen formats (R231). -/
def secFormats : List Byte := leBytes 2 0x1FFF

def secDigests (s : State) : List Byte :=
  (List.range 8).flatMap (fun k => padBytes 48 (s.slice k).fwDigest) ++ padBytes 48 (s.slice 0).libDigest

/-- A partition that holds a unit. -/
def partUsed (p : Part) : Bool := decide (boundCount p.active ≠ 0) || !p.active.chans.isEmpty

def secParts (s : State) : List (Nat × List Byte) :=
  (s.parts.filter (fun p => decide (p.1 ≠ 255) && partUsed p.2)).map (fun p =>
    let m := p.2.active
    (p.1, capItem 8 32 [m.cores.length, m.copies.length, m.links.length, m.chans.length, gridW m, gridH m, p.2.mhz,
                        p.2.activeGen.toNat]))

/-- The nine sections in type order, each as its entries with the partition an entry belongs to. -/
def capSections (s : State) : List (List (Nat × List Byte)) :=
  [[(wholeEntry, Config.capBytes 1 (capacities s))], secEndpoints s, secHubs s, secChannels s, secLinks s,
   [(wholeEntry, secFormats)], [(wholeEntry, secDigests s)], secParts s, [(wholeEntry, Config.capBytes 9 (fuseWords s))]]

/-- A section's bytes, all of them or those of one partition's entries. -/
def sectionBytes (x : List (Nat × List Byte)) (view : Option Nat) : List Byte :=
  (x.filter (fun e => match view with | none => true | some p => e.1 == wholeEntry || e.1 == p)).flatMap (·.2)

/-- A section of the table as its latest stable generation has it (R93). -/
def capSection (s : State) (t : Nat) (view : Option Nat) : List Byte := sectionBytes (s.capTab.getD (t - 1) []) view

/-- The directory entries and bodies of the nine sections, from an offset on. Each section's version is 1 (log 15). -/
def capDir : List (List (Nat × List Byte)) → Nat → Nat → List Byte × List Byte
  | [], _, _ => ([], [])
  | x :: xs, t, off =>
    let b := sectionBytes x none
    let r := capDir xs (t + 1) (off + b.length)
    (leBytes 2 t ++ leBytes 2 1 ++ leBytes 4 off ++ leBytes 4 b.length ++ zeroBytes 4 ++ r.1, b ++ r.2)

/-- The whole table at a generation (R91, Table 3.13). -/
def capTable (s : State) (gen : Nat) : List Byte :=
  let d := capDir (capSections s) 1 (64 + 9 * 16)
  leBytes 4 0x5443474B ++ leBytes 2 4 ++ leBytes 2 64 ++ leBytes 4 gen ++ leBytes 4 (64 + 9 * 16 + d.2.length) ++
  leBytes 4 idVersion.toNat ++ leBytes 2 9 ++ zeroBytes 2 ++ leBytes 8 s.now ++ zeroBytes 32 ++ d.1 ++ d.2

/-- A write to the table's region, which is host-visible and unencrypted (R90). -/
def capWrite (a : Nat) (bs : List Byte) : Out := .chiWrite (portSpine a) a 0 true bs

/-- The table is written (R90, R91): GEN odd, the header's other fields and the body, GEN even. -/
def writeCap (s : State) : State :=
  let a := s.captbl.toNat
  let g := s.captblGen.toNat
  let odd := g + 1 + g % 2
  let t := capTable s (odd + 1)
  let s1 := { s with captblGen := BitVec.ofNat 32 (odd + 1), capTab := capSections s }
  if writeFails s a t.length then setErr s1 pgOBJ 29 a
  else emits s1 [capWrite (a + 8) (leBytes 4 odd), capWrite a (t.take 8), capWrite (a + 12) (t.drop 12),
                 capWrite (a + 8) (leBytes 4 (odd + 1))]

/-- The rewrite of the table (R91). Before stage 7 has written it there is none. -/
def rewriteCap (s : State) : State := if s.capTab.isEmpty then s else writeCap s

/-- The end of stage 7 writes the table to its region (R90). -/
def placeCap (s : State) (base : Nat) : State := writeCap { s with captbl := BitVec.ofNat 64 base }

/-! ## Unit states (R374, R376) -/

/-- The number of a unit kind (R374). -/
def kindNo : UnitKind → Nat
  | .endpoint => 0
  | .hub => 1
  | .channel => 2
  | .link => 3

/-- The link endpoints by index, in endpoint order (log 23). -/
def linkEps (s : State) : List Nat := (s.eps.filter (fun e => e.2.kind == 2)).map (·.1)
def linkEp (s : State) (l : Nat) : Option Nat := (linkEps s)[l]?
def linkNo (s : State) (e : Nat) : Nat := (linkEps s).idxOf e

/-- The ID a unit has in its kind (R374): a link's is its index. -/
def unitId (s : State) (k : UnitKind) (u : Nat) : Nat := if k = .link then linkNo s u else u

/-- Append a record to the defect list, at the first erased position (R374). -/
def appendDefect (s : State) (clear : Bool) (k : UnitKind) (u stage cause : Nat) : State :=
  if 4096 ≤ s.swb.defectAt then setErr s pgSWB 0 u
  else
    let body := [BitVec.ofNat 8 (if clear then 2 else 1), BitVec.ofNat 8 (kindNo k)] ++ leBytes 2 u ++
                [BitVec.ofNat 8 stage, BitVec.ofNat 8 cause, 0, 0] ++ leBytes 4 s.swb.bootCount.toNat
    let s1 := { s with swb := { s.swb with defects := s.swb.defects ++ [(!clear, kindNo k, u, stage, cause)],
                                           defectAt := s.swb.defectAt + 1 } }
    emit s1 (.spiStore (s.swb.defectFlash + 16 * s.swb.defectAt) (body ++ leBytes 4 (crc32c body).toNat))

/-- The partition a unit is bound to: 255 for none. -/
def unitPart (s : State) (k : UnitKind) (u : Nat) : Nat :=
  match k with
  | .endpoint => (s.ep u).part
  | .link => (s.ep u).part
  | .channel => (s.chan u).part
  | .hub => match s.eps.find? (fun e => e.1 / 32 == u && e.2.part != 255) with
    | some e => e.2.part
    | none => 255

/-- A unit changes state: the table is rewritten (R91). -/
def setUnitState (s : State) (k : UnitKind) (u : Nat) (st : UnitState) (cause : Nat) : State :=
  let r := unitOf s k u
  rewriteCap (setUnit s k u { r with st := st, cause := cause, karPending := false })

/-- A unit in service fails: DEFECT, with a record (Table 14.7). -/
def setDefect (s : State) (k : UnitKind) (u cause : Nat) : State :=
  let r := unitOf s k u
  if r.st = .healthy ∨ r.st = .suspect then
    let s1 := count (setUnitState s k u .defect cause) pgSWB 3
    rewriteCap (appendDefect s1 false k (unitId s k u) 0xFF cause)
  else s

/-- A disagreement makes a HEALTHY unit SUSPECT; a known-answer run is owed (R392). `restage` says that a table write
caused it (R265). -/
def setSuspect (s : State) (k : UnitKind) (u cause : Nat) (restage : Bool) : State :=
  let r := unitOf s k u
  match r.st with
  | .healthy =>
    let s1 := count (setUnitState s k u .suspect cause) pgSWB 2
    setUnit s1 k u { unitOf s1 k u with karPending := true, restage := restage }
  | _ => s

/-- The status class used as the cause of a unit's state (R374). -/
def classOf (st : Status) : Nat := st.toNat / 256

/-! ## Clearing at a change of owner (R307) -/

/-- The engine-queue clear of a partition's endpoints, all contexts; compute cores also lose scratchpad and instruction
memory. Their rings empty and they take their new owner. -/
def clearUnits (s : State) (p : Nat) (es : List Nat) (owner : List Byte) : State :=
  let s1 := disarmAll s es
  let comp := es.filter (fun e => (s.ep e).kind == 0)
  let rest := es.filter (fun e => (s.ep e).kind != 0)
  let s2 := sendTagged s1 3 comp 0x03 [clearWord true true true wholeSpad.1 wholeSpad.2] true (.owner p) noCtx
  let s3 := sendTagged (count s2 pgNTC 7 es.length) 3 rest 0x03 [clearWord true false false 0 0] true (.owner p) noCtx
  es.foldl (fun t e => t.setEp e { t.ep e with ring := [], lost := 0, unit := { (t.ep e).unit with owner := owner } }) s3

/-- A partition's units, barrier channels and Fans take a new owner (R299, R307): the endpoints are cleared, the channels
run R169 and the Fans R200. -/
def changeOwner (s : State) (p : Nat) (owner : List Byte) : State :=
  let m := (s.part p).active
  let s1 := clearUnits s p (memberEps m) owner
  let s2 := m.chans.foldl (fun t c => t.setChan c.2 { t.chan c.2 with unit := { (t.chan c.2).unit with owner := owner } })
              (count s1 pgNTC 7 m.chans.length)
  let s3 := (s.sad.filter (fun e => e.2.valid && e.2.part == p)).foldl (fun t e => chanOwner t e.1 true p) s2
  (s.fans.filter (fun e => e.2.valid && e.2.part == p)).foldl (fun t e => fanOwner t e.1 true p) s3

/-- A partition's seal ends (R299). -/
def endSeal (s : State) (p : Nat) : State :=
  changeOwner (s.setPart p { s.part p with sealed := none, log := [], chain := [] }) p []

end Sys2Proof.Machine
end

