-- ==== Sys2Proof/Machine/Lifecycle.lean ====
section
/-! DEFINITION. The lives of contexts and queues after their first packet: teardown and removal (R85 to R87, Table 11.15),
QUEUE_CREATE and its release (R101), waits for zeroing (R81), upstream requests (R193), QUERY (R93). -/

namespace Sys2Proof.Machine

/-! ## Teardown -/

/-- Every queue of a context is idle (R119). -/
def queuesIdle (s : State) (c : Nat) : Bool :=
  s.queues.all (fun e => e.2.owner != c || decide (e.2.st = .free) || !e.2.fetched)

/-- A context's work on this die has ended: its queues are idle and no endpoint holds its commands. -/
def workDone (s : State) (c : Nat) : Bool :=
  queuesIdle s c && s.eps.all (fun e => e.2.cmds.all (fun x => x.2 != c))

/-- The CONTEXT_ABORTs of other dies for a context whose work here has ended are answered (R87). -/
def answerAborts (s : State) (c : Nat) : State :=
  if workDone s c then
    let mine := s.per.abortFrom.filter (fun a => a.2 == c)
    let s1 := { s with per := { s.per with abortFrom := s.per.abortFrom.filter (fun a => a.2 != c) } }
    let s2 := if mine.isEmpty then s1 else
      if (s1.ctx c).st = .active ∨ (s1.ctx c).st = .lost then s1.setCtx c { s1.ctx c with aborting := false } else s1
    mine.foldl (fun t a => sendPeer t a.1 (abortBeat 0x11 c)) s2
  else s

/-- The endpoints of a context's partition on this die. -/
def ctxEps (s : State) (c : Nat) : List Nat := (memberEps (s.part (s.ctx c).part).active).filter (fun e => (s.ep e).exist)

/-- Every key slot of a context is FREE. -/
def slotsFree (s : State) (c : Nat) : Bool := s.ntc.slots.all (fun e => e.2.ctx != c || decide (e.2.st = .free))

/-- A REMOVING context whose slots have drained: the engine-queue clear of the context to every endpoint of its partition
(R308). -/
def startClear (s : State) (c : Nat) : State :=
  let x := s.ctx c
  if x.st = .removing ∧ !x.cleared ∧ slotsFree s c then
    let es := ctxEps s c
    let s1 := s.setCtx c { x with cleared := true, clearTags := es.length }
    let b0 := 0x03 + c * 2 ^ 32
    let s2 := sendTagged s1 3 (es.filter (fun e => (s.ep e).kind == 0)) b0 [clearWord false true false x.spadBase x.spadSize] true
                (.clear c) c
    sendTagged s2 3 (es.filter (fun e => (s.ep e).kind != 0)) b0 [clearWord false false false 0 0] true (.clear c) c
  else s

/-- A context enters REMOVING: its CONTEXT_DESTROY completes, its keys drain (Table 3.3, R290). -/
def startRemoval (s : State) (c : Nat) : State :=
  let x := s.ctx c
  let s1 := s.setCtx c { x with st := .removing, destroyedBy := none }
  let s2 : State := match x.destroyedBy with
    | some q => match s1.job q with
      | some j => if j.phase = Phase.destroyWait c then retire s1 q else s1
      | none => s1
    | none => s1
  let mine := (s2.ntc.slots.filter (fun e => e.2.ctx == c && decide (e.2.st = .active))).map (·.1)
  startClear (mine.foldl drainSlot s2) c

/-- TEARDOWN_COMPLETE: a context in TEARDOWN with INFLIGHT 0, idle queues and every ABORT_DONE enters REMOVING; an abort
that another die asked for is answered once the work here has ended. -/
def execTeardownComplete (cb : BitVec 14) (s : State) : Result :=
  let c := cb.toNat
  let s1 := answerAborts s c
  let x := s1.ctx c
  if x.st = .teardown ∧ inflightOf s1 c = 0 ∧ queuesIdle s1 c ∧ x.peerAborts = [] then .next (startRemoval s1 c)
  else .next s1

/-- Entries of a context in the event rings read 0 (Table 11.15). -/
def clearRings (s : State) (c : Nat) : State :=
  { s with eps := s.eps.map (fun e =>
      (e.1, { e.2 with ring := e.2.ring.map (fun v => if bitsN v.toNat 29 16 = c then 0 else v) })) }

/-- Queues of a context return to FREE (Table 4.9). -/
def freeQueues (s : State) (c : Nat) : State :=
  s.queues.foldl (fun t e => if e.2.owner = c ∧ e.2.st ≠ .free then count (t.setQueue e.1 Queue.reset) pgSTP 1 else t) s

/-- The granules of a context: mapped pages, tables, graph versions. -/
def ctxGranules (s : State) (c : Nat) : List Nat :=
  let x := s.ctx c
  let areas := (s.graphs.filter (fun g => g.1 / 2 ^ 24 == c)).flatMap (fun g => match g.2 with
    | some r => r.slots.flatMap (·.grans)
    | none => [])
  x.pages.map (fun e => e.2.gran) ++ x.tables ++ areas

/-- The record of a REMOVING context is zeroed and all it held is released; a partition left without contexts unseals
(R87, R299, Table 11.15). -/
def removeContext (s : State) (c : Nat) : State :=
  let x := s.ctx c
  let gs := ctxGranules s c
  let s1 := dropStreams s (fun y => y.ctx == c)
  let s2 := clearRings { s1 with wsh := { s1.wsh with syncCache := s1.wsh.syncCache.filter (fun e => e.1 / 2 ^ 24 != c) },
                                 graphs := s1.graphs.filter (fun g => g.1 / 2 ^ 24 != c),
                                 loe := { s1.loe with watches := s1.loe.watches.filter (fun w => w.ctx != c) } } c
  let s3 := if s2.loe.trace.owner = some (TraceOwner.tenant c) then endTrace s2 else s2
  let s4 := (freeQueues s3 c).setCtx c Context.reset
  let moved := (x.pages.filter (fun e => match chanOf s e.2.gran with | some m => (s.part x.part).migNow.contains m | none => false)).length
  let s5 := count (toZeroing (count s4 pgXLT 6 x.pages.length) x.part gs) pgSCH 4 moved
  if isSealed s5 x.part && s5.ctxs.all (fun e => e.2.part != x.part || decide (e.2.st = .free)) then endSeal s5 x.part else s5

/-- CONTEXT_REMOVAL_COMPLETE: the drain and every clear have ended. -/
def execContextRemovalComplete (cb : BitVec 14) (s : State) : Result :=
  let c := cb.toNat
  let x := s.ctx c
  if x.st = .removing ∧ x.cleared ∧ x.clearTags = 0 ∧ slotsFree s c then .next (removeContext s c) else .next s

/-! ## Aborts between dies (R87) -/

/-- CONTEXT_ABORT: Table 3.8 for the context's work on this die. -/
def execContextAbort (die : BitVec 16) (beat : BitVec 256) (s : State) : Result :=
  .next (peerIn s die.toNat beat 0x10 (0xFF + mask 47 34) (fun s b =>
    let c := bitsN b 47 34
    let s1 := { s with per := { s.per with abortFrom := s.per.abortFrom ++ [(die.toNat, c)] } }
    let x := s1.ctx c
    let s2 := if x.st = .free then s1 else s1.setCtx c { x with aborting := true }
    answerAborts (abortWork (disableQueues s2 c) c) c))

/-- ABORT_DONE: another die has ended its part. -/
def execAbortDone (die : BitVec 16) (beat : BitVec 256) (s : State) : Result :=
  .next (peerIn s die.toNat beat 0x11 (0xFF + mask 47 34) (fun s b =>
    let c := bitsN b 47 34
    let x := s.ctx c
    s.setCtx c { x with peerAborts := x.peerAborts.erase die.toNat }))

/-! ## QUEUE_CREATE (R101, R145) -/

/-- The fields of QUEUE_CREATE's first word. -/
structure QFields where
  queue : Nat
  cls : Nat
  owner : Nat
  log2 : Nat
  poll : Nat
  home : Nat
  warm : Bool
  crc : Bool
  ntfEn : Bool
  ntfTarget : Nat

def qFields (w : Word) : QFields :=
  { queue := fld w 17 0, cls := fld w 19 18, owner := fld w 33 20, log2 := fld w 37 34, poll := fld w 42 38, home := fld w 46 43,
    warm := bitAt w 47, crc := bitAt w 48, ntfEn := bitAt w 49, ntfTarget := fld w 61 50 }

/-- The units a poll interval charges (R114). -/
def pollCharge (n : Nat) : Nat := if n = 0 then 0 else 2 ^ (21 - n)

/-- LOAD: the charge of every queue not FREE. -/
def pollLoad (s : State) : Nat := (s.queues.map (fun e => if e.2.st = .free then 0 else pollCharge e.2.poll)).sum

/-- A range lies in mapped pages with WRITE. -/
def rangeWritable (c : Context) (va n : Nat) : Bool := checkRange c va n true == ST_OK

/-- The parameters of a queue pass R101, but for the poll budget. -/
def queueParamsOk (s : State) (f : QFields) (ring idx : Nat) : Bool :=
  let x := s.ctx f.owner
  !(decide (ring % 4096 ≠ 0 ∨ idx % 64 ≠ 0 ∨ 2 ≤ f.cls ∨ 9 ≤ f.home ∨ f.log2 < 4 ∨ 16 < f.log2 ∨ 21 < f.poll ∨
            (f.cls = 0 ∧ f.owner = 0) ∨ (f.cls = 1 ∧ f.owner ≠ 0) ∨ x.st ≠ .active)) &&
  rangeWritable x ring (64 * 2 ^ f.log2) && rangeWritable x idx 64 &&
  !(decide (idx < ring + 64 * 2 ^ f.log2 ∧ ring < idx + 64))

/-- The outcome of a QUEUE_CREATE's checks, in R101's order. -/
def createStatus (s : State) (f : QFields) (ring idx : Nat) : Status :=
  if f.queue = 0 ∨ f.queue = secQ ∨ (s.queue f.queue).st ≠ .free then ST_QUEUE_BUSY
  else if !(queueParamsOk s f ring idx) then ST_QUEUE_PARAM
  else if 2 ^ 34 < pollLoad s + pollCharge f.poll then ST_POLL_BUDGET
  else ST_OK

/-- Queues not FREE on a slice. -/
def homeLoad (s : State) (k : Nat) : Nat := (s.queues.filter (fun e => decide (e.2.st ≠ .free) && e.2.home == k)).length

/-- The home slice (R98). -/
def homeFor (s : State) (h : Nat) : Nat :=
  if h < 8 then h
  else (List.range 8).foldl (fun b k => if homeLoad s k < homeLoad s b then k else b) 0

/-- A new queue record, DISABLED. -/
def queueRecord (f : QFields) (home ring idx : Nat) : Queue :=
  { Queue.reset with ringBase := ring / 4096, log2 := f.log2, idxLine := idx / 64, owner := f.owner, cls := f.cls, st := .disabled,
                     home := home, poll := f.poll, warm := f.warm, crc := f.crc, ntfEn := f.ntfEn, ntfTarget := f.ntfTarget }

/-- The packet a job stands at has a flag. -/
def pktFlag (s : State) (q i : Nat) : Bool :=
  match s.job q with
  | some j => match curPkt j with | some ws => (flagsOf (hdrOf ws)).testBit i | none => false
  | none => false

/-- A refused QUEUE_CREATE is counted. -/
def refuseQueue (s : State) (q : Nat) (st : Status) : State :=
  let s1 := count s pgSTP 6
  opStatus (if st = ST_POLL_BUDGET then count s1 pgDBL 6 else s1) q st

/-- QUEUE_CREATE; `ok` is the outcome of the CI = 0 write to the index line. -/
def execQueueCreate (qb : BitVec 18) (ok : Bool) (s : State) : Result :=
  if pktFlag s qb.toNat 0 then .next s
  else packetRow s qb.toNat 0x82 noTokens (fun s _ ws =>
    let q := qb.toNat
    let f := qFields (wordAt ws 1)
    let ring := (wordAt ws 2).toNat
    let idx := (wordAt ws 3).toNat
    let st := createStatus s f ring idx
    if st ≠ ST_OK then refuseQueue s q st
    else
      let home := homeFor s f.home
      match vWrite s home f.owner (idx + 8) (zeroBytes 8) with
      | .error _ => refuseQueue s q ST_MEMORY_ERROR
      | .ok s1 =>
        if !ok then refuseQueue s1 q ST_MEMORY_ERROR
        else
          let s2 := count (s1.setQueue f.queue (queueRecord f home ring idx)) pgSTP 0
          let s3 := if (flagsOf (hdrOf ws)).testBit 1 then queueEnable s2 f.queue else s2
          retire s3 q)

/-- QUEUE_CREATE with RELEASE. -/
def execQueueRelease (qb : BitVec 18) (s : State) : Result :=
  if !pktFlag s qb.toNat 0 then .next s
  else packetRow s qb.toNat 0x82 noTokens (fun s _ ws =>
    let q := qb.toNat
    let n := fld (wordAt ws 1) 17 0
    let r := s.queue n
    if n = 0 ∨ n = secQ ∨ r.st = .enabled ∨ r.st = .disabling then refuseQueue s q ST_QUEUE_BUSY
    else if fld (wordAt ws 1) 63 18 ≠ 0 ∨ wordAt ws 2 ≠ 0 ∨ wordAt ws 3 ≠ 0 ∨ (flagsOf (hdrOf ws)).testBit 1 then
      refuseQueue s q ST_QUEUE_PARAM
    else if r.st = .free then retire s q
    else retire (count ({ s with loe := { s.loe with watches := s.loe.watches.filter (fun w => w.q != n) } }.setQueue n Queue.reset)
                  pgSTP 1) q)

/-! ## Upstream requests (R193) -/

/-- An answer that refuses: nothing changes but ERR_STATUS bit 4. -/
def refuseUp (s : State) (e tag : Nat) : State := setErr (answerUp s e tag (resultBlock 0 ST_UPSTREAM_BUSY 0)) pgECP 4 e

/-- A well-formed ALLOC or FREE request. -/
def upFormat (b0 b1 : Nat) (op : Nat) : Bool :=
  if op = 1 then b0 % 256 == 1 && bitsN b0 15 8 == 0 && bitsN b0 63 35 == 0 && bitsN b1 127 64 == 0
  else b0 % 256 == 2 && bitsN b0 15 8 == 0 && bitsN b0 63 32 == 0 && bitsN b0 127 96 == 0

/-- The status with which a context that is not ACTIVE answers (R70, R85). -/
def upDenied (x : Context) : Option Status :=
  match x.st with
  | .active => none
  | .lost => some ST_CONTEXT_LOST
  | _ => some ST_ABORTED

/-- An upstream ALLOC allocates for its context, waits for zeroing, or answers its failure (R81). -/
def serveAlloc (s : State) (e tag c size hint attr : Nat) : State :=
  match upDenied (s.ctx c) with
  | some st => endUp s e tag (resultBlock 0 st 0)
  | none =>
    match allocObject s c size hint attr with
    | .fail st => endUp (count s pgOBJ 1) e tag (resultBlock 0 st 0)
    | .wait => { s with allocWait := s.allocWait ++ [.upstream e tag c size hint attr] }
    | .done t h va => endUp t e tag (resultBlock h ST_OK va)

/-- An upstream request from an endpoint: discarded with no context, refused at the fifth or malformed, else served. -/
def upstream (s : State) (e b0 b1 op : Nat) (f : State → Nat → Nat → State) : State :=
  let tag := bitsN b0 31 16
  match epCtx s e with
  | none => setErr s pgECP 2 e
  | some c =>
    if 4 ≤ (s.ep e).upstream ∨ !(upFormat b0 b1 op) then refuseUp s e tag
    else f (s.setEp e { s.ep e with upstream := (s.ep e).upstream + 1 }) c tag

/-- An ALLOC that reaches the spine. -/
def upAlloc (s : State) (e b0 b1 : Nat) : State :=
  upstream s e b0 b1 1 (fun s c tag => serveAlloc s e tag c (bitsN b0 127 64) (bitsN b1 63 0) (bitsN b0 34 32))

/-- A FREE that reaches the spine: a stale or invalid handle loses the context; in abort mode the answer waits for the
release (R83). -/
def upFree (s : State) (e b0 : Nat) : State :=
  upstream s e b0 0 2 (fun s c tag =>
    match upDenied (s.ctx c) with
    | some st => endUp s e tag (resultBlock 0 st 0)
    | none =>
      match freeObject s c (bitsN b0 95 64) with
      | .error st => loseContext (countXlt (endUp s e tag (resultBlock 0 st 0)) st) c st none
      | .ok (t, i) =>
        if (t.ctx c).abortMode && (handleAt (t.ctx c) i).releasing then
          resumeFrees { t with freeWait := t.freeWait ++ [(e, tag, c, i)] }
        else resumeFrees (count (endUp t e tag (resultBlock 0 ST_OK 0)) pgOBJ 2))

/-- An unknown OP or a reserved bit that is not 0 (R193); with no context R175 discards it. A well-formed request is not
this one. -/
def upOther (s : State) (e b0 b1 : Nat) : State :=
  if upFormat b0 b1 1 ∨ upFormat b0 b1 2 then s
  else match epCtx s e with
    | none => setErr s pgECP 2 e
    | some _ => refuseUp s e (bitsN b0 31 16)

/-- An upstream request that reaches the spine. -/
def upstreamIn (s : State) (k : UpKind) (e b0 b1 : Nat) : State :=
  match k with
  | .alloc => upAlloc s e b0 b1
  | .free => upFree s e b0
  | .other => upOther s e b0 b1

/-- An upstream request: a sleeping spine wakes for it (R15). -/
def upstreamEvent (s : State) (k : UpKind) (e b0 b1 : Nat) : State :=
  spineEvent s (.upstream k e b0 b1) (fun s => upstreamIn s k e b0 b1)

/-- UPSTREAM_ALLOC. -/
def execUpstreamAlloc (eb : BitVec 14) (b0 b1 : BitVec 128) (s : State) : Result :=
  .next (upstreamEvent s .alloc eb.toNat b0.toNat b1.toNat)

/-- UPSTREAM_FREE. -/
def execUpstreamFree (eb : BitVec 14) (b0 : BitVec 128) (s : State) : Result :=
  .next (upstreamEvent s .free eb.toNat b0.toNat 0)

/-- UNKNOWN_UPSTREAM_REQUEST. -/
def execUnknownUpstreamRequest (eb : BitVec 14) (b0 b1 : BitVec 128) (s : State) : Result :=
  .next (upstreamEvent s .other eb.toNat b0.toNat b1.toNat)

/-! ## Waits for zeroing (R81) -/

/-- The packet of a waiting job runs again: ALLOC and CONTEXT_CREATE at once; GRAPH_PATCH and a routine when their row
comes. -/
def resumePacket (s : State) (q : Nat) : State :=
  match s.job q with
  | none => s
  | some j =>
    match j.phase, curPkt j with
    | .allocWait, some ws =>
      let s1 := modJob s q (fun j => { j with phase := .run })
      if opOf (hdrOf ws) = 0x50 then allocPacket s1 q ws
      else if opOf (hdrOf ws) = 0x80 then createPacket s1 q ws
      else s1
    | _, _ => s

/-- ALLOC_RESUME: who has waited longest for zeroing goes on, and waits on at the head where granules still lack. -/
def execAllocResume (s : State) : Result :=
  match s.allocWait with
  | [] => .next s
  | w :: rest =>
    if s.halted then .next s
    else
      let s1 := { s with allocWait := [] }
      let t := match w with
        | .queue q => resumePacket s1 q
        | .upstream e tag c size hint attr => serveAlloc s1 e tag c size hint attr
      .next { t with allocWait := t.allocWait ++ rest }

/-! ## QUERY (R93) -/

/-- Sections a view holds. -/
def sectionSeen (c t : Nat) : Bool :=
  decide (1 ≤ t) && decide (t ≤ 9) && (c == 0 || (t != 3 && t != 9))

/-- The contexts whose removal is in progress. -/
def removingCtxs (s : State) : List Nat := (s.ctxs.filter (fun e => decide (e.2.st = .removing))).map (·.1)

/-- A section as QUERY gives it to a context: the operator's shows the removals in progress (R87, log 15). -/
def querySection (s : State) (c t : Nat) : List Byte :=
  if c = 0 then
    let bs := capSection s t none
    match removingCtxs s with
    | [] => bs
    | cs => (List.range bs.length).map (fun i => Config.capRemoving t cs i (bs.getD i 0))
  else capSection s t (some (s.ctx c).part)

/-- QUERY: the section as the context sees it, as far as the buffer takes it; its full size goes to D[RDST]. -/
def execQuery (qb : BitVec 18) (s : State) : Result :=
  packetRow s qb.toNat 0x52 noTokens (fun s _ ws =>
    let q := qb.toNat
    let c := (s.queue q).owner
    let t := fld (wordAt ws 1) 15 0
    let d := immOf (hdrOf ws) % 16
    if t = 0 ∨ 9 < t then
      opStatus (modJob s q (fun j => { setD j d 0 with d15 := BitVec.ofNat 64 ST_QUERY_DENIED.toNat })) q ST_QUERY_DENIED
    else if !sectionSeen c t then
      opStatus (modJob s q (fun j => { j with d15 := BitVec.ofNat 64 ST_QUERY_DENIED.toNat })) q ST_QUERY_DENIED
    else
      let bs := querySection s c t
      match writeOp s q (wordAt ws 2) (wordAt ws 3) (bs.take (fld (wordAt ws 1) 63 32)) with
      | .error e => faultJob s q e
      | .ok u => retireWith u q (fun j => { setD j d (BitVec.ofNat 64 bs.length) with d15 := 0 }))

end Sys2Proof.Machine
end

