-- ==== Sys2Proof/Machine/Veld.lean ====
section
/-! DEFINITION. The Veld (R311 to R336): the estimate of die power, the shares, the frequencies and their changes, the
learner and the hints, the alert wire, the domain messages and the attribution of energy. -/

namespace Sys2Proof.Machine

/-! ## Registers and caps (Table 12.3, R312) -/

/-- A window of 1 mW in fJ. -/
def mwFj : Nat := 2000000

def fminOf (p : Part) : Nat := bitsN p.bounds.toNat 10 0
def fmaxOf (p : Part) : Nat := bitsN p.bounds.toNat 26 16
def weightOf (p : Part) : Nat := max 1 (bitsN p.power.toNat 31 16)
def minWOf (p : Part) : Nat := bitsN p.power.toNat 15 0
def domainOf (p : Part) : Nat := bitsN p.domain.toNat 15 0
def coordOf (p : Part) : Nat := bitsN p.domain.toNat 31 16
def diesOf (p : Part) : Nat := bitsN p.domain.toNat 47 40
def bandOf (v : Veld) : Nat := bitsN v.ctrl.toNat 7 0
def dwellOf (v : Veld) : Nat := bitsN v.ctrl.toNat 15 8
def elasticityOf (v : Veld) : Nat := bitsN v.ctrl.toNat 31 24

/-- The rack's bound in W: the budget, or the fallback while it is stale (R313). -/
def rackCap (v : Veld) : Nat := if v.rackStale then v.fallbackW else v.rackW

/-- The effective cap in W; 0 sets no limit. -/
def effCap (v : Veld) : Nat :=
  if rackCap v = 0 then v.capW else if v.capW = 0 then rackCap v else min (rackCap v) v.capW

/-- The tier that sets the effective cap. -/
def capTier (v : Veld) : Nat := if rackCap v ≠ 0 ∧ (v.capW = 0 ∨ rackCap v ≤ v.capW) then 2 else 3

/-! ## Hubs, rails and voltages -/

/-- The discovered endpoints of a hub. -/
def hubEps (s : State) (h : Nat) : List Nat := (s.eps.filter (fun e => e.2.exist && e.1 / 32 == h)).map (·.1)

/-- Hubs with a discovered endpoint, ascending. -/
def liveHubs (s : State) : List Nat := ((s.eps.filter (fun e => e.2.exist)).map (fun e => e.1 / 32)).eraseDups

/-- A hub's type: the lowest kind among its endpoints. -/
def hubKind (s : State) (h : Nat) : Nat := ((hubEps s h).map (fun e => (s.ep e).kind)).foldl min 2

/-- The rail of a hub. -/
def railOf (s : State) (h : Nat) : Option Nat := s.vld.rails.findIdx? (fun r => decide (r.1 ≤ h) && decide (h ≤ r.2))

/-- A voltage as a ratio to VNOM_MV, 16.16. -/
def ratioOf (s : State) (mv : Nat) : Nat :=
  if s.vld.vnom = 0 then Config.unpriced [0, mv] else mv * 65536 / s.vld.vnom

/-- A hub's voltage ratio; 1.0 without AVSBus (R316). -/
def hubRatio (s : State) (h : Nat) : Nat :=
  if !s.swb.avsBus then 65536
  else ratioOf s (match railOf s h with | some r => s.vld.railMv.getD r 0 | none => Config.hubMv h)

/-- The points of the VF table as (MHz, mV). -/
def vfPoints (s : State) : List (Nat × Nat) := s.vld.vf.map (fun w => (bitsN w.toNat 10 0, bitsN w.toNat 31 16))

/-- The highest frequency of the VF table. -/
def vfTop (s : State) : Nat := (vfPoints s).foldl (fun m p => max m p.1) 0

/-- VF(f) in mV (R321). -/
def vfMv (s : State) (f : Nat) : Nat :=
  match (vfPoints s).find? (fun p => decide (f ≤ p.1)) with
  | some p => p.2
  | none => ((vfPoints s).getD 15 (0, 0)).2

/-- The voltage a rail needs for a frequency. -/
def railFor (s : State) (f : Nat) : Nat := vfMv s f + s.vld.vmargin

/-- The voltage ratio at a frequency (R319). -/
def ratioAt (s : State) (f : Nat) : Nat := if !s.swb.avsBus then 65536 else ratioOf s (railFor s f)

/-! ## The estimate (R316) -/

/-- A hub's energy of the window, as its dynamic part and the rest of it, with the gain. -/
structure HubEnergy where
  hub : Nat
  dyn : Nat
  stat : Nat

/-- A model word: KSTAT_MW and KDYN_FJ. -/
def kstatOf (v : Veld) (t : Nat) : Nat := fld (wordAt v.model t) 63 32
def kdynOf (v : Veld) (t : Nat) : Nat := fld (wordAt v.model t) 31 0

/-- The activity word of a hub: ACT and SPIN16; 0 where no beat came (R53). -/
def actOf (s : State) (h : Nat) : Nat := bitsN ((s.hub h).act.getD 0).toNat 27 0
def spinOf (s : State) (h : Nat) : Nat := bitsN ((s.hub h).act.getD 0).toNat 31 28

/-- Price one hub. -/
def priceHub (s : State) (gain h : Nat) : HubEnergy :=
  let v := hubRatio s h
  let t := hubKind s h
  let d := actOf s h * kdynOf s.vld t * v * v / 2 ^ 32
  let e := (d + kstatOf s.vld t * mwFj * v / 65536) * gain / 65536
  { hub := h, dyn := d * gain / 65536, stat := e - d * gain / 65536 }

/-- The uncore term. -/
def uncoreFj (s : State) (gain : Nat) : Nat := s.vld.uncore.toNat * mwFj * gain / 65536

/-- Every live hub, priced. -/
def priceAll (s : State) (gain : Nat) : List HubEnergy := (liveHubs s).map (priceHub s gain)

/-- The die estimate in mW. -/
def estimateMw (s : State) (gain : Nat) : Nat :=
  (uncoreFj s gain + ((priceAll s gain).map (fun e => e.dyn + e.stat)).sum) / mwFj

/-! ## Groups (R320) -/

/-- Partitions with bound compute cores on this die, and the hubs of their cores. -/
def partHubs (s : State) : List (Nat × List Nat) :=
  (s.parts.filter (fun p => decide (p.1 ≠ 255) && !p.2.active.cores.isEmpty)).map (fun p =>
    (p.1, (p.2.active.cores.map (fun c => c.2.2 / 32)).eraseDups))

/-- Add a partition to the groups: the groups that share a hub with it become one. -/
def joinGroup (gs : List (List Nat × List Nat)) (p : Nat × List Nat) : List (List Nat × List Nat) :=
  let touch (g : List Nat × List Nat) : Bool := g.2.any (fun h => p.2.contains h)
  let hit := gs.filter touch
  gs.filter (fun g => !touch g) ++ [(hit.flatMap (·.1) ++ [p.1], (hit.flatMap (·.2) ++ p.2).eraseDups)]

/-- The frequency groups: partitions and hubs. -/
def groupsOf (s : State) : List (List Nat × List Nat) := (partHubs s).foldl joinGroup []

/-- Hubs outside every group. -/
def looseHubs (s : State) : List Nat :=
  let g := (groupsOf s).flatMap (·.2)
  (liveHubs s).filter (fun h => !g.contains h)

/-- The frequency a hub outside every group runs at (R320); its lowest state from an alert to the end of its release (tier 1
of Table 12.1), and no frequency above the VF table's (R321). -/
def looseMhz (s : State) (h : Nat) : Nat :=
  let es := hubEps s h
  if s.vld.alert || s.vld.releasing then s.vld.floorMhz
  else if es.all (fun e => (s.ep e).part == 255) then s.vld.floorMhz
  else if hubKind s h = 0 then s.vld.floorMhz
  else es.foldl (fun m e => min m (s.ep e).mhz) (min s.vld.auxMhz (vfTop s))

/-! ## A partition's power and its frequencies (R318, R319) -/

/-- The ceiling: the lowest fused maximum among the partition's bound compute cores. -/
def topMhz (s : State) (p : Nat) : Nat :=
  match (s.part p).active.cores.map (fun c => (s.ep c.2.2).mhz) with
  | [] => 0
  | f :: fs => fs.foldl min f

/-- Clip to [FMIN, FMAX] and the ceiling. -/
def clipMhz (s : State) (p f : Nat) : Nat := min (topMhz s p) (min (fmaxOf (s.part p)) (max (fminOf (s.part p)) f))

/-- The requested frequency: a hint's target while it holds, else the learner's, else the ceiling. -/
def requestMhz (s : State) (p : Nat) : Nat :=
  let x := s.part p
  clipMhz s p (match x.target6, x.target5 with
    | some t, _ => t.1
    | none, some t => t
    | none, none => topMhz s p)

/-- The partition's parts of its hubs' energies: dynamic and static, in fJ per window. -/
def partEnergy (s : State) (es : List HubEnergy) (p : Nat) : Nat × Nat :=
  let cores := (s.part p).active.cores.map (·.2.2)
  es.foldl (fun a e =>
    let n := (hubEps s e.hub).length
    let k := (cores.filter (fun c => c / 32 == e.hub)).length
    if n = 0 ∨ k = 0 then a else (a.1 + e.dyn * k / n, a.2 + e.stat * k / n)) (0, 0)

/-- The voltage ratio of a partition: its first core's hub's. -/
def partRatio (s : State) (p : Nat) : Nat :=
  match (s.part p).active.cores with
  | [] => 65536
  | c :: _ => hubRatio s (c.2.2 / 32)

/-- P(f) from D and S at frequency f0 and ratio v0. -/
def powerAt (s : State) (d st f0 v0 f : Nat) : Nat :=
  let v := ratioAt s f
  if f0 = 0 ∨ v0 = 0 then Config.unpriced [1, d, st, f0, v0, f]
  else st * v / v0 + d * f * v * v / (f0 * v0 * v0)

/-- The steps from FLOOR_MHZ up to a frequency, highest first; none above the VF table. -/
def stepsTo (s : State) (f : Nat) : List Nat :=
  let k := s.vld.fstep
  let all := if k = 0 then [0] else ((List.range (f / k + 1)).map (· * k)).reverse
  all.filter (fun x => decide (s.vld.floorMhz ≤ x) && decide (x ≤ vfTop s))

/-- A power lies within a share. -/
def fitsShare (share : Option Nat) (p : Nat) : Bool := match share with | none => true | some w => decide (p ≤ w)

/-- The frequency chosen for a request under a share. -/
def chooseMhz (s : State) (share : Option Nat) (req d st f0 v0 : Nat) : Nat :=
  match (stepsTo s req).find? (fun f => fitsShare share (powerAt s d st f0 v0 f)) with
  | some f => f
  | none => s.vld.floorMhz

/-- The choice for a partition: where its share admits FMIN and the highest fitting step lies below it, FMIN itself, since
the target is then at least FMIN (R314, log 50). -/
def pickMhz (s : State) (share : Option Nat) (fmin req d st f0 v0 : Nat) : Nat :=
  let f := chooseMhz s share req d st f0 v0
  if f < fmin ∧ fmin ≤ req ∧ s.vld.floorMhz ≤ fmin ∧ fmin ≤ vfTop s ∧ fitsShare share (powerAt s d st f0 v0 fmin) then fmin
  else f

/-! ## Requests and changes (R321) -/

/-- A frequency request on pwr_freq. -/
def askHub (s : State) (h f : Nat) : State :=
  count (emit (s.setHub h { s.hub h with asked := some f, want := none }) (.freq h f)) pgVLD 1

/-- A voltage request on AVSBus. -/
def askRail (s : State) (r mv : Nat) : State :=
  emit { s with vld := { s.vld with railReq := s.vld.railReq.filter (fun x => x.1 != r) ++ [(r, mv)] } } (.avs r mv)

/-- The rails of a list of hubs. -/
def railsOf (s : State) (hs : List Nat) : List Nat := (hs.filterMap (railOf s)).eraseDups

/-- Hubs that change together change to f: a raise first sets each rail that is too low; the rest asks at once, in hub
order. -/
def changeHubs (s : State) (hs : List Nat) (f : Nat) : State :=
  let up := hs.any (fun h => decide ((s.hub h).mhz < f))
  let low := if s.swb.avsBus ∧ up then (railsOf s hs).filter (fun r => decide (s.vld.railMv.getD r 0 < railFor s f)) else []
  if low.isEmpty then (sortBy (· ≤ ·) hs).foldl (fun t h => askHub t h f) s
  else hs.foldl (fun t h => t.setHub h { t.hub h with want := some f }) (low.foldl (fun t r => askRail t r (railFor s f)) s)

/-- A hub's change is in progress. -/
def hubBusy (s : State) (h : Nat) : Bool := (s.hub h).want.isSome || (s.hub h).asked.isSome

/-- The partitions of a group are CHANGING. -/
def markChanging (s : State) (g : List Nat × List Nat) (f : Nat) : State :=
  g.1.foldl (fun t p => t.setPart p { t.part p with changing := some f, raiseRun := 0 }) s

/-- Start a group's change to f: a raise or a lowering of the group asks all its hubs and is counted; one that only brings
hubs to the group's frequency asks those. -/
def changeGroup (s : State) (g : List Nat × List Nat) (f : Nat) : State :=
  let up := g.1.any (fun p => decide ((s.part p).mhz < f))
  let down := g.1.any (fun p => decide (f < (s.part p).mhz))
  let s1 := changeHubs (markChanging s g f) (if up || down then g.2 else g.2.filter (fun h => (s.hub h).mhz != f)) f
  if down then count s1 pgVLD 3 else if up then count s1 pgVLD 2 else s1

/-- The group of a partition. -/
def groupOf (s : State) (p : Nat) : Option (List Nat × List Nat) := (groupsOf s).find? (fun g => g.1.contains p)

/-- The frequency a partition may run at: its own choice, and in a domain not above the domain's frequency; before the
first FREQ_SET it does not rise (R322). -/
def partMhz (s : State) (p : Nat) : Nat :=
  let x := s.part p
  if domainOf x = 0 then x.chosen else min x.chosen (x.domMhz.getD x.mhz)

/-- A group's frequency: the lowest of its partitions. -/
def groupMhz (s : State) (g : List Nat × List Nat) : Nat :=
  match g.1.map (partMhz s) with
  | [] => s.vld.floorMhz
  | f :: fs => fs.foldl min f

/-- A group's present frequency: the lowest recorded of its partitions. -/
def groupNow (s : State) (g : List Nat × List Nat) : Nat :=
  match g.1.map (fun p => (s.part p).mhz) with
  | [] => 0
  | f :: fs => fs.foldl min f

/-- The frequency a partition's cores run at: the lowest of their hubs'. -/
def coreMhz (s : State) (p : Nat) : Nat :=
  match (s.part p).active.cores.map (fun c => (s.hub (c.2.2 / 32)).mhz) with
  | [] => 0
  | f :: fs => fs.foldl min f

/-- A partition whose membership changed: one that gains its first cores stands at the frequency of their hubs, one that
loses its last core at none (R319). -/
def bindMhz (s : State) (p : Nat) : State :=
  let x := s.part p
  if x.active.cores.isEmpty then s.setPart p { x with mhz := 0, raiseRun := 0, changing := none }
  else if x.mhz = 0 then s.setPart p { x with mhz := coreMhz s p }
  else s

/-- Apply a group's frequency at once, unless a change is in progress, or it would rise while it recovers from an alert
(R327). -/
def applyGroup (s : State) (g : List Nat × List Nat) : State :=
  if g.2.any (hubBusy s) then s
  else
    let f := groupMhz s g
    if s.vld.slow ∧ groupNow s g < f then s
    else if f = groupNow s g ∧ g.2.all (fun h => (s.hub h).mhz == f) then s else changeGroup s g f

/-- A window's decision for a group: it lowers at once where a partition or a hub of it stands higher, and raises after DWELL
windows, by one FSTEP at a time while it recovers from an alert (R321, R327). A hub that joined a group standing at its
frequency is brought to it at once: the group does not rise (R320). -/
def windowGroup (s : State) (g : List Nat × List Nat) : State :=
  if g.2.any (hubBusy s) then s
  else
    let f := groupMhz s g
    let cur := groupNow s g
    let lead := g.1.headD 255
    if g.2.any (fun h => decide (f < (s.hub h).mhz)) || g.1.any (fun p => decide (f < (s.part p).mhz)) then changeGroup s g f
    else if cur < f then
      let x := s.part lead
      if x.raiseRun + 1 < dwellOf s.vld then s.setPart lead { x with raiseRun := x.raiseRun + 1 }
      else changeGroup s g (if s.vld.slow then min f (cur + s.vld.fstep) else f)
    else if g.2.any (fun h => (s.hub h).mhz != f) then changeGroup s g f
    else if lead = 255 then s
    else s.setPart lead { s.part lead with raiseRun := 0 }

/-- A window's decision for a hub outside every group. -/
def windowLoose (s : State) (h : Nat) : State :=
  if hubBusy s h ∨ (s.hub h).mhz = looseMhz s h then s else changeHubs s [h] (looseMhz s h)

/-- Groups whose hubs have all settled record their frequency; a lowering then sets each rail to what its fastest hub
needs (R321 steps 3 and 4). -/
def settleGroups (s : State) : State :=
  (groupsOf s).foldl (fun t g =>
    match (t.part (g.1.headD 255)).changing with
    | none => t
    | some f =>
      if g.2.any (hubBusy t) then t
      else
        let down := g.1.any (fun p => decide (f < (t.part p).mhz))
        let t1 := g.1.foldl (fun u p => u.setPart p { u.part p with mhz := coreMhz u p, changing := none }) t
        if down && t1.swb.avsBus then
          (railsOf t1 g.2).foldl (fun u r =>
            let top := ((liveHubs u).filter (fun h => railOf u h == some r)).foldl (fun m h => max m (u.hub h).mhz) 0
            askRail u r (railFor u top)) t1
        else t1) s

/-! ## Domains (R322, R323) -/

/-- A domain message's beat. -/
def freqBeat (type domain mhz epoch : Nat) : Nat := type + domain * 2 ^ 16 + mhz * 2 ^ 32 + epoch * 2 ^ 48

/-- Send a partition's proposal to its coordinator. -/
def propose (s : State) (p : Nat) : State :=
  let x := s.part p
  if domainOf x = 0 ∨ coordOf x = dieId s then s
  else sendPeer (s.setPart p { x with proposeAt := s.now }) (coordOf x) (freqBeat 0x30 (domainOf x) (x.chosen % 2048) 0)

/-- The coordinator's domain frequency: the lowest of the proposals and its own choice; a member whose proposal is
missing counts as FLOOR_MHZ (log 18). A change goes to every member with a new EPOCH. -/
def coordinate (s : State) (p : Nat) : State :=
  let x := s.part p
  if domainOf x = 0 ∨ coordOf x ≠ dieId s then s
  else
    let f := x.proposals.foldl (fun m y => min m y.2.1) x.chosen
    if x.domMhz = some f then s
    else
      let e := (x.epoch + 1) % 65536
      let s1 := s.setPart p { x with domMhz := some f, epoch := e }
      x.proposals.foldl (fun t y => sendPeer t y.1 (freqBeat 0x31 (domainOf x) (f % 2048) e)) s1

/-- A partition's choice changes (R319, R322). -/
def setChosen (s : State) (p f : Nat) : State :=
  if (s.part p).chosen = f then s
  else coordinate (propose (s.setPart p { s.part p with chosen := f }) p) p

/-- The partition of this die that holds a domain. -/
def domainPart (s : State) (d : Nat) : Option Nat :=
  if d = 0 then none else (s.parts.find? (fun p => domainOf p.2 == d)).map (·.1)

/-- A frequency message refused (R323). -/
def refuseFreq (s : State) (die : Nat) : State := count (setErr s pgPER 2 die) pgPER 2

/-- FREQ_PROPOSE. -/
def execFreqPropose (die : BitVec 16) (beat : BitVec 256) (s : State) : Result :=
  .next (peerIn s die.toNat beat 0x30 (0xFF + mask 31 16 + mask 42 32) (fun s b =>
    match domainPart s (bitsN b 31 16) with
    | none => refuseFreq s die.toNat
    | some p =>
      let x := s.part p
      let ps := x.proposals.filter (fun y => y.1 != die.toNat) ++ [(die.toNat, bitsN b 42 32, s.now)]
      let s1 := coordinate (s.setPart p { x with proposals := ps }) p
      match groupOf s1 p with
      | some g => if groupMhz s1 g < groupNow s1 g then applyGroup s1 g else s1
      | none => s1))

/-- FREQ_SET: an EPOCH newer modulo 2^16 is applied under R321: a lower frequency at once, a higher one by the windows that
follow (log 50). -/
def execFreqSet (die : BitVec 16) (beat : BitVec 256) (s : State) : Result :=
  .next (peerIn s die.toNat beat 0x31 (0xFF + mask 31 16 + mask 42 32 + mask 63 48) (fun s b =>
    match domainPart s (bitsN b 31 16) with
    | none => refuseFreq s die.toNat
    | some p =>
      let x := s.part p
      let e := bitsN b 63 48
      if (e + 65536 - x.epoch) % 65536 = 0 ∨ 32768 ≤ (e + 65536 - x.epoch) % 65536 then refuseFreq s die.toNat
      else
        let s1 := s.setPart p { x with epoch := e, domMhz := some (bitsN b 42 32) }
        match groupOf s1 p with
        | some g => if groupMhz s1 g < groupNow s1 g then applyGroup s1 g else s1
        | none => s1))

/-- FREQ_PROPOSE_RESEND: a member sends its proposal again. -/
def execFreqProposeResend (p : BitVec 8) (s : State) : Result :=
  if s.bsn.spineAwake then .next (propose s p.toNat) else .next s

/-- FREQ_PROPOSE_MISSING: a member counts as proposing FLOOR_MHZ. -/
def execFreqProposeMissing (pb : BitVec 8) (die : BitVec 16) (s : State) : Result :=
  let p := pb.toNat
  let x := s.part p
  if domainOf x = 0 ∨ coordOf x ≠ dieId s ∨ !(s.bsn.spineAwake) then .next s
  else
    let ps := x.proposals.filter (fun y => y.1 != die.toNat) ++ [(die.toNat, s.vld.floorMhz, s.now)]
    let s1 := coordinate (setErr (s.setPart p { x with proposals := ps }) pgVLD 2 (domainOf x)) p
    .next (match groupOf s1 p with
      | some g => if groupMhz s1 g < groupNow s1 g then applyGroup s1 g else s1
      | none => s1)

/-! ## The learner and hints (R324, R325) -/

/-- The set of a learner entry (4-way, 16,384 entries). -/
def learnSet (l : Learn) : Nat := Config.setIndex 2 [l.part, l.layer.toNat] % 4096

def learnFind (s : State) (p : Nat) (layer : W32) : Option Learn :=
  s.vld.learner.find? (fun l => l.part == p && l.layer == layer)

/-- Keep an entry, most recently used first. -/
def learnPut (s : State) (l : Learn) : State :=
  let rest := s.vld.learner.filter (fun x => !(x.part == l.part && x.layer == l.layer))
  { s with vld := { s.vld with learner := trimSet learnSet (learnSet l) 4 (l :: rest) 0 } }

/-- A look-up that found an entry makes it the most recently used of its set. -/
def learnUse (s : State) : Option Learn → State
  | some l => learnPut s l
  | none => s

/-- Fold a value into a mean with weight 1/8. -/
def fold8 (old new : Nat) : Nat := ((old : Int) + ((new : Int) - old) / 8).toNat

/-- A layer's duration enters its entry: folded where the frequency is the same, else kept beside the earlier one. -/
def learnDur (l : Learn) (d f : Nat) : Learn :=
  if l.mhz = f then { l with dur := fold8 l.dur d } else { l with dur := d, mhz := f, prev := some (l.dur, l.mhz) }

/-- The layer that ends enters the learner: its windows' averages, and its duration (R324). -/
def learnEnd (s : State) (p : Nat) : State :=
  let x := s.part p
  match x.layer with
  | none => s
  | some layer =>
    let (n, d, st, t0) := x.layerWin
    if n = 0 then s
    else
      let dur := s.now - t0
      match learnFind s p layer with
      | some l => learnPut s (learnDur { l with dyn := fold8 l.dyn (d / n), stat := fold8 l.stat (st / n) } dur x.mhz)
      | none =>
        let dur' := match x.hintDur with
          | some (h, d0) => if h = layer then fold8 d0 dur else dur
          | none => dur
        learnPut s { part := p, layer := layer, dyn := d / n, stat := st / n, dur := dur', mhz := x.mhz, prev := none }

/-- The duration at a frequency from two observations: linear between them. -/
def predictDur (d1 f1 d2 f2 f : Nat) : Nat :=
  if f < min f1 f2 ∨ max f1 f2 < f ∨ f1 = f2 then Config.predict [d1, f1, d2, f2, f]
  else
    let (dl, fl, dh, fh) := if f1 < f2 then (d1, f1, d2, f2) else (d2, f2, d1, f1)
    ((dl : Int) + ((dh : Int) - dl) * ((f : Int) - fl) / ((fh : Int) - fl)).toNat

/-- The learner's target for a layer with an entry (R324). -/
def learnTarget (s : State) (p : Nat) (l : Learn) : Nat :=
  let share := (s.part p).share
  let top := clipMhz s p (topMhz s p)
  let base := chooseMhz s share top l.dyn l.stat 1000 65536
  match l.prev with
  | none => base
  | some (d2, f2) =>
    let (dl, fl, dh, fh) := if l.mhz < f2 then (l.dur, l.mhz, d2, f2) else (d2, f2, l.dur, l.mhz)
    -- the duration shrank by less than ELASTICITY/256 of the rise in frequency
    if fl < fh ∧ 256 * ((dl : Int) - dh) * fl < (elasticityOf s.vld : Int) * dl * ((fh : Int) - fl) then
      let at' (f : Nat) : Nat := predictDur l.dur l.mhz d2 f2 f
      match ((stepsTo s top).reverse).find? (fun f => decide (100 * at' f ≤ 102 * at' (topMhz s p))) with
      | some f => f
      | none => base
    else base

/-- Choose a partition's frequency again, with its last window's powers and share. -/
def rechoose (s : State) (p : Nat) : State :=
  let x := s.part p
  let w := x.lastWin
  let f := if s.vld.alert || s.vld.releasing then s.vld.floorMhz
           else pickMhz s x.share (fminOf x) (requestMhz s p) w.1 w.2.1 w.2.2.1 w.2.2.2
  setChosen s p f

/-- A layer boundary of any job makes a layer its partition's current one. -/
def veldLayer (s : State) (p : Nat) (layer : W32) : State :=
  if (s.part p).layer = some layer then s
  else
    let s0 := learnEnd s p
    let l := learnFind s0 p layer
    let s1 := learnUse s0 l
    let x := s1.part p
    let t5 := l.map (learnTarget s1 p)
    s1.setPart p { x with layer := some layer, layerWin := (0, 0, 0, s.now), target5 := t5,
                          target6 := match x.target6 with
                            | some (f, h, t) => if h = layer then none else some (f, h, t)
                            | none => none,
                          hintDur := match x.hintDur with
                            | some (h, d) => if x.layer = some h then none else some (h, d)
                            | none => none }

/-- A hint of a partition (R325). -/
def takeHint (s : State) (p : Nat) (layer : W32) (durUs : Nat) : State :=
  match learnFind s p layer with
  | none => if durUs = 0 then s else s.setPart p { s.part p with hintDur := some (layer, durUs * 1000) }
  | some l =>
    let s1 := (learnPut s l).setPart p { s.part p with target6 := some (learnTarget s p l, layer, s.now) }
    let s2 := rechoose (count s1 pgVLD 7) p
    match groupOf s2 p with
    | some g => applyGroup s2 g
    | none => s2

/-- PHASE_HINT. -/
def execPhaseHint (q : BitVec 18) (s : State) : Result :=
  packetRow s q.toNat 0x41 noTokens (fun s _ ws =>
    let w := wordAt ws 1
    retire (takeHint s (partQ s q.toNat) (BitVec.ofNat 32 (fld w 31 0)) (fld w 55 32)) q.toNat)

/-- HINT_EXPIRY: the target ends. -/
def execHintExpiry (p : BitVec 8) (s : State) : Result :=
  .next (s.setPart p.toNat { s.part p.toNat with target6 := none })

/-! ## Activity, measurement, settling -/

/-- ACTIVITY_BEAT: four hubs' words for the present window (R53, R315). A second beat of a group in one window says that
one of the two came after its own (ERR_STATUS bit 0, log 50). -/
def execActivityBeat (grp : BitVec 7) (data : BitVec 128) (s : State) : Result :=
  let s1 := if (s.hub (4 * grp.toNat)).act.isSome then setErr s pgVLD 0 (4 * grp.toNat) else s
  .next ((List.range 4).foldl (fun t i =>
    let h := 4 * grp.toNat + i
    t.setHub h { t.hub h with act := some (BitVec.ofNat 32 (bitsN data.toNat (32 * i + 31) (32 * i))) }) s1)

/-- MEASUREMENT. While the spine sleeps the minimal loop compares it with the cap and keeps the idle account (R328). -/
def execMeasurement (mw : BitVec 20) (s : State) : Result :=
  let v := { s.vld with measLast := mw }
  if s.bsn.spineAwake then .next { s with vld := { v with meas := some mw } }
  else
    let s1 := { s with vld := { v with idleDie := v.idleDie + mw.toNat * mwFj } }
    if effCap v ≠ 0 ∧ effCap v * 1000 < mw.toNat then
      .next (((liveHubs s1).filter (fun h => hubKind s1 h == 0)).foldl (fun t h => askHub t h t.vld.floorMhz)
        ((groupsOf s1).foldl (fun t g => markChanging t g t.vld.floorMhz) s1))
    else .next s1

/-- R327 steps 2 and 3: every hub has settled at FLOOR_MHZ, where the groups now stand. -/
def finishRelease (s : State) : State :=
  if s.vld.releasing && (liveHubs s).all (fun h => (s.hub h).asked.isNone) then
    (partHubs s).foldl (fun t p => t.setPart p.1 { t.part p.1 with mhz := coreMhz t p.1, changing := none, raiseRun := 0 })
      { s with vld := { s.vld with releasing := false, alert := false, slow := true }, pins := { s.pins with pwrFloor := false } }
  else s

/-- FREQUENCY_DONE. -/
def execFrequencyDone (hb : BitVec 9) (s : State) : Result :=
  let h := hb.toNat
  match (s.hub h).asked with
  | none => .next s
  | some f => .next (finishRelease (settleGroups (s.setHub h { s.hub h with mhz := f, asked := none })))

/-- Hubs whose rails have answered ask for their frequency, in hub order. -/
def askReady (s : State) : State :=
  let waits (t : State) (hs : List Nat) : Bool := (railsOf t hs).any (fun r => t.vld.railReq.any (fun x => x.1 == r))
  let s1 := (groupsOf s).foldl (fun t g =>
    if waits t g.2 then t
    else ((sortBy (· ≤ ·) g.2).filter (fun h => (t.hub h).want.isSome)).foldl (fun u h =>
      askHub u h ((u.hub h).want.getD 0)) t) s
  (looseHubs s1).foldl (fun t h => match (t.hub h).want with
    | some f => if waits t [h] then t else askHub t h f
    | none => t) s1

/-- RAIL_ACK: the rail stands at the voltage asked for, and after VSETTLE the change goes on. -/
def execRailAck (r : BitVec 2) (s : State) : Result :=
  match s.vld.railReq.find? (fun x => x.1 == r.toNat) with
  | none => .next s
  | some (_, mv) =>
    .next (askReady { s with vld := { s.vld with railMv := s.vld.railMv.set r.toNat mv,
                                                 railReq := s.vld.railReq.filter (fun x => x.1 != r.toNat) } })

/-- RAIL_ACK_TIMEOUT. -/
def execRailAckTimeout (r : BitVec 2) (s : State) : Result :=
  if s.vld.railReq.any (fun x => x.1 == r.toNat) then .next (setErr s pgVLD 1 r.toNat) else .next s

/-! ## The alert wire (R326, R327) -/

/-- ALERT: pwr_floor rises, every group's target is FLOOR_MHZ, and a raise that waits for its rails ends (Table 12.2). -/
def execAlert (s : State) : Result :=
  let s0 := { s with pins := { s.pins with pwrFloor := true }, vld := { s.vld with alert := true, releasing := false } }
  let s1 := settleGroups (s0.hubs.foldl (fun t h => t.setHub h.1 { t.hub h.1 with want := none }) s0)
  let s2 := (partHubs s1).foldl (fun t p => setChosen t p.1 t.vld.floorMhz) (count s1 pgVLD 4)
  .next (if s2.swb.avsBus then
    (List.range s2.vld.rails.length).foldl (fun t r => askRail t r (railFor t t.vld.floorMhz)) s2 else s2)

/-- ALERT_RELEASE: requests at FLOOR_MHZ for every hub; pwr_floor falls once each has settled. -/
def execAlertRelease (s : State) : Result :=
  if s.vld.alert && !s.vld.releasing && s.bsn.spineAwake then
    .next (finishRelease ((liveHubs s).foldl (fun t h => askHub t h t.vld.floorMhz)
      { s with vld := { s.vld with releasing := true } }))
  else .next s

/-! ## Energy (R331, R332) -/

/-- Energy goes to a queue's job, or to its context alone once the job's T_DONE has passed. -/
def chargeJob (s : State) (q : Nat) (layer operator : W32) (e : Nat) : State :=
  let c := (s.queue q).owner
  let s1 := modJob s q (fun j => if j.phase = .record ∨ j.phase = .ciWrite ∨ j.phase = .completing then j else { j with energy := j.energy + e })
  let s2 := s1.setCtx c { s1.ctx c with acctEnergy := (s1.ctx c).acctEnergy + e }
  let p := (s2.ctx c).part
  countLayer (s2.setPart p { s2.part p with jobsFj := (s2.part p).jobsFj + e }) c layer operator 0 (0, 1) e

/-- Energy of a command whose job has gone stays with its context. -/
def chargeCtx (s : State) (c : Nat) (layer operator : W32) (e : Nat) : State :=
  let s2 := s.setCtx c { s.ctx c with acctEnergy := (s.ctx c).acctEnergy + e }
  let p := (s2.ctx c).part
  countLayer (s2.setPart p { s2.part p with jobsFj := (s2.part p).jobsFj + e }) c layer operator 0 (0, 1) e

/-- An endpoint's part: the job of its oldest unretired command, or its partition's idle account. -/
def chargeEp (s : State) (e fj : Nat) : State :=
  let idle := let p := (s.ep e).part; s.setPart p { s.part p with idleFj := (s.part p).idleFj + fj }
  match (s.ep e).cmds.head? with
  | none => idle
  | some (tag, c) =>
    match recAt s tag with
    | some r => match r.purpose with
      | .job q => chargeJob s q r.layer r.operator fj
      | _ => if c = noCtx then idle else chargeCtx s c r.layer r.operator fj
    | none => if c = noCtx then idle else chargeCtx s c 0 0 fj

/-- The jobs whose BARRIER_ARM last armed a hub's cores: queue and job number. -/
def armers (s : State) (h : Nat) : List (Nat × Nat) :=
  ((s.sad.flatMap (fun c => c.2.armedBy)).filter (fun a => a.1 / 32 == h)).map (·.2) |>.eraseDups

/-- A hub's energy is attributed. -/
def chargeHub (s : State) (group : Bool) (e : HubEnergy) : State :=
  let total := e.dyn + e.stat
  let s0 := { s with vld := { s.vld with energyDie := s.vld.energyDie + total } }
  if !group then { s0 with vld := { s0.vld with overhead := s0.vld.overhead + total } }
  else
    let who := armers s e.hub
    let spin := if who.isEmpty then 0 else e.dyn * spinOf s e.hub / 16
    let s1 := who.foldl (fun t a =>
      let part := spin / who.length
      match t.job a.1 with
      | some j => if (t.queue a.1).step = a.2 then chargeJob t a.1 j.layer j.operator part
                  else chargeCtx t (t.queue a.1).owner 0 0 part
      | none => chargeCtx t (t.queue a.1).owner 0 0 part) s0
    let es := hubEps s e.hub
    es.foldl (fun t x => chargeEp t x ((total - spin) / es.length)) s1

/-! ## The window (R314, R316, R318, R329) -/

/-- The gain after a run of eight windows: times the mean measurement over the mean estimate, to the nearest. -/
def rescaled (gain : Nat) (run : List (Nat × Nat)) : Nat :=
  let m := (run.map (·.1)).sum
  let e := (run.map (·.2)).sum
  if e = 0 then Config.unpriced [2, gain, m]
  else
    let g := roundHalfUp (gain * m) e
    if g < 2 ^ 32 then g else Config.unpriced [3, gain, m, e]

/-- R329 and R330 at a window's end. -/
def measure (s : State) : State :=
  let v := s.vld
  match v.meas with
  | none => { s with vld := { v with overRun := [], within := 0 } }
  | some mw =>
    let m := mw.toNat
    let e := estimateMw s v.gain.toNat
    let band := bandOf v
    if e * (100 + band) < 100 * m then
      let run := v.overRun ++ [(m, e)]
      if 8 ≤ run.length then
        count { s with vld := { v with overRun := [], within := 0, measCapping := true,
                                       gain := BitVec.ofNat 32 (rescaled v.gain.toNat run) } } pgVLD 5
      else { s with vld := { v with overRun := run, within := 0 } }
    else if e * (100 - min 100 band) ≤ 100 * m then
      { s with vld := { v with overRun := [], within := v.within + 1,
                               measCapping := v.measCapping && decide (v.within + 1 < 256) } }
    else { s with vld := { v with overRun := [], within := 0 } }

/-- POLICY_CONFLICT is logged and counted. -/
def conflict (s : State) (p tier : Nat) : State :=
  count { s with vld := { s.vld with conflict := BitVec.ofNat 64 (p * 2 ^ 40 + tier * 2 ^ 36 + s.now / 1000 % 2 ^ 36) } } pgVLD 6

/-- One partition in the division of the cap. -/
structure Claim where
  part : Nat
  demand : Nat
  minimum : Nat
  weight : Nat
  give : Nat

/-- The rounds of R318: what is left is divided by weight among those below their demand. -/
def rounds : Nat → Nat → List Claim → List Claim
  | 0, _, cs => cs
  | n + 1, avail, cs =>
    let left : Nat := avail - (cs.map (·.give)).sum
    let w : Nat := ((cs.filter (fun c => decide (c.give < c.demand))).map (·.weight)).sum
    if left = 0 ∨ w = 0 then cs
    else rounds n avail (cs.map (fun c => if c.give < c.demand then { c with give := min c.demand (c.give + left * c.weight / w) } else c))

/-- The division of the cap: the claims with their shares. -/
def divide (avail : Nat) (cs : List Claim) : List Claim :=
  let base := cs.map (fun c => { c with give := min c.minimum c.demand })
  let total := (base.map (·.give)).sum
  let scaled := if avail < total then base.map (fun c => { c with give := c.give * avail / total }) else base
  rounds (cs.length + 1) avail scaled

/-- The power left for partitions, in fJ per window. While MEAS_CAPPING stands, a measurement above the estimate counts
in its place. -/
def availFj (s : State) (es : List HubEnergy) : Nat :=
  let gain := s.vld.gain.toNat
  let loose := looseHubs s
  let looseFj := ((es.filter (fun e => loose.contains e.hub)).map (fun e => e.dyn + e.stat)).sum
  let est := uncoreFj s gain + (es.map (fun e => e.dyn + e.stat)).sum
  let excess := if s.vld.measCapping then (match s.vld.meas with | some m => m.toNat * mwFj - est | none => 0) else 0
  effCap s.vld * 1000 * mwFj - uncoreFj s gain - looseFj - excess

/-- The claims of the partitions with cores. -/
def claims (s : State) : List Claim :=
  (partHubs s).map (fun p =>
    let x := s.part p.1
    let w := x.lastWin
    { part := p.1, demand := powerAt s w.1 w.2.1 w.2.2.1 w.2.2.2 (requestMhz s p.1),
      minimum := minWOf x * 1000 * mwFj, weight := weightOf x, give := 0 })

/-- Shares and choices of every partition, with the conflicts of R314: a share that alone holds a partition below FMIN, and
power short of the sum of MIN_W. -/
def shareAll (s : State) (es : List HubEnergy) : State :=
  if effCap s.vld = 0 then
    (partHubs s).foldl (fun t p => rechoose (t.setPart p.1 { t.part p.1 with share := none }) p.1) s
  else
    let avail := availFj s es
    let cs := claims s
    let out := divide avail cs
    let s1 := if avail < (cs.map (·.minimum)).sum then
        match out.find? (fun c => decide (c.give < c.minimum)) with
        | some c => conflict s c.part (capTier s.vld)
        | none => s
      else s
    out.foldl (fun t c =>
      let t1 := rechoose (t.setPart c.part { t.part c.part with share := some c.give }) c.part
      let x := t1.part c.part
      let w := x.lastWin
      let req := requestMhz t1 c.part
      if x.chosen < fminOf x ∧ fminOf x ≤ pickMhz t1 none (fminOf x) req w.1 w.2.1 w.2.2.1 w.2.2.2 ∧
         !(t1.vld.alert || t1.vld.releasing) then
        conflict t1 c.part (capTier t1.vld) else t1) s1

/-- A partition's dynamic and static part of the window, at the frequency and voltage ratio it ran at (R319). -/
def recordWindow (s : State) (es : List HubEnergy) (p : Nat) : State :=
  let e := partEnergy s es p
  s.setPart p { s.part p with lastWin := (e.1, e.2, (s.part p).mhz, partRatio s p) }

/-- The window of a partition's current layer joins its averages, normalised to 1 GHz and v = 1 (R324). -/
def learnWindow (s : State) (es : List HubEnergy) (p : Nat) : State :=
  let x := s.part p
  let e := partEnergy s es p
  let v := partRatio s p
  if x.layer.isNone ∨ x.mhz = 0 ∨ v = 0 then s
  else
    let (n, d, st, t0) := x.layerWin
    s.setPart p { x with layerWin := (n + 1, d + e.1 * 1000 * 65536 * 65536 / (x.mhz * v * v), st + e.2 * 65536 / v, t0) }

/-- Every group stands at FLOOR_MHZ and the estimate exceeds the cap (Table 12.3). -/
def unreachable (s : State) : Bool :=
  decide (effCap s.vld ≠ 0) && (groupsOf s).all (fun g => groupNow s g == s.vld.floorMhz) &&
  decide (effCap s.vld * 1000 < s.vld.est.toNat)

/-- The window's estimate is recorded. -/
def setEst (s : State) (gain : Nat) : State :=
  count { s with vld := { s.vld with est := BitVec.ofNat 20 (min 0xFFFFF (estimateMw s gain)) } } pgVLD 0

/-- The uncore's energy is charged to the overhead and the die. -/
def chargeUncore (s : State) (gain : Nat) : State :=
  let un := uncoreFj s gain
  { s with vld := { s.vld with overhead := s.vld.overhead + un, energyDie := s.vld.energyDie + un } }

/-- The window ends: a group that stands where it was told ends a slow release, and the window's inputs are spent. -/
def closeWindow (s : State) : State :=
  let s1 := if (groupsOf s).all (fun g => groupMhz s g == groupNow s g) then { s with vld := { s.vld with slow := false } } else s
  s1.hubs.foldl (fun t h => t.setHub h.1 { t.hub h.1 with act := none })
    { s1 with vld := { s1.vld with meas := none, capUnreachable := unreachable s1 } }

/-- The spine part of an activation is at hand: the spine's functions pause (R383 step 4). -/
def spinePaused (s : State) : Bool := s.swb.fwActive.isSome && s.swb.fwTodo.head? == some 8

/-- A window that ends without an estimate, in a spine pause or while the spine sleeps: frequencies hold, its activity words
are spent (R53), and it breaks any run that R329 counts (R54, R328, note 24 of Table 15.3). -/
def skipWindow (s : State) : State :=
  s.hubs.foldl (fun t h => t.setHub h.1 { t.hub h.1 with act := none })
    { s with vld := { s.vld with meas := none, overRun := [], within := 0 } }

/-- A register write takes its place in Table 12.3's registers. -/
def applyVld (s : State) (w : VldWrite) : State :=
  let v := s.vld
  let x : W32 := BitVec.ofNat 32 w.data.toNat
  let y := s.part w.sel
  if w.off = 0x100 then { s with vld := { v with capW := fld w.data 15 0 } }
  else if w.off = 0x104 then { s with vld := { v with rackW := fld w.data 15 0, rackStale := false } }
  else if w.off = 0x108 then { s with vld := { v with fallbackW := fld w.data 15 0 } }
  else if w.off = 0x10C then { s with vld := { v with ctrl := x } }
  else if w.off = 0x120 then { s with vld := { v with gain := x } }
  else if w.off = 0x124 then
    { s with vld := { v with fstep := fld w.data 31 24, auxMhz := fld w.data 23 11, floorMhz := fld w.data 10 0 } }
  else if w.off = 0x128 then { s with vld := { v with vmargin := fld w.data 11 0 } }
  else if w.off = 0x12C then { s with vld := { v with uncore := x } }
  else if w.off = 0x134 then s.setPart w.sel { y with bounds := x &&& 0x07FF07FF }
  else if w.off = 0x138 then s.setPart w.sel { y with power := x }
  else if w.off = 0x140 then s.setPart w.sel { y with domain := mergeW 0x0000FF00FFFFFFFF y.domain w.data w.cover }
  else if w.off = 0x180 ∨ w.off = 0x188 ∨ w.off = 0x190 then
    let i := (w.off - 0x180) / 8
    { s with vld := { v with model := v.model.set i (mergeW 0xFFFFFFFFFFFFFFFF (wordAt v.model i) w.data w.cover) } }
  else if w.off = 0x1A4 then { s with vld := { v with vf := v.vf.set w.sel (x &&& 0xFFFF07FF) } }
  else s

/-- The register writes since the last window, applied in order. -/
def applyWrites (s : State) : State := s.vld.late.foldl applyVld { s with vld := { s.vld with late := [] } }

/-- ACTIVITY_WINDOW: the window's end. Register writes take effect (R335). With the spine awake it is estimated and
decided on; asleep, pwr_win toggles and the window is skipped (R328). -/
def execActivityWindow (s : State) : Result :=
  let s0 := applyWrites { s with pins := { s.pins with pwrWin := !s.pins.pwrWin } }
  if !s.bsn.spineAwake ∨ spinePaused s then .next (skipWindow s0)
  else
    let s1 := measure s0
    let gain := s1.vld.gain.toNat
    let es := priceAll s1 gain
    let groups := (groupsOf s1).flatMap (·.2)
    let s2 := setEst s1 gain
    let s3 := chargeUncore (es.foldl (fun t e => chargeHub t (groups.contains e.hub) e) s2) gain
    let s4 := shareAll ((partHubs s3).foldl (fun t p => learnWindow (recordWindow t es p.1) es p.1) s3) es
    .next (closeWindow ((looseHubs s4).foldl windowLoose ((groupsOf s4).foldl windowGroup s4)))

/-! ## Calibration (R317) -/

/-- One window of stage 6 as it is estimated: the hubs' activity words of the window in place of any earlier. -/
def calEstimate (s : State) (w : CalWindow) : Nat :=
  estimateMw (w.acts.foldl (fun t a => t.setHub a.1.toNat { t.hub a.1.toNat with act := some a.2 })
    (s.hubs.foldl (fun t h => t.setHub h.1 { t.hub h.1 with act := none }) s)) s.vld.gain.toNat

/-- VLD_GAIN after the 512 windows of stage 6: the measurements' sum over the estimates', rounded to the nearest. Fewer
windows leave it as it stands (log 50). -/
def calibrated (s : State) (ws : List CalWindow) : W32 :=
  let ws := ws.take 512
  if ws.length < 512 then s.vld.gain
  else
    let m := (ws.map (fun w => w.mw.toNat)).sum
    let e := (ws.map (calEstimate s)).sum
    if e = 0 then BitVec.ofNat 32 (Config.unpriced [4, m])
    else
      let g := roundHalfUp (65536 * m) e
      BitVec.ofNat 32 (if g < 2 ^ 32 then g else Config.unpriced [5, m, e])

/-- RACK_BUDGET_STALE: the fallback applies until the next write (R313). -/
def execRackBudgetStale (s : State) : Result := .next { s with vld := { s.vld with rackStale := true } }

end Sys2Proof.Machine
end

