-- ==== Sys2Proof/Machine/Graphs.lean ====
section
/-! DEFINITION. Stored graphs (R207 to R216), deadlines and fallbacks (R219 to R223), TAG (R144, R217, R262) and WATCH
(R358). -/

namespace Sys2Proof.Machine

/-! ## Images (R207, R208) -/

/-- The header of Table 8.1 in an object of `size` bytes. -/
def graphHeaderOk (img : List Word) (size : Nat) : Bool :=
  let n := imgNat img 24 4
  imgNat img 0 4 == 0x5247474B && imgNat img 4 2 == 1 && imgNat img 6 2 == 64 &&
  decide (1 ≤ imgSegs img ∧ imgSegs img ≤ 4096 ∧ imgLayers img ≤ 4096 ∧ imgArgs img ≤ 14) && imgNat img 13 3 == 0 &&
  imgNat img 16 4 % 8 == 0 && imgNat img 20 4 % 16 == 0 && (imgLayers img != 0 || imgNat img 20 4 == 0) &&
  decide (64 ≤ n ∧ n ≤ 2 ^ 26 ∧ n ≤ size) && (List.range 36).all (fun i => imgNat img (28 + i) 1 == 0)

/-- A segment lies in the image and its LENGTH is a buffer's. -/
def segOk (img : List Word) (i : Nat) : Bool :=
  let n := imgNat img 24 4
  imgSegOff img i % 8 == 0 && bufLenOk (imgSegLen img i) && decide (imgSegOff img i + imgSegLen img i ≤ n)

/-- A segment's words. -/
def segWordsOf (img : List Word) (i : Nat) : List Word := (img.drop (imgSegOff img i / 8)).take (imgSegLen img i / 8)

/-- Every handle a packet names resolves to a live generation: handle-form MREFs, and the graphs of GRAPH_RUN and
FALLBACK. -/
def handlesLive (c : Context) (ws : List Word) : Bool :=
  let h := hdrOf ws
  let live (x : Nat) : Bool := match resolveHandle c x with | .ok _ => true | .error _ => false
  (mrefsAt (opOf h) (flagsOf h)).all (fun e => bitAt (wordAt ws e.1) 63 || live (fld (wordAt ws e.1) 31 0)) &&
  (!(opOf h == 0x30 || opOf h == 0x33) || live (fld (wordAt ws 1) 31 0))

/-- The packet that begins at a word of a list of packets, and its number. -/
def pktAt : List (List Word) → Nat → Nat → Option (Nat × List Word)
  | [], _, _ => none
  | p :: ps, i, w => if w = 0 then some (i, p) else if w < p.length then none else pktAt ps (i + 1) (w - p.length)

/-- A layer-table entry points at a TAG of its layer. -/
def layerOk (img : List Word) (i : Nat) : Bool :=
  let (layer, seg, word, _) := imgLayer img i
  imgNat img (imgNat img 20 4 + 16 * i + 12) 4 == 0 && decide (seg < imgSegs img) &&
  (match pktAt (imgSegPkts img seg) 0 word with
   | some (_, p) => opOf (hdrOf p) == 0x40 && fld (wordAt p 1) 31 0 == layer
   | none => false)

/-- A valid image (R208) for a context. -/
def imageOk (s : State) (c size : Nat) (img : List Word) : Bool :=
  let n := imgNat img 24 4
  let x := s.ctx c
  graphHeaderOk img size && decide (imgNat img 16 4 + 8 * imgSegs img ≤ n ∧ imgNat img 20 4 + 16 * imgLayers img ≤ n) &&
  (List.range (imgSegs img)).all (fun i =>
    segOk img i && checkBuffer (if c = 0 then 1 else 0) 0 0 (segWordsOf img i) == ST_OK &&
    (imgSegPkts img i).all (handlesLive x)) &&
  (List.range (imgLayers img)).all (layerOk img)

/-! ## Patches (R212) -/

/-- One entry of a patch list applied to an image; none where it breaks R212. -/
def applyPatch (img : List Word) (e : List Byte) : Option (List Word) :=
  let idx := leNat ((e.drop 2).take 2)
  let off := leNat ((e.drop 4).take 4)
  let v := leNat ((e.drop 8).take 8)
  if e.getD 1 0 ≠ 0 then none
  else if e.getD 0 0 = 1 then
    if imgSegs img ≤ idx ∨ off % 8 ≠ 0 ∨ imgSegLen img idx < off + 8 then none
    else some (img.set ((imgSegOff img idx + off) / 8) (BitVec.ofNat 64 v))
  else if e.getD 0 0 = 2 then
    if imgLayers img ≤ idx ∨ off ≠ 0 ∨ 2 ^ 32 ≤ v then none
    else
      let i := (imgNat img 20 4 + 16 * idx + 8) / 8
      some (img.set i (BitVec.ofNat 64 (fld (wordAt img i) 63 32 * 2 ^ 32 + v)))
  else none

/-- Entries in list order. -/
def applyPatches : Nat → List Byte → List Word → Option (List Word)
  | 0, _, img => some img
  | n + 1, bs, img => match applyPatch img (bs.take 16) with
    | some i => applyPatches n (bs.drop 16) i
    | none => none

/-- A memory operand that says "none": virtual-address form with address 0. -/
def noneOp (a b : Word) : Bool := bitAt a 63 && b == 0

/-- The patch list: its entries' bytes and their number; a header that breaks R212 gives no list. -/
def readPatches (s : State) (q : Nat) (held : List Nat) (a b : Word) (m : MemView) : Except Status (Option (Nat × List Byte)) :=
  if noneOp a b then .ok (some (0, []))
  else match readKept s q held a b 16 m with
    | .error e => .error e
    | .ok h =>
      let n := leNat (h.take 2)
      if 4096 < n ∨ (h.drop 2).any (· != 0) then .ok none
      else match readKept s q held a b (16 + 16 * n) m with
        | .error e => .error e
        | .ok bs => .ok (some (n, bs.drop 16))

/-! ## GRAPH_PATCH (R211, R213) -/

/-- The handles a queue's packet holds. -/
def heldOf (s : State) (q : Nat) : List Nat := match s.job q with | some j => j.held | none => []

/-- Every graph record in use. -/
def graphCount (s : State) : Nat := s.graphs.length

/-- The next version number: after the last, 255 followed by 1, numbers of live slots skipped. -/
def nextVersion : Nat → List Nat → Nat → Nat
  | 0, _, v => v
  | n + 1, live, v =>
    let w := if v = 255 then 1 else v + 1
    if live.contains w then nextVersion n live w else w

/-- Release a slot's area: its granules go to zeroing and USED falls. -/
def releaseArea (s : State) (c : Nat) (x : GSlot) : State :=
  let y := s.ctx c
  toZeroing (s.setCtx c { y with used := y.used - x.grans.length }) y.part x.grans

/-- Step 4: a FREE slot, else the oldest SUPERSEDED without pins. -/
def patchSlot (r : Graph) : Option Nat :=
  match r.slots.findIdx? (fun x => x.st == .free) with
  | some i => some i
  | none =>
    let old := (List.range 4).filter (fun i => let x := r.slots.getD i GSlot.reset; x.st == .superseded && x.pins == 0)
    match old with
    | [] => none
    | i :: is => some (is.foldl (fun b k => if (r.slots.getD k GSlot.reset).order < (r.slots.getD b GSlot.reset).order then k else b) i)

/-- A GRAPH_PATCH completes with an operation status (Table 8.4): what it took goes back. -/
def failPatch (s : State) (q : Nat) (st : Status) : State := opStatus (dropPatch s q) q st

/-- Steps 5 to 7 with the source at hand: the slot is in STORING and the graph marked as being patched. -/
def finishPatch (s : State) (q i key slot : Nat) (src : List Word) (ws : List Word) (m : MemView) : State :=
  let c := (s.queue q).owner
  let x := s.ctx c
  let h := handleAt x i
  let bytes := imgNat src 24 4
  let n := ceilDiv bytes 65536
  let pool := poolOf s x.part c
  if x.quota < x.used + n then failPatch s q ST_ALLOC_QUOTA
  else if poolFree pool < n then
    if n ≤ poolFree pool + poolZeroing s pool then
      modJob { s with allocWait := s.allocWait ++ [.queue q] } q (fun j => { j with phase := .allocWait })
    else failPatch s q ST_ALLOC_NO_SPACE
  else
    let tb := takeTables n pool
    let s1 := putPool (s.setCtx c { x with used := x.used + n }) x.part tb.2
    let area : GSlot := { GSlot.reset with grans := tb.1 }
    match readPatches s1 q (heldOf s q) (wordAt ws 2) (wordAt ws 3) m with
    | .error e => faultJob (dropPatch (releaseArea s1 c area) q) q e
    | .ok none => failPatch (releaseArea s1 c area) q ST_GRAPH_PATCH
    | .ok (some (k, bs)) =>
      match applyPatches k bs src with
      | none => failPatch (releaseArea s1 c area) q ST_GRAPH_PATCH
      | some img =>
        if !(imageOk s1 c h.size img) then failPatch (releaseArea s1 c area) q ST_GRAPH_IMAGE
        else
          match s1.graph key with
          | none => s1
          | some r =>
            let live := (r.slots.filter (fun y => y.st == .newest || y.st == .superseded)).map (·.version)
            let v := nextVersion 8 live r.last
            let key' := match pageOf x h.base with | some p => p.key | none => 0
            let order := (r.slots.map (·.order)).foldl max 0 + 1
            let slots := (r.slots.map (fun y => if y.st == .newest then { y with st := .superseded } else y)).set slot
              { version := v, st := .newest, pins := 0, image := img, bytes := bytes, grans := tb.1, key := key', order := order }
            let s2 := s1.setGraph key (some { r with slots := slots, last := v })
            let ps := (List.range n).map (fun g => (tb.1.getD g 0 * 65536, key', min 65536 (bytes - 65536 * g)))
            match putPieces s2 (portQ s q) ps ((bytesOfWords img).take bytes) with
            | none => faultJob (dropPatch (releaseArea s1 c area) q) q ST_MEMORY_ERROR
            | some s3 => retireWith (dropPatch s3 q) q (fun j => setD j (fld (wordAt ws 1) 51 48) (BitVec.ofNat 64 v))

/-- The source of step 3: the stored version, or the object's image. -/
def patchSource (s : State) (c i key base : Nat) (m : MemView) : Except (Bool × Status) (List Word) :=
  let h := handleAt (s.ctx c) i
  match s.graph key with
  | some r =>
    match (if base = 0 then r.slots.find? (fun x => x.st == .newest)
           else r.slots.find? (fun x => (x.st == .newest || x.st == .superseded) && x.version == base)) with
    | some x => .ok x.image
    | none => if base = 0 ∧ r.slots.all (fun x => x.st != .newest) then readImage h else .error (false, ST_GRAPH_VERSION)
  | none => if base ≠ 0 then .error (false, ST_GRAPH_NOT_STORED) else readImage h
where
  /-- The object's image, whole. -/
  readImage (h : Handle) : Except (Bool × Status) (List Word) :=
    if h.size < 64 then .error (false, ST_GRAPH_NOT_STORED)
    else match vRead s c h.base 64 m with
      | .error e => .error (true, e)
      | .ok hd =>
        let hw := wordsOfBytes hd
        if !(graphHeaderOk hw h.size) then .error (false, ST_GRAPH_NOT_STORED)
        else match vRead s c h.base (imgNat hw 24 4) m with
          | .error e => .error (true, e)
          | .ok bs => .ok (wordsOfBytes bs)

/-- The slot that GRAPH_PATCH of this queue already holds in STORING, from before its wait for zeroing. -/
def storingSlot (s : State) (q key : Nat) : Option Nat :=
  match s.graph key with
  | some r => if r.patching = some q then r.slots.findIdx? (fun x => x.st == .storing) else none
  | none => none

/-- GRAPH_PATCH from step 3 on. -/
def patchFrom (s : State) (q i : Nat) (ws : List Word) (m : MemView) : State :=
  let c := (s.queue q).owner
  let key := graphKey c i
  match patchSource s c i key (fld (wordAt ws 1) 39 32) m with
  | .error (true, e) => faultJob (dropPatch s q) q e
  | .error (false, e) => failPatch s q e
  | .ok src =>
    match storingSlot s q key with
    | some slot => finishPatch s q i key slot src ws m
    | none =>
      match s.graph key with
      | none =>
        if 16384 ≤ graphCount s then opStatus s q ST_GRAPH_TABLE_FULL
        else
          let r : Graph := { slots := [{ GSlot.reset with st := .storing }, GSlot.reset, GSlot.reset, GSlot.reset], last := 0,
                             patching := some q }
          finishPatch (s.setGraph key (some r)) q i key 0 src ws m
      | some r =>
        match patchSlot r with
        | none => opStatus s q ST_GRAPH_VERSIONS_FULL
        | some slot =>
          let old := r.slots.getD slot GSlot.reset
          let s1 := if old.st == .superseded then releaseArea s c old else s
          let r1 := { r with slots := r.slots.set slot { GSlot.reset with st := .storing }, patching := some q }
          finishPatch (s1.setGraph key (some r1)) q i key slot src ws m

/-- Step 2 lets the GRAPH_PATCH of a queue pass: no other of the graph is in progress, and none has reached the step before
it. -/
def patchFree (s : State) (key q : Nat) : Bool :=
  (match s.graph key with
   | some r => r.patching.isNone || r.patching == some q
   | none => true) &&
  (match s.patchLine.find? (fun e => e.1 == key) with
   | some e => e.2 == q
   | none => true)

/-- A GRAPH_PATCH that waits at step 2 takes its turn. -/
def patchTurn (s : State) (q : Nat) : State :=
  match s.job q with
  | none => s
  | some j => match j.phase with
    | .patchWait key => if !s.halted && patchFree s key q then modJob s q (fun j => { j with phase := .run }) else s
    | _ => s

/-- A GRAPH_PATCH joins the line of its graph at step 2. -/
def patchWaits (s : State) (q key : Nat) : State :=
  modJob { s with patchLine := s.patchLine ++ [(key, q)] } q (fun j => { j with phase := .patchWait key })

/-- The handles GRAPH_PATCH holds from its resolution on: its graph's and its patch list's (R126, R211 step 1). -/
def holdPatch (s : State) (q : Nat) (ws : List Word) : Except Status (State × Nat) :=
  let c := (s.queue q).owner
  let hd := fld (wordAt ws 1) 31 0
  match (if (heldOf s q).contains (hIdx hd) then .ok (hIdx hd) else resolveHandle (s.ctx c) hd) with
  | .error e => .error e
  | .ok i =>
    let s1 := holdPacket s q (some i)
    if noneOp (wordAt ws 2) (wordAt ws 3) then .ok (s1, i)
    else match operandHandle (s.ctx c) (heldOf s q) (wordAt ws 2) (wordAt ws 3) 16 false with
      | .error e => .error e
      | .ok h => .ok (holdPacket s1 q h, i)

/-- GRAPH_PATCH. -/
def execGraphPatch (qb : BitVec 18) (m : MemView) (s : State) : Result :=
  packetRow (patchTurn s qb.toNat) qb.toNat 0x31 noTokens (fun s _ ws =>
    let q := qb.toNat
    match holdPatch s q ws with
    | .error e => faultJob s q e
    | .ok (s1, i) =>
      let key := graphKey (s.queue q).owner i
      if patchFree s1 key q then
        patchFrom { s1 with patchLine := s1.patchLine.filter (·.2 != q) } q i ws m
      else patchWaits s1 q key)

/-! ## GRAPH_RUN (R214) -/

/-- The slot a VERSION names. -/
def runSlot (r : Graph) (v : Nat) : Option Nat :=
  if v = 0 then newestSlot r
  else r.slots.findIdx? (fun x => (x.st == .newest || x.st == .superseded) && x.version == v)

/-- The frame at a packet of a segment of a stored version. -/
def graphFrame (img : List Word) (g slot seg h pc : Nat) : Frame :=
  { kind := .graph g slot seg h, pkts := imgSegPkts img seg, pc := pc, blocks := [], bytes := 0, va := imgSegOff img seg }

/-- Write a list of words to D0 upward. -/
def setArgs : Nat → List Word → Job → Job
  | _, [], j => j
  | i, w :: ws, j => setArgs (i + 1) ws (setD j i w)

/-- GRAPH_RUN: the version is pinned, the arguments enter D0 upward, and the segments execute one level down. An exception
of the processor that executes it halts the block (R351). -/
def execGraphRun (qb : BitVec 18) (m : MemView) (fw : FwRun) (s : State) : Result :=
  packetRow s qb.toNat 0x30 noTokens (fun s j ws =>
    let q := qb.toNat
    let c := (s.queue q).owner
    let s := traceInstructions s (s.queue q).home fw.proc.toNat c fw
    if fw.exception then haltBlock s 5 ST_OK q
    else match resolveHandle (s.ctx c) (fld (wordAt ws 1) 31 0) with
    | .error e => faultJob s q e
    | .ok i =>
      let key := graphKey c i
      match s.graph key with
      | none => opStatus s q ST_GRAPH_NOT_STORED
      | some r =>
        match runSlot r (fld (wordAt ws 1) 39 32) with
          | none => opStatus s q (if fld (wordAt ws 1) 39 32 = 0 then ST_GRAPH_NOT_STORED else ST_GRAPH_VERSION)
          | some slot =>
            if 16 ≤ j.stack.length - 1 then malformed (countRefused s q ST_NEST_DEPTH) q ST_NEST_DEPTH
            else
              let img := (gslot s key slot).image
              let n := imgArgs img
              let args : Except Status (List Word) :=
                if n = 0 then .ok []
                else if noneOp (wordAt ws 2) (wordAt ws 3) then .ok (List.replicate n 0)
                else (readOp s q (wordAt ws 2) (wordAt ws 3) (8 * n) m).map wordsOfBytes
              match args with
              | .error e => faultJob s q e
              | .ok vs =>
                let ah := argsHandle img j.stack
                let s0 := (i :: ah.toList).foldl (fun t x => holdHandle t c x) s
                let s1 := pinSlot s0 key slot (· + 1)
                let s2 := modJob s1 q (fun j =>
                  let k := setArgs 0 vs j
                  { k with idx := k.idx + 1, heldKeep := i :: ah.toList ++ k.heldKeep, decoded := false, priorCounted := false, schedCounted := false,
                           stack := graphFrame img key slot 0 i 0 :: k.stack,
                           run := if k.stack.any isGraph then k.run
                                  else some { gkey := key, slot := slot, index := 0, depth := k.stack.length, proc := fw.proc.toNat } })
                settle s2 q)

/-! ## Deadlines (R219 to R223) -/

/-- DEADLINE. -/
def execDeadline (q : BitVec 18) (s : State) : Result :=
  packetRow s q.toNat 0x32 noTokens (fun s j ws =>
    let t := (wordAt ws 1).toNat
    let d := if flagsOf (hdrOf ws) % 2 = 1 then t + s.now else t
    if j.dlDone then retire s q.toNat else retireWith s q.toNat (fun j => { j with deadline := some d }))

/-- FALLBACK. -/
def execFallback (qb : BitVec 18) (s : State) : Result :=
  packetRow s qb.toNat 0x33 noTokens (fun s j ws =>
    let q := qb.toNat
    let c := (s.queue q).owner
    let h := fld (wordAt ws 1) 31 0
    if j.dlDone then retire s q
    else match resolveHandle (s.ctx c) h with
      | .error e => faultJob s q e
      | .ok i =>
        if (s.graph (graphKey c i)).isNone then opStatus s q ST_GRAPH_NOT_STORED
        else retireWith s q (fun j => { j with fallback := some h }))

/-- A history lookup counts as a use of the entry. -/
def histTouch (s : State) (c g layer : Nat) : State :=
  match histFind s c g layer with
  | none => s
  | some h => { s with dl := { s.dl with hist := h :: s.dl.hist.filter (· != h) } }

/-- The estimate of one layer in ns. -/
def histEst (s : State) (c g layer est : Nat) : Nat :=
  match histFind s c g layer with
  | some h => h.ewma
  | none => est * 1000

/-- The entry of a layer table that a layer matches: at or after the index, else from entry 0. -/
def findLayer (img : List Word) (layer index : Nat) : Option Nat :=
  let is := (List.range (imgLayers img)).filter (fun i => (imgLayer img i).1 == layer)
  match is.find? (fun i => decide (index ≤ i)) with
  | some i => some i
  | none => is.head?

/-- The remaining time of a run at a layer, the run's new index, and the layers looked up. -/
def remaining (s : State) (c : Nat) (r : RunInfo) (layer : Nat) : Nat × Nat × List Nat :=
  let img := (gslot s r.gkey r.slot).image
  match findLayer img layer r.index with
  | none => (histEst s c r.gkey layer 0, r.index, [layer])
  | some i =>
    let rest := (List.range (imgLayers img)).drop i
    ((rest.map (fun j => histEst s c r.gkey (imgLayer img j).1 (imgLayer img j).2.2.2)).sum, i,
     rest.map (fun j => (imgLayer img j).1))

/-- Table 8.9's record of a predicted miss. -/
def recordMiss (s : State) (q layer predicted deadline outcome : Nat) : State :=
  { s with dl := { s.dl with last := BitVec.ofNat 64 (layer * 2 ^ 32 + q * 2 ^ 14 + (s.queue q).owner),
                             predicted := BitVec.ofNat 64 predicted, deadline := BitVec.ofNat 64 deadline, outcome := outcome,
                             switches := if outcome = 1 then s.dl.switches + 1 else s.dl.switches,
                             misses := if outcome = 1 then s.dl.misses else s.dl.misses + 1 } }

/-- The job's nested levels above its outermost run close: their versions are unpinned and their handles let go. -/
def closeNested (s : State) (q keep : Nat) : State :=
  match s.job q with
  | none => s
  | some j =>
    let up := j.stack.take (j.stack.length - keep)
    closeRuns q up j.stack (s.setJob q (some { j with stack := j.stack.drop (j.stack.length - keep) }))
where
  /-- Each graph run of a list of levels ends; `levels` is the stack from the same level on. -/
  closeRuns (q : Nat) : List Frame → List Frame → State → State
    | f :: up, _ :: levels, t =>
      let t1 := match f.kind with
        | .graph g i _ h => dropRun t q g i h levels
        | _ => t
      closeRuns q up levels t1
    | _, _, t => t

/-- The check at a boundary of the watched run (R220 to R223); true where the job switches and the TAG does not
execute. -/
def deadlineCheck (s : State) (q : Nat) (j : Job) (layer : Nat) : State × Bool :=
  match j.run, j.deadline with
  | some r, some d =>
    if j.dlDone then (s, false)
    else
      let c := (s.queue q).owner
      let (rem, i, used) := remaining s c r layer
      let pred := s.now + rem * (256 + bitsN s.dl.ctrl.toNat 7 0) / 256
      let s1 := used.foldl (fun t l => histTouch t c r.gkey l) { s with dl := { s.dl with checks := s.dl.checks + 1 } }
      let s2 := modJob s1 q (fun j => { j with run := some { r with index := i } })
      if pred ≤ d then (s2, false)
      else
        let s3 := modJob s2 q (fun j => { j with dlDone := true })
        match j.fallback with
        | none => (recordMiss s3 q layer pred d 2, false)
        | some h =>
          let got : Option Nat := match resolveHandle (s.ctx c) h with
            | .ok k => match s.graph (graphKey c k) with
              | some g => if (newestSlot g).isSome then some k else none
              | none => none
            | .error _ => none
          match got with
          | none => (recordMiss s3 q layer pred d 3, false)
          | some k =>
            let s4 := closeNested (recordMiss s3 q layer pred d 1) q (r.depth + 1)
            (modJob (holdHandle s4 c k) q (fun j =>
              { j with heldKeep := k :: j.heldKeep, idx := j.idx + 1, phase := .switchWait layer }), true)
  | _, _ => (s, false)

/-- FALLBACK_SWITCH: with every token of the job returned, the outermost run goes on in the fallback's newest version
(R222 steps 3 to 5). -/
def execFallbackSwitch (qb : BitVec 18) (s : State) : Result :=
  let q := qb.toNat
  match s.job q with
  | none => .next s
  | some j =>
    match j.phase, j.run, j.fallback, j.stack with
    | .switchWait layer, some r, some h, f :: fs =>
      let c := (s.queue q).owner
      let key := graphKey c (hIdx h)
      match s.graph key with
      | none => .next s
      | some g =>
        match newestSlot g with
        | none => .next s
        | some slot =>
          if s.halted || !tokensDone s q || !(sliceUp s (s.queue q).home) then .next s
          else
            let img := (gslot s key slot).image
            let entry := (List.range (imgLayers img)).find? (fun i => (imgLayer img i).1 == layer)
            let (seg, pc) := match entry with
              | some i =>
                let e := imgLayer img i
                (e.2.1, match pktAt (imgSegPkts img e.2.1) 0 e.2.2.1 with | some (k, _) => k | none => 0)
              | none => (0, 0)
            let s1 := pinSlot s key slot (· + 1)
            let s2 := match f.kind with | .graph g0 i0 _ _ => pinSlot s1 g0 i0 (· - 1) | _ => s1
            .next (settle (modJob s2 q (fun j =>
              { j with phase := .run, decoded := false, stack := graphFrame img key slot seg (hIdx h) pc :: fs,
                       run := some { r with gkey := key, slot := slot, index := 0 } })) q)
    | _, _, _, _ => .next s

/-! ## TAG -/

/-- The graph record of a job's outermost graph run. -/
def outerGraph (j : Job) : Option Nat :=
  ((j.stack.reverse.filterMap (fun f => match f.kind with | FrameKind.graph g _ _ _ => some g | _ => none))).head?

/-- TAG takes effect: identifiers, trace, and where the layer changes an epoch boundary, the partition's current layer and
in a graph run a layer boundary. -/
def takeTag (s : State) (q : Nat) (layer operator : W32) : State :=
  match s.job q with
  | none => s
  | some j =>
    let c := (s.queue q).owner
    let s1 := traceRec s 5 (s.queue q).home (some c) false (layer.toNat + operator.toNat * 2 ^ 32)
    if layer = j.layer then retireWith s1 q (fun j => { j with operator := operator })
    else
      let s2 := veldLayer s1 (partQ s1 q) layer
      let s3 := modJob s2 q (fun j =>
        { j with layer := layer, operator := operator, epochOpen := false, deferralPass := false,
                 layers := match outerGraph j with
                   | some g => j.layers.map (fun l => { l with passed := true }) ++
                               [{ gkey := g, layer := layer.toNat, start := s2.now, passed := false }]
                   | none => j.layers })
      retire (endLayers s3 q) q

/-- TAG. -/
def execTag (qb : BitVec 18) (s : State) : Result :=
  packetRow s qb.toNat 0x40 noTokens (fun s j ws =>
    let q := qb.toNat
    let layer := BitVec.ofNat 32 (fld (wordAt ws 1) 31 0)
    let operator := BitVec.ofNat 32 (fld (wordAt ws 1) 63 32)
    let chk := if layer ≠ j.layer ∧ (outerGraph j).isSome then deadlineCheck s q j layer.toNat else (s, false)
    if chk.2 then chk.1 else takeTag chk.1 q layer operator)

/-! ## WATCH -/

/-- WATCH: both operands are checked, and the watch is armed. -/
def execWatch (qb : BitVec 18) (s : State) : Result :=
  packetRow s qb.toNat 0x43 noTokens (fun s _ ws =>
    let q := qb.toNat
    let c := (s.queue q).owner
    let size := fld (wordAt ws 5) 31 0
    match resolveMref (s.ctx c) (wordAt ws 1) (wordAt ws 2) size false with
    | .error e => faultJob s q e
    | .ok _ =>
      match resolveMref (s.ctx c) (wordAt ws 3) (wordAt ws 4) (64 + size) true with
      | .error e => faultJob s q e
      | .ok _ =>
        if 16 ≤ (s.loe.watches.filter (fun w => w.ctx == c)).length then opStatus s q ST_WATCH_FULL
        else
          let w : Watch := { ctx := c, q := q, tensor := (wordAt ws 1, wordAt ws 2), dump := (wordAt ws 3, wordAt ws 4),
                             size := size, base := (s.queue q).step, step := fld (wordAt ws 5) 63 32 }
          retire { s with loe := { s.loe with watches := s.loe.watches ++ [w] } } q)

end Sys2Proof.Machine
end

