-- ==== Sys2Proof/Machine/Partitions.lean ====
section
/-! DEFINITION. Partitions: binding lists (R256 to R259), grid translation writes (R260, R261), the epoch swap (R262 to
R266), channel migration (R267 to R269), shares and slices (R272, R273) and pacing windows (R189). -/

namespace Sys2Proof.Machine

/-! ## Pacing windows (R189) -/

/-- The endpoints of a membership in window order: cores row-major, copy engines, links. -/
def paceEps (m : Members) : List Nat :=
  ((sortBy (fun a b => a.2.1 < b.2.1 || (a.2.1 == b.2.1 && a.1 ≤ b.1)) m.cores).map (·.2.2)) ++
  ((sortBy (fun a b => a.1 ≤ b.1) m.copies).map (·.2)) ++ ((sortBy (fun a b => a.1 ≤ b.1) m.links).map (·.2.1))

/-- One entry: SEQ, HELD, FREE. -/
def paceEntry (s : State) (seq e : Nat) : List Byte :=
  leBytes 2 (seq * 2 ^ 8 + b2n (s.ep e).held * 2 ^ 7 + (64 - epLoad s e))

/-- The number of a context's lines. -/
def paceLineCount (s : State) (c : Nat) : Nat := ceilDiv (boundCount (s.part (s.ctx c).part).active) 32

/-- Write one line of a context's window; a WRITE fault on its page loses the context. -/
def writePace (s : State) (c l : Nat) : State :=
  let x := s.ctx c
  if !(x.pace.getLsbD 0) || x.st != .active then s
  else
    let seq := ((tget (0, 0) x.paceLines l).2 + 1) % 256
    let es := ((paceEps (s.part x.part).active).drop (32 * l)).take 32
    let s1 := s.setCtx c { x with paceLines := tset (0, 0) x.paceLines l (s.now, seq) }
    match vWrite s1 8 c (x.pace.toNat / 64 * 64 % 2 ^ 57 + 64 * l) (padBytes 64 (es.flatMap (paceEntry s seq))) with
    | .ok t => count t pgECP 6
    | .error st =>
      if st = ST_MEMORY_ERROR then
        setErr s1 pgECP 29 (badWriteAddr s1 c (x.pace.toNat / 64 * 64 % 2 ^ 57 + 64 * l) 64)
      else loseContext (countXlt s1 st) c st none

/-- PACING_WINDOW_WRITE: a changed line is written. -/
def execPacingWindowWrite (c : BitVec 14) (line : Nat) (s : State) : Result :=
  if line < paceLineCount s c.toNat then .next (writePace s c.toNat line) else .next s

/-- Every line of every window of a partition's contexts (Table 10.4 step 6). -/
def paceAll (s : State) (p : Nat) : State :=
  (s.ctxs.filter (fun e => e.2.part == p && e.2.pace.getLsbD 0)).foldl (fun t e =>
    (List.range (paceLineCount t e.1)).foldl (fun u l => writePace u e.1 l) t) s

/-! ## Grid translation writes (R260, R261) -/

/-- The 16-bit entries of a membership's table; a position without a core or engine holds 0 (log 19). -/
def gridEntries (m : Members) : List Nat :=
  let unit (e : Option Nat) : Nat := match e with | some x => 0x8000 + x | none => 0
  (List.range (gridH m)).flatMap (fun y => (List.range (gridW m)).map (fun x => unit (coreAt m x y))) ++
  (List.range (extent (m.copies.map (·.1)))).map (fun i => unit (copyEp m i)) ++
  (List.range (extent (m.links.map (·.1)))).flatMap (fun i => match m.links.find? (fun l => l.1 == i) with
    | some l => [l.2.1, l.2.2]
    | none => [0, 0])

/-- The bytes of the table's entries. -/
def gridBytes (m : Members) : List Byte := (gridEntries m).flatMap (leBytes 2)

/-- Beat 0 without TAG and EXTRA_HUBS (Table 10.3). -/
def gridBeat (op p gen : Nat) (m : Members) : Nat :=
  1 + op * 2 ^ 8 + gen * 2 ^ 32 + gridW m * 2 ^ 64 + gridH m * 2 ^ 80 + extent (m.copies.map (·.1)) * 2 ^ 96 +
  extent (m.links.map (·.1)) * 2 ^ 112 + p * 2 ^ 144

/-- A grid translation write to a set of cores: 1 STAGE, 2 ACTIVATE, 3 CLEAR. -/
def gridWrite (s : State) (op p gen : Nat) (m : Members) (cores : List Nat) : State :=
  sendTagged s 2 cores (gridBeat op p gen m) (if op = 1 then wordsOfBytes (gridBytes m) else []) false (.tableWrite p op) noCtx

/-- Tokens of a partition's table writes of one operation are still waited for. -/
def tableOpen (s : State) (p op : Nat) : Bool :=
  s.lanes.any (fun l => l.2.recs.any (fun r => match r.2 with
    | some x => x.purpose == .tableWrite p op && x.await.any (fun e => !x.late.contains e)
    | none => false)) ||
  s.blockWait.any (fun m => m.purpose == .tableWrite p op)

/-! ## Memberships -/

/-- An entry of a binding list: the unit, and its X or index or position, and its Y or peer die. -/
structure BindEntry where
  unit : Nat
  a : Nat
  b : Nat
deriving DecidableEq, Repr

/-- An entry matches Table 10.1 for its KIND; an UNBIND entry has only bits [15:0]. -/
def bindEntry (kind : Nat) (un : Bool) (w : Word) : Option BindEntry :=
  let low := if kind = 3 then fld w 15 5 == 0 else fld w 15 14 == 0
  let rest := if un then fld w 63 16 == 0
    else if kind = 0 ∨ kind = 2 then fld w 63 48 == 0
    else if kind = 3 then fld w 63 32 == 0 && decide (fld w 31 16 ≤ 31)
    else fld w 63 32 == 0
  if low && rest then some { unit := if kind = 3 then fld w 4 0 else fld w 13 0, a := fld w 31 16, b := fld w 47 32 } else none

/-- The entry names a discovered unit of its kind. -/
def unitExists (s : State) (kind u : Nat) : Bool :=
  if kind = 3 then decide ((s.chan u).unit.st ≠ .fused) else (s.ep u).exist && (s.ep u).kind == kind

/-- The units of one kind in a membership. -/
def kindUnits (m : Members) (kind : Nat) : List Nat :=
  match kind with
  | 0 => m.cores.map (·.2.2)
  | 1 => m.copies.map (·.2)
  | 2 => m.links.map (·.2.1)
  | _ => m.chans.map (·.2)

/-- A membership without some units of one kind. -/
def dropUnits (m : Members) (kind : Nat) (us : List Nat) : Members :=
  match kind with
  | 0 => { m with cores := m.cores.filter (fun c => !us.contains c.2.2) }
  | 1 => { m with copies := m.copies.filter (fun c => !us.contains c.2) }
  | 2 => { m with links := m.links.filter (fun c => !us.contains c.2.1) }
  | _ => { m with chans := m.chans.filter (fun c => !us.contains c.2) }

/-- A membership with a list's entries. -/
def addUnits (m : Members) (kind : Nat) (es : List BindEntry) : Members :=
  match kind with
  | 0 => { m with cores := m.cores ++ es.map (fun e => (e.a, e.b, e.unit)) }
  | 1 => { m with copies := m.copies ++ es.map (fun e => (e.a, e.unit)) }
  | 2 => { m with links := m.links ++ es.map (fun e => (e.a, e.unit, e.b)) }
  | _ => { m with chans := m.chans ++ es.map (fun e => (e.a, e.unit)) }

/-- The places of one kind's members: positions of cores, indices, rotation positions. -/
def places (m : Members) (kind : Nat) : List (Nat × Nat) :=
  match kind with
  | 0 => m.cores.map (fun c => (c.1, c.2.1))
  | 1 => m.copies.map (fun c => (c.1, 0))
  | 2 => m.links.map (fun c => (c.1, 0))
  | _ => m.chans.map (fun c => (c.1, 0))

/-- No place occurs twice. -/
def distinct {α : Type} [BEq α] (l : List α) : Bool := l.eraseDups.length == l.length

/-- The staged membership as it stands, and its generation (R259). -/
def stagedOf (x : Part) : Members × W32 := x.staged.getD (x.active, x.activeGen + 1)

/-- The unit kind of a binding KIND. -/
def bindKind (kind : Nat) : UnitKind := if kind = 3 then .channel else .endpoint

/-! ## R269 -/

/-- A granule lies on one of a list of channels. -/
def onChans (s : State) (ms : List Nat) (g : Nat) : Bool := match chanOf s g with | some m => ms.contains m | none => false

/-- A channel holds a granule that migration may not move: of a page mapped HOST_VISIBLE or SYNC, or any of a context whose
partition spans other dies. -/
def chanPinned (s : State) (ms : List Nat) : Bool :=
  s.ctxs.any (fun c =>
    c.2.pages.any (fun e => onChans s ms e.2.gran && (e.2.hostVis || e.2.sync)) ||
    (c.2.st != .free && !(remoteDies s c.2.part).isEmpty && (ctxGranules s c.1).any (onChans s ms)))

/-! ## BIND and UNBIND (R258, R259) -/

/-- The checks of Table 10.2 after the partition's, in order. -/
def bindChecks (s : State) (p kind : Nat) (un : Bool) (es : List (Option BindEntry)) : Status :=
  let l := es.filterMap id
  let us := l.map (·.unit)
  let m := (stagedOf (s.part p)).1
  if es.any Option.isNone || !(us.all (unitExists s kind)) || !(distinct us) then ST_BIND_LIST
  else if un then
    if !(us.all (fun u => (kindUnits m kind).contains u)) then ST_BIND_LIST
    else if kind = 3 ∧ chanPinned s us then ST_CHANNEL_PINNED
    else ST_OK
  else
    let part (u : Nat) : Nat := if kind = 3 then (s.chan u).part else (s.ep u).part
    let elsewhere (u : Nat) : Bool := s.parts.any (fun x => x.1 != p && (match x.2.staged with
      | some g => (kindUnits g.1 kind).contains u
      | none => false))
    if us.any (fun u => part u != 255 || elsewhere u) then ST_UNIT_BOUND
    else if us.any (fun u => decide ((unitOf s (bindKind kind) u).st ≠ .healthy)) then ST_UNIT_STATE
    else if !(distinct (places (addUnits (dropUnits m kind us) kind l) kind)) then ST_BIND_LIST
    else ST_OK

/-- Units of a binding list whose owner changes are cleared before the STAGE (R307). -/
def bindOwners (s : State) (p kind : Nat) (us : List Nat) : State :=
  let o := ownerOf s p
  let k := bindKind kind
  let ch := us.filter (fun u => (unitOf s k u).owner != o)
  if ch.isEmpty then s
  else if kind = 3 then ch.foldl (fun t u => setUnit t k u { unitOf t k u with owner := o }) (count s pgNTC 7 ch.length)
  else clearUnits s p ch o

/-- A packet waiting at BIND or UNBIND ends: an operation status after a disagreement (R261), else it retires. -/
def bindDone (s : State) (p : Nat) : State :=
  let x := s.part p
  match x.binder with
  | none => s
  | some q =>
    if x.stageDue || tableOpen s p 1 then s
    else
      let s1 := s.setPart p { x with binder := none, ackFault := false }
      match s1.job q with
      | some j =>
        if j.phase ≠ .bindWait p then s1
        else if x.ackFault then opStatus s1 q ST_BIND_FAULT
        else rewriteCap (retire (count s1 pgSCH 0) q)
      | none => s1

/-- The staged table goes to every staged core once no clear is awaited. -/
def stageGo (s : State) (p : Nat) : State :=
  let x := s.part p
  if !x.stageDue || ownerClearing s p then s
  else
    let m := (stagedOf x).1
    let cores := m.cores.map (·.2.2)
    let s1 := s.setPart p { x with stageDue := false, unacked := cores }
    bindDone (gridWrite s1 1 p (stagedOf x).2.toNat m cores) p

/-- A list that has passed its checks is applied to the staged generation. -/
def applyBind (s : State) (q p kind : Nat) (un : Bool) (es : List BindEntry) : State :=
  let x := s.part p
  let g := stagedOf x
  let us := es.map (·.unit)
  let m := dropUnits g.1 kind us
  let m1 := if un then m else addUnits m kind es
  let s1 := s.setPart p { x with staged := some (m1, g.2), binder := some q, stageDue := true, ackFault := false }
  let s2 := modJob s1 q (fun j => { j with phase := .bindWait p })
  stageGo (rewriteCap (if un then s2 else bindOwners s2 p kind us)) p

/-- A granule move in flight for a partition: old granule. -/
def migrating (s : State) (p : Nat) : List Nat :=
  s.lanes.flatMap (fun l => l.2.recs.filterMap (fun r => match r.2 with
    | some x => match x.purpose with
      | .migrate p' _ old _ _ => if p' = p then some old else none
      | _ => none
    | none => none))

/-- Contexts with granules left on the channels an UNBIND removes. -/
def migLeft (s : State) (p : Nat) : List Nat :=
  let ms := (s.part p).migNow
  (s.ctxs.filter (fun c => c.2.pages.any (fun e => onChans s ms e.2.gran))).map (·.1)

/-- An UNBIND of channels goes on once nothing is left to move, or ends where the pool cannot supply (R268). -/
def migSettle (s : State) (p : Nat) : State :=
  let x := s.part p
  match (if x.swap.isSome then none else x.migrating) with
  | none => s
  | some q =>
    let left := migLeft s p
    if left.isEmpty then
      applyBind (s.setPart p { x with migrating := none, migNow := [] }) q p 3 true
        (x.migNow.map (fun m => { unit := m, a := 0, b := 0 }))
    else
      let live := left.filter (fun c => (s.ctx c).st == .active || (s.ctx c).st == .lost)
      let dry := live.all (fun c => let pool := poolOf s p c; poolFree pool + poolZeroing s pool == 0)
      if !live.isEmpty && dry && (migrating s p).isEmpty then
        opStatus (count (s.setPart p { x with migrating := none, migNow := [] }) pgSCH 1) q ST_ALLOC_NO_SPACE
      else s

/-- A BIND or UNBIND of a partition waits at its packet: for a pending swap (R259), or for an earlier one that awaits its
acknowledgements or moves granules (log 51). -/
def bindBusy (s : State) (p : Nat) : Bool :=
  let x := s.part p
  x.swap.isSome || x.binder.isSome || x.migrating.isSome

/-- A waiting BIND or UNBIND takes its turn. -/
def bindTurn (s : State) (q : Nat) : State :=
  match s.job q with
  | none => s
  | some j => match j.phase with
    | .swapWait p => if s.halted || bindBusy s p then s else modJob s q (fun j => { j with phase := .run })
    | _ => s

/-- BIND and UNBIND from their packet; the packet holds its list's handle (R126). -/
def bindPacket (s : State) (q : Nat) (ws : List Word) (un : Bool) (m : MemView) : State :=
  let w := wordAt ws 1
  let p := fld w 7 0
  let kind := fld w 9 8
  let n := fld w 31 16
  if p = 255 then opStatus (count s pgSCH 1) q ST_PARTITION_INVALID
  else match operandHandle (s.ctx (s.queue q).owner) (heldOf s q) (wordAt ws 2) (wordAt ws 3) (8 * n) false with
  | .error e => faultJob s q e
  | .ok h =>
    if bindBusy s p then modJob (holdPacket s q h) q (fun j => { j with phase := .swapWait p })
    else match readKept s q (heldOf s q) (wordAt ws 2) (wordAt ws 3) (8 * n) m with
    | .error e => faultJob s q e
    | .ok bs =>
      let s := holdPacket s q h
      let es := (wordsOfBytes bs).map (bindEntry kind un)
      let st := bindChecks s p kind un es
      if st ≠ ST_OK then opStatus (count s pgSCH 1) q st
      else
        let l := es.filterMap id
        if un && kind == 3 then
          let x := s.part p
          let us := l.map (·.unit)
          migSettle (modJob (s.setPart p { x with migrating := some q, migNow := us,
                                                  migChans := x.migChans ++ us.filter (fun u => !x.migChans.contains u) })
            q (fun j => { j with phase := .bindWait p })) p
        else applyBind s q p kind un l

/-- BIND. -/
def execBind (q : BitVec 18) (m : MemView) (s : State) : Result :=
  packetRow (bindTurn s q.toNat) q.toNat 0x83 noTokens (fun s _ ws => bindPacket s q.toNat ws false m)

/-- UNBIND. -/
def execUnbind (q : BitVec 18) (m : MemView) (s : State) : Result :=
  packetRow (bindTurn s q.toNat) q.toNat 0x84 noTokens (fun s _ ws => bindPacket s q.toNat ws true m)

/-! ## Channel migration (R268) -/

/-- A job's packets have not sent a grid-translated message since its last boundary, or have all executed. -/
def atBoundary (j : Job) : Bool := !(streamOpen j.phase) || (!j.epochOpen && !j.deferralPass)

/-- The jobs of a context all stand at boundaries. -/
def ctxQuiet (s : State) (c : Nat) : Bool :=
  s.jobs.all (fun e => (s.queue e.1).owner != c || (match e.2 with | some j => atBoundary j | none => true)) &&
  s.eps.all (fun e => e.2.cmds.all (fun x => x.2 != c))

/-- The key ID of a migrated page on its destination channel (Table 11.3). -/
def migKey (s : State) (p c : Nat) (e : PageEntry) (m : Nat) : Nat :=
  if e.key = 1 then 1 else if e.hostVis || !(isSealed s p) then 0 else (memKey s c m).getD 0

/-- Issue one granule's MOVE, if a zeroed granule, a slot and a record are at hand. -/
def moveGranule (s : State) (p c : Nat) (e : PageEntry) : Option State :=
  let pool := poolOf s p c
  match pool.take, zeroTarget s p with
  | some (m, g, pool'), some (ep, nx) =>
    let k := ep / 32 % 8
    match freeRec s k with
    | none => none
    | some r =>
      if !(slotFree s ep) || slotWanted s ep then none
      else
        let s1 := putPool (s.setPart p { s.part p with zeroNext := nx }) p pool'
        let s2 := putRec s1 k r { purpose := .migrate p c e.gran g (migKey s p c e m), ctx := noCtx, layer := 0, operator := 0, pidx := 0,
                                  await := [ep], held := [], since := s.now }
        some (sendCommand s2 k { ecmd := 2, tag := tagOf k r, ctx := noCtx, layer := 0, operator := 0, imemGen := 0, depWait := 0,
                                 depEp := none } [ep] (builtDesc [(1, 65536, 0, 1), (2, 65536, 1, 1)] []) []
                [(e.gran * 65536, e.key, 65536), (g * 65536, migKey s p c e m, 65536)])
  | _, _ => none

/-- Issue MOVEs for a list of pages, in order, as long as they can be issued. -/
def moveGranules : List PageEntry → Nat → Nat → State → State
  | [], _, _, s => s
  | e :: es, p, c, s => match moveGranule s p c e with
    | some t => moveGranules es p c t
    | none => s

/-- CHANNEL_MIGRATION: the context's jobs stand and its tokens are in, and its granules are copied; a channel under
retraining waits (R381). -/
def execChannelMigration (pb : BitVec 8) (cb : BitVec 14) (s : State) : Result :=
  let p := pb.toNat
  let c := cb.toNat
  let x := s.ctx c
  if (s.part p).migrating.isNone then .next s
  else if x.part ≠ p ∨ !(x.st = .active ∨ x.st = .lost) ∨ !(ctxQuiet s c) then .next (migSettle s p)
  else
    let busy := migrating s p
    let idle (g : Nat) : Bool := match chanOf s g with | some m => (s.chan m).retrainBy.isNone | none => false
    let es := (x.pages.map (·.2)).filter (fun e => onChans s (s.part p).migNow e.gran && !busy.contains e.gran && idle e.gran)
    .next (migSettle (moveGranules es p c s) p)

/-- A granule's MOVE has returned its token: the page takes its new granule and the old one goes to zeroing; a move that
failed leaves the page where it was. -/
def migrated (s : State) (p c old new key : Nat) (ok : Bool) : State :=
  let x := s.ctx c
  match x.pages.find? (fun e => e.2.gran == old) with
  | some (n, e) =>
    if ok then
      let x1 := { x with pages := tput x.pages n { e with gran := new, key := key, large := false } }
      migSettle (toZeroing (count (count (s.setCtx c x1) pgSCH 4) pgXLT 6) p [old]) p
    else migSettle (toZeroing s p [new]) p
  | none => migSettle (toZeroing s p [new]) p

/-! ## The swap (R263 to R266) -/

/-- Numbers run from 0 without gaps. -/
def gapless (l : List Nat) : Bool := distinct l && extent l == l.length

/-- Every unit of a membership. -/
def allHealthy (s : State) (m : Members) : Bool :=
  (memberEps m).all (fun e => decide ((s.ep e).unit.st = .healthy)) && m.chans.all (fun c => decide ((s.chan c.2).unit.st = .healthy))

/-- The staged membership forms a valid grid (R263 check 2). -/
def gridValid (s : State) (x : Part) (m : Members) : Bool :=
  gridW m * gridH m == m.cores.length && decide (m.cores.length ≤ 8192) && distinct (places m 0) &&
  gapless (m.copies.map (·.1)) && gapless (m.links.map (·.1)) && x.unacked.isEmpty && !x.stageDue && allHealthy s m

/-- EPOCH_SWAP: the checks, and then the swap is pending. -/
def execEpochSwap (qb : BitVec 18) (s : State) : Result :=
  packetRow s qb.toNat 0x85 noTokens (fun s _ ws =>
    let q := qb.toNat
    let p := fld (wordAt ws 1) 7 0
    let x := s.part p
    let refuse (st : Status) : State := opStatus (count s pgSCH 3) q st
    match x.staged with
    | none => refuse ST_EPOCH_GENERATION
    | some (m, g) =>
      if g.toNat ≠ fld (wordAt ws 1) 63 32 ∨ x.swap.isSome then refuse ST_EPOCH_GENERATION
      else if !(gridValid s x m) then refuse ST_EPOCH_INVALID
      else if isSealed s p && !(logRoom s p 1) then refuse ST_MEASURE_FULL
      else modJob (s.setPart p { x with swap := some (q, g) }) q (fun j => { j with phase := .swapWait p }))

/-- The jobs of a partition. -/
def partJobs (s : State) (p : Nat) : List (Nat × Job) :=
  s.jobs.filterMap (fun e => match e.2 with
    | some j => if (s.ctx (s.queue e.1).owner).part = p then some (e.1, j) else none
    | none => none)

/-- No command of an active member and no Fan stream of a partition is outstanding. -/
def partQuiet (s : State) (p : Nat) : Bool :=
  (memberEps (s.part p).active).all (fun e => (s.ep e).cmds.isEmpty) &&
  s.fans.all (fun f => f.2.streams.all (fun x => (s.ctx x.ctx).part != p))

/-- Units named by one membership and not by another change partition. -/
def moveUnits (s : State) (old new : Members) (p : Nat) : State :=
  let oldE := memberEps old
  let newE := memberEps new
  let s1 := (oldE.filter (fun e => !newE.contains e)).foldl (fun t e => t.setEp e { t.ep e with part := 255 }) s
  let s2 := newE.foldl (fun t e => t.setEp e { t.ep e with part := p }) s1
  let oldC := old.chans.map (·.2)
  let newC := new.chans.map (·.2)
  let s3 := (oldC.filter (fun c => !newC.contains c)).foldl (fun t c => t.setChan c { t.chan c with part := 255 }) s2
  bindMhz (newC.foldl (fun t c => t.setChan c { t.chan c with part := p }) s3) p

/-- Steps 4 to 6 of Table 10.4. -/
def finishSwap (s : State) (p : Nat) : State :=
  let x := s.part p
  match x.swap, x.staged with
  | some (q, _), some (m, g) =>
    let gone := (x.active.chans.map (·.2)).filter (fun c => !(m.chans.map (·.2)).contains c)
    let x1 := { x with active := m, activeGen := g, staged := none, unacked := [], swap := none, swapLate := none,
                       minGbps := x.minGbps.filter (fun e => !gone.contains e.1),
                       migChans := x.migChans.filter (fun c => !gone.contains c) }
    let s1 := moveUnits (s.setPart p x1) x.active m p
    let s2 : State := match s1.job q with
      | some j => if j.phase = Phase.swapWait p then retire s1 q else s1
      | none => s1
    migSettle (paceAll (rewriteCap (count s2 pgSCH 2)) p) p
  | _, _ => s

/-- Step 3: every token of steps 1 and 2 has come or is no longer waited for. -/
def swapSettle (s : State) (p : Nat) : State :=
  if (s.part p).swapLate.isSome && !(tableOpen s p 2) && !(tableOpen s p 3) then finishSwap s p else s

/-- EPOCH_SWAP_TAKE_EFFECT: every job stands, every token is in, every stream has ended, and Table 10.4 runs. -/
def execEpochSwapTakeEffect (pb : BitVec 8) (s : State) : Result :=
  let p := pb.toNat
  let x := s.part p
  match x.swap, x.staged, x.swapLate with
  | some _, some (m, g), none =>
    if s.halted || !((partJobs s p).all (fun j => atBoundary j.2)) || !(partQuiet s p) then .next s
    else
      let s1 := appendLog s p 5 0 0 0 0 0 (sha384 (gridBytes m))
      let cores := m.cores.map (·.2.2)
      let leave := (x.active.cores.map (·.2.2)).filter (fun e => !cores.contains e)
      let s2 := s1.setPart p { s1.part p with swapLate := some (cores.length + leave.length) }
      let s3 := disarmAll (gridWrite s2 2 p g.toNat m cores) leave
      .next (swapSettle (gridWrite s3 3 p g.toNat m leave) p)
  | _, _, _ => .next s

/-- SWAP_DEFERRAL: every job not held stands at a fence and nothing else runs, and the held jobs go on for one layer. -/
def execSwapDeferral (pb : BitVec 8) (s : State) : Result :=
  let p := pb.toNat
  let x := s.part p
  let js := partJobs s p
  let held := js.filter (fun j => heldBySwap s p j.2)
  if x.swap.isNone || x.swapLate.isSome || held.isEmpty || !(partQuiet s p) ||
     !(js.all (fun j => heldBySwap s p j.2 || j.2.phase == .fence)) then .next s
  else
    let s1 := s.setPart p { x with deferrals := x.deferrals + 1 }
    .next (held.foldl (fun t j => modJob t j.1 (fun k => { k with deferralPass := true })) s1)

/-! ## Disagreements of table writes (R261, R265) -/

/-- A core disagrees with a table write: it is SUSPECT; a STAGE of BIND or UNBIND then completes with ST_BIND_FAULT. -/
def tableFault (s : State) (p op e : Nat) : State :=
  let was := (s.ep e).unit.st
  let s1 := setSuspect s .endpoint e (classOf ST_BIND_FAULT) true
  let s2 := if was = .healthy then count s1 pgSCH 7 else s1
  if op = 1 then s2.setPart p { s2.part p with ackFault := true } else s2

/-- What waited for a partition's table writes goes on. -/
def tableSettle (s : State) (p : Nat) : State := swapSettle (bindDone s p) p

/-- The table-write records that still wait for an endpoint's token: lane, place, record, partition, operation. -/
def owedTables (s : State) (e : Nat) : List (Nat × Nat × LaunchRec × Nat × Nat) :=
  s.lanes.flatMap (fun l => l.2.recs.filterMap (fun r => match r.2 with
    | some x => match x.purpose with
      | .tableWrite p op => if x.await.contains e && !x.late.contains e then some (l.1, r.1, x, p, op) else none
      | _ => none
    | none => none))

/-- One of them waits no longer for the token, which may still come. -/
def tableLate (e : Nat) (t : State) (h : Nat × Nat × LaunchRec × Nat × Nat) : State :=
  let (k, r, x, p, op) := h
  tableSettle (tableFault (putRec t k r { x with late := e :: x.late }) p op e) p

/-- TABLE_WRITE_TIMEOUT: the tokens of table writes an endpoint owes are no longer waited for. -/
def execTableWriteTimeout (eb : BitVec 14) (s : State) : Result :=
  .next ((owedTables s eb.toNat).foldl (tableLate eb.toNat) s)

/-! ## Shares and slices (R272, R273) -/

/-- SET_SHARES. -/
def execSetShares (qb : BitVec 18) (s : State) : Result :=
  packetRow s qb.toNat 0x86 noTokens (fun s _ ws =>
    let q := qb.toNat
    let w := wordAt ws 1
    let c := fld w 13 0
    let x := s.ctx c
    if ¬(x.st = .active ∨ x.st = .lost) then opStatus s q ST_CONTEXT_INVALID
    else if fld w 31 16 = 0 then opStatus s q ST_SHARES_PARAM
    else retire (s.setCtx c { x with weight := fld w 31 16, slice := fld w 47 32 }) q)

/-- SLICE_END: the scheduler decides; a partition with one eligible context has no slices. -/
def execSliceEnd (p : BitVec 8) (s : State) : Result :=
  if (s.part p.toNat).cur.isSome && decide (1 < (eligibles s p.toNat).length) && !s.halted then .next (decideSched s p.toNat)
  else .next s

end Sys2Proof.Machine
end

