-- ==== Sys2Proof/Machine/Regulation.lean ====
section
/-! DEFINITION. Bandwidth regulation: REGULATOR_SET (R275), master classes (R276), the credit interval (R277) and stale
reports (R57). -/

namespace Sys2Proof.Machine

/-! ## REGULATOR_SET (R275) -/

/-- REGULATOR_SET. -/
def execRegulatorSet (qb : BitVec 18) (s : State) : Result :=
  packetRow s qb.toNat 0x87 noTokens (fun s _ ws =>
    let q := qb.toNat
    let w := wordAt ws 1
    let p := fld w 7 0
    let x := s.part p
    let ms := bitList 32 (fld w 63 32)
    let g := fld w 31 16
    let bound := x.active.chans.map (·.2)
    if !(ms.all (fun m => bound.contains m)) then opStatus (count s pgBWR 3) q ST_REG_CHANNEL
    else if ms.any (fun m => decide ((s.chan m).gbps * 9 / 10 < g)) then opStatus (count s pgBWR 3) q ST_REG_ADMISSION
    else retire (count (s.setPart p { x with minGbps := ms.foldl (fun t m => tset 0 t m g) x.minGbps,
                                             maxOut := fld (wordAt ws 2) 9 0 }) pgBWR 2) q)

/-! ## Classes (R276) -/

/-- A master's class. -/
inductive MasterClass where
  | part (p : Nat)
  | shared
  | block
  | idle
deriving DecidableEq, Repr

/-- The class of a master: hubs 0 to 511, memory ports above. -/
def classOfMaster (s : State) (m : Nat) : MasterClass :=
  if 512 ≤ m then .block
  else
    let es := hubEps s m
    let ps := ((es.map (fun e => (s.ep e).part)).filter (· != 255)).eraseDups
    match ps with
    | [] => .idle
    | p :: rest =>
      if !rest.isEmpty || es.any (fun e => (s.ep e).kind == 2) then .shared else .part p

/-! ## The credit interval (R277) -/

/-- Fields of BWR_CTRL (Table 10.9). -/
def lat0Of (s : State) : Nat := bitsN s.bwrCtrl.toNat 31 24 * 4
def lowOf (s : State) : Nat := bitsN s.bwrCtrl.toNat 23 12
def highOf (s : State) : Nat := let h := bitsN s.bwrCtrl.toNat 11 0; if h ≤ lowOf s then lowOf s + 1 else h

/-- The occupancy the regulation controller uses: a stale channel's queues count as full. -/
def occOf (c : Channel) (m : Nat) : Nat := if c.stale then Config.fullOcc m else max c.occRd c.occWr

/-- Channels the block has. -/
def liveChans (s : State) : List Nat := (s.chans.filter (fun c => decide (c.2.unit.st ≠ .fused))).map (·.1)

/-- A fraction, numerator and denominator. -/
abbrev Frac := Nat × Nat

/-- A channel's latency in ns: lat0 + o * 64 / bw. -/
def latOf (s : State) (m : Nat) : Frac :=
  let c := s.chan m
  if c.gbps = 0 then (lat0Of s, 1) else (lat0Of s * c.gbps + occOf c m * 64, c.gbps)

/-- The larger of two fractions. -/
def maxFrac (a b : Frac) : Frac := if a.1 * b.2 < b.1 * a.2 then b else a

/-- A channel's throttle after the interval, and its counters. -/
def throttle (s : State) (m : Nat) : State :=
  let c := s.chan m
  let full := c.stale || decide (highOf s ≤ occOf c m)
  let f := if full then max (c.f - 2) 1 else if occOf c m ≤ lowOf s then min (c.f + 1) 16 else c.f
  let s1 := s.setChan m { c with f := f }
  let s2 := if full then count s1 pgBWR 1 else s1
  if c.stale then count s2 pgBWR 7 else s2

/-- Partitions that hold a unit. -/
def livePartitions (s : State) : List Nat := (s.parts.filter (fun p => decide (p.1 ≠ 255) && partUsed p.2)).map (·.1)

/-- lim[p]: ceil(rate[p] * L / 64), clamped. -/
def partLimit (s : State) (active : List Nat) (p : Nat) : Nat :=
  let x := s.part p
  let cs := x.active.chans.map (·.2)
  let bw := (cs.map (fun m => (s.chan m).gbps)).sum
  let g := (cs.map (fun m => tget 0 x.minGbps m)).sum
  let f := cs.foldl (fun a m => min a (s.chan m).f) 16
  let l := cs.foldl (fun a m => maxFrac a (latOf s m)) (0, 1)
  let n := max 1 (active.filter (fun m => classOfMaster s m == .part p)).length
  let lim := ceilDiv ((16 * g + f * (bw - g)) * l.1) (16 * n * 64 * l.2)
  min (max 1 lim) (if x.maxOut = 0 then 1023 else x.maxOut)

/-- The limit of the die's highest-rate channel, for link hubs: its bandwidth times its latency (log 20). -/
def chanLimit (s : State) : Nat :=
  let best := (liveChans s).foldl (fun (b : Option Nat) m => match b with
    | none => some m
    | some k => if (s.chan k).gbps < (s.chan m).gbps then some m else some k) none
  match best with
  | none => 1
  | some m => let l := latOf s m; min (max 1 (ceilDiv ((s.chan m).gbps * l.1) (64 * l.2))) 1023

/-- A master's limit. -/
def masterLimit (s : State) (lims : List (Nat × Nat)) (m : Nat) : Nat :=
  let of (p : Nat) : Nat := match lims.find? (fun l => l.1 == p) with | some l => l.2 | none => 1
  match classOfMaster s m with
  | .part p => of p
  | .shared =>
    if (hubEps s m).any (fun e => (s.ep e).kind == 2) then chanLimit s
    else ((((hubEps s m).map (fun e => (s.ep e).part)).filter (· != 255)).map of).foldl min 1023
  | .block => max 16 (match lims.map (·.2) with | [] => 16 | l :: ls => ls.foldl min l)
  | .idle => 16

/-- One master's limit stands, and its units count. -/
def sendLimit (s : State) (lims : List (Nat × Nat)) (m : Nat) : State :=
  let l := masterLimit s lims m
  let s1 := { s with limits := tset 16 s.limits m l }
  match classOfMaster s m with
  | .part _ => count s1 pgBWR 4 l
  | .shared => count s1 pgBWR 5 l
  | .block => count s1 pgBWR 6 l
  | .idle => s1

/-- The beats of an interval: two masters each (R58, Table 2.16). -/
def creditBeats (s : State) (lims : List (Nat × Nat)) : List Out :=
  (List.range 262).map (fun i => .credit (2 * i) (masterLimit s lims (2 * i)) (2 * i + 1) (masterLimit s lims (2 * i + 1)))

/-- CREDIT_INTERVAL: `active` names the masters that held an outstanding transaction. The block's ports then let go what
their new limits admit (R58). -/
def execCreditInterval (active : List (BitVec 10)) (s : State) : Result :=
  if !s.bsn.spineAwake then .next s
  else
    let s1 := (liveChans s).foldl throttle (count s pgBWR 0)
    let act := active.map (·.toNat)
    let lims := (livePartitions s1).map (fun p => (p, partLimit s1 act p))
    .next ((List.range 12).foldl releasePort (emits ((List.range 524).foldl (fun t m => sendLimit t lims m) s1) (creditBeats s1 lims)))

/-- CHANNEL_REPORT_STALE. -/
def execChannelReportStale (cb : BitVec 5) (s : State) : Result :=
  .next (s.setChan cb.toNat { s.chan cb.toNat with stale := true })

end Sys2Proof.Machine
end

