-- ==== Sys2Proof/Machine/Units.lean ====
section
/-! DEFINITION. Units in service: self-tests and known-answer runs (R373, R377, R378, R392), partial resets (R379) and
retraining (R380, R381), and the level reports that steer it (R57). -/

namespace Sys2Proof.Machine

/-! ## Naming units -/

/-- The table key of a unit by its kind and ID (R374). -/
def unitKey (s : State) (k : UnitKind) (n : Nat) : Nat :=
  match k with
  | .link => (linkEp s n).getD 16383
  | _ => n

/-- The kind a number names (R374). -/
def kindOfNo (n : Nat) : UnitKind := if n = 0 then .endpoint else if n = 1 then .hub else if n = 2 then .channel else .link

/-- The endpoints of a unit: an endpoint itself, a hub's endpoints. -/
def unitEps (s : State) (k : UnitKind) (u : Nat) : List Nat :=
  match k with
  | .endpoint => [u]
  | .link => [u]
  | .hub => hubEps s u
  | .channel => []

/-- The partitions a unit is bound to. -/
def unitParts (s : State) (k : UnitKind) (u : Nat) : List Nat :=
  match k with
  | .channel => if (s.chan u).part = 255 then [] else [(s.chan u).part]
  | _ => (((unitEps s k u).map (fun e => (s.ep e).part)).filter (· != 255)).eraseDups

/-- A unit is under a reset or a retraining (note 42 of Table 15.3). -/
def unitBusy (s : State) (k : UnitKind) (u : Nat) : Bool :=
  match k with
  | .channel => (s.chan u).retrainBy.isSome
  | _ => (unitEps s k u).any (fun e => resetting s e || s.per.retraining.any (fun r => linkEp s r.1 == some e))

/-- A firmware activation is in progress: SELFTEST, RETRAIN and UNIT_RESET of LEVEL 0 to 2 wait (note 40). -/
def activating (s : State) : Bool := s.swb.fwActive.isSome

/-- The words of the packet of an opcode that a job stands at, if it will execute there. -/
def standsAt (s : State) (q op : Nat) : Option (List Word) :=
  match s.job q with
  | some j => match curPkt j with
    | some ws => if decide (j.phase = .run) && opOf (hdrOf ws) == op && predOn j (hdrOf ws) then some ws else none
    | none => none
  | none => none

/-- A packet row that waits, without executing, while a test of its packet's words holds. -/
def waitRow (s : State) (q op : Nat) (wait : List Word → Bool) (f : State → Job → List Word → State) : Result :=
  match standsAt s q op with
  | some ws => if wait ws then .next s else packetRow s q op noTokens f
  | none => packetRow s q op noTokens f

/-! ## Known-answer runs (R373, R378) -/

/-- An endpoint type's entry in the known-answer table, and the runs it states: COLD_RUNS, or WARM_RUNS, which a run in
service takes as well (log 26). -/
def karEntry (s : State) (kind : Nat) : List Byte := (s.swb.kar.drop (128 * kind)).take 128
def karRuns (s : State) (cold : Bool) (kind : Nat) : Nat := hdrNat (karEntry s kind) (if cold then 16 else 18) 2

/-- The digests that the runs of a set of endpoints must give. -/
def runDigests (s : State) (cold : Bool) (es : List Nat) : List (List Byte) :=
  es.flatMap (fun e => List.replicate (karRuns s cold (s.ep e).kind) ((((karEntry s (s.ep e).kind).drop 32).take 48)))

/-- A run passes: every digest matches (R373), or a channel's patterns read back (R378). -/
def runPasses (s : State) (cold : Bool) (k : UnitKind) (u : Nat) (r : RunResult) : Bool :=
  match k, r with
  | .channel, .patterns ok => ok
  | .channel, _ => false
  | _, .outputs os => os.map sha384 == runDigests s cold (unitEps s k u)
  | _, _ => false

/-- The load of a compute core's instruction memory with generation 0xFFFF (R373 step 1). -/
def karLoad (s : State) (e : Nat) : State :=
  let h := s.swb.kar.drop (hdrNat (karEntry s 0) 0 4)
  let n := bodyBytes h
  let s1 := sendRuns s (e / 32 % 8) 1 [e] (0x01 + 0xFFFF * 2 ^ 16 + n * 2 ^ 32) []
  sendRuns (sendData (e / 32 % 8) [e] (n / 256 + 1) ((h.drop 128).take n) 0 s1) (e / 32 % 8) 1 [e] (0x03 + 0xFFFF * 2 ^ 16) []

/-- The descriptor of a type's run. -/
def karDesc (s : State) (kind : Nat) : List Word :=
  let ws := wordsOfBytes ((s.swb.kar.drop (hdrNat (karEntry s kind) 4 4)).take 1024)
  ws.take (argBase ws + descArgs ws)

/-- The messages of an endpoint's run (R373 steps 1 and 2): the load, and the descriptor the stated number of times, under a
tag of its lane's next record, whose tokens the run's outcome stands for. -/
def karMessages (s : State) (cold : Bool) (e : Nat) : State :=
  let k := (s.ep e).kind
  let lane := e / 32 % 8
  let s1 := if k = 0 then karLoad s e else s
  let h : CmdHead := { ecmd := if k = 0 then 1 else if k = 1 then 2 else 4, tag := tagOf lane ((freeRec s lane).getD 0), ctx := noCtx,
                       layer := 0, operator := 0, imemGen := if k = 0 then 0xFFFF else 0, depWait := 0, depEp := none }
  (List.range (karRuns s cold k)).foldl (fun t _ => commandMsgs t lane h [e] (karDesc s k) [] (Config.karSegs k)) s1

/-- What a run leaves behind (R373 step 4, R393): the clear with IMEM and SPAD, whose token nobody's job awaits. -/
def runClear (s : State) (k : UnitKind) (u : Nat) : State :=
  match k with
  | .endpoint => sendTagged s 3 [u] 0x03 [clearWord false true true wholeSpad.1 wholeSpad.2] true .test noCtx
  | .hub => sendTagged s 3 (hubEps s u) 0x03 [clearWord false true true wholeSpad.1 wholeSpad.2] true .test noCtx
  | _ => s

/-- A unit's run is decided (Tables 14.7 and 15.5). -/
def applyRun (s : State) (k : UnitKind) (u : Nat) (r : RunResult) : State :=
  let s1 := runClear ((unitEps s k u).foldl (fun t e => karMessages t false e) (count s pgSWB 0)) k u
  let s2 := if r = .timeout then setErr s1 pgSWB 2 (unitId s k u) else s1
  let x := unitOf s2 k u
  let s3 := setUnit s2 k u { x with karPending := false, restage := false }
  if runPasses s false k u r then
    match x.st with
    | .suspect => setUnitState s3 k u .healthy x.cause
    | .defect => if unitParts s k u = [] then setUnitState (appendDefect s3 true k (unitId s k u) 0xFF 0) k u .healthy x.cause else s3
    | _ => s3
  else setDefect (count s3 pgSWB 1) k u 0x61

/-- The outcome of a SELFTEST for its job. -/
def endTest (s : State) (q : Nat) (passed : Bool) : State :=
  let s1 := count s pgSWB 4
  if passed then retire s1 q else opStatus s1 q ST_SELFTEST_FAILED

/-- Jobs whose SELFTEST waits for a unit's run. -/
def testers (s : State) (k : UnitKind) (u : Nat) : List Nat :=
  (s.jobs.filter (fun e => match e.2 with
    | some j => decide (j.phase = .unitWait k u) && (match curPkt j with | some ws => opOf (hdrOf ws) == 0x88 | none => false)
    | none => false)).map (·.1)

/-- The active table of a partition is staged and activated again in a core (Table 15.5 step 3). -/
def restage (s : State) (e : Nat) : State :=
  let p := (s.ep e).part
  if p = 255 then s
  else
    let x := s.part p
    let b (op : Nat) : Nat := gridBeat op p x.activeGen.toNat x.active
    sendTagged (sendTagged s 2 [e] (b 1) (wordsOfBytes (gridBytes x.active)) false .test noCtx) 2 [e] (b 2) [] false .test noCtx

/-- A unit is run, and the SELFTESTs that wait for the run complete. -/
def runUnit (s : State) (k : UnitKind) (u : Nat) (r : RunResult) : State :=
  let s0 := if (unitOf s k u).restage then (unitEps s k u).foldl restage s else s
  (testers s k u).foldl (fun t q => endTest t q (runPasses s false k u r)) (applyRun s0 k u r)

/-- A partition stands as a swap requires (R264), and no swap of it runs. -/
def stands (s : State) (p : Nat) : Bool :=
  (partJobs s p).all (fun j => atBoundary j.2) && partQuiet s p && (s.part p).swap.isNone

/-- BOUNDARY_KNOWN_ANSWER_RUN: a pending run at its partitions' boundary; an unbound unit is run at once. -/
def execBoundaryKnownAnswerRun (k : UnitKind) (n : BitVec 14) (r : RunResult) (s : State) : Result :=
  let u := unitKey s k n.toNat
  if s.halted || !(unitOf s k u).karPending || unitBusy s k u || !((unitParts s k u).all (stands s)) then .next s
  else .next (runUnit s k u r)

/-- KNOWN_ANSWER_RUN_TIMEOUT: a token of a pending unit's run did not return within 10 ms. -/
def execKnownAnswerRunTimeout (k : UnitKind) (n : BitVec 14) (s : State) : Result :=
  let u := unitKey s k n.toNat
  if s.halted || !(unitOf s k u).karPending || unitBusy s k u || !((unitParts s k u).all (stands s)) then .next s
  else .next (runUnit s k u .timeout)

/-- KIND and UNIT of SELFTEST. -/
def testUnit (s : State) (ws : List Word) : UnitKind × Nat :=
  let k := kindOfNo (fld (wordAt ws 1) 1 0)
  (k, unitKey s k (fld (wordAt ws 1) 29 16))

/-- PAUSE_OK of a partition (Table 10.8). -/
def pauseOk (s : State) (p : Nat) : Bool := (s.part p).ctrl.getLsbD 0

/-- SELFTEST (Table 14.8). -/
def execSelftest (qb : BitVec 18) (r : RunResult) (s : State) : Result :=
  let q := qb.toNat
  waitRow s q 0x88 (fun ws => let t := testUnit s ws; activating s || unitBusy s t.1 t.2 || (unitOf s t.1 t.2).karPending) (fun s _ ws =>
    let t := testUnit s ws
    let x := unitOf s t.1 t.2
    let ps := unitParts s t.1 t.2
    if x.st = .fused then opStatus s q ST_UNIT_STATE
    else if ps = [] then endTest (applyRun s t.1 t.2 r) q (runPasses s false t.1 t.2 r)
    else if ps.all (pauseOk s) then
      modJob (setUnit s t.1 t.2 { x with karPending := true }) q (fun j => { j with phase := .unitWait t.1 t.2 })
    else opStatus s q ST_UNIT_BOUND)

/-! ## Keys' acknowledgements (R288) -/

/-- A destination has no transaction under a key left: a slot that awaits it goes on, and is zeroed after the last. -/
def keyAck (s : State) (k d : Nat) : State :=
  let x := s.slot k
  if x.st = .draining ∧ x.requested ∧ x.destWait.contains d then
    let rest := x.destWait.filter (· != d)
    let s1 := s.setSlot k { x with destWait := rest }
    if rest.isEmpty then zeroSlot s1 k else s1
  else s

/-- The same for every slot whose destination is late: the completion of the unit's reset (R291). -/
def keyAckAll (s : State) (d : Nat) : State :=
  (s.ntc.slots.filter (fun e => e.2.late.contains d)).foldl (fun t e => keyAck t e.1 d) s

/-! ## Partial resets (R379) -/

/-- The identifier of the reset or retraining of a key destination's unit. -/
def keyOp (d : Nat) : Nat := 2 ^ 18 + d

/-- Jobs with a record that awaits a command of an endpoint end with ST_ABORTED. -/
def abortCmd (s : State) (e tag : Nat) : State :=
  let s1 := sendAbort s (tag / 8192) [e] (match recAt s tag with | some r => if r.ctx = noCtx then 0 else r.ctx | none => 0) (some tag)
  match recAt s tag with
  | some r => match r.purpose with
    | .job q => endJob s1 q .aborted ST_ABORTED none
    | _ => s1
  | none => s1

/-- Change a reset in progress. -/
def modReset (s : State) (id : Nat) (f : ResetOp → ResetOp) : State :=
  { s with swb := { s.swb with resetOps := s.swb.resetOps.map (fun o => if o.id = id then f o else o) } }

/-- The clear of a reset still awaits tokens. -/
def resetClearing (s : State) (id : Nat) : Bool :=
  s.lanes.any (fun l => l.2.recs.any (fun r => match r.2 with | some x => x.purpose == .reset id | none => false)) ||
  s.blockWait.any (fun m => m.purpose == .reset id)

/-- A reset is complete. -/
def finishReset (s : State) (id : Nat) : State :=
  let s1 := { s with swb := { s.swb with resetOps := s.swb.resetOps.filter (fun o => o.id != id) } }
  if 2 ^ 18 ≤ id then keyAckAll s1 (id - 2 ^ 18)
  else
    match s1.job id with
    | some j => match j.phase with
      | .unitWait _ _ => retire (count s1 pgSWB 5) id
      | _ => s1
    | none => s1

/-- A reset goes on: the clear once every abort token is in, and its end once every clear token is. -/
def resetSettle (s : State) (id : Nat) : State :=
  match s.swb.resetOps.find? (fun o => o.id == id) with
  | none => s
  | some o =>
    if !o.left.isEmpty then s
    else if !o.clearing then
      let s1 := sendTagged (modReset s id (fun o => { o with clearing := true })) 3 o.eps 0x03
                  [clearWord true true true wholeSpad.1 wholeSpad.2] true (.reset id) noCtx
      if resetClearing s1 id then s1 else finishReset s1 id
    else if resetClearing s id then s
    else finishReset s id

/-- A reset of a set of endpoints starts; at LEVEL 1 and above arming on them is cleared. -/
def startReset (s : State) (id : Nat) (es : List Nat) (disarm : Bool) : State :=
  let left := es.flatMap (fun e => (s.ep e).cmds.map (fun c => (e, c.1)))
  let op : ResetOp := { id := id, since := s.now, eps := es, left := left, clearing := false }
  let s1 := { s with swb := { s.swb with resetOps := s.swb.resetOps ++ [op] } }
  let s2 := left.foldl (fun t c => abortCmd t c.1 c.2) (count s1 pgOBJ 6 left.length)
  resetSettle (if disarm then disarmAll s2 es else s2) id

/-- The endpoints of a LEVEL 2 reset: every endpoint of the partition's own hubs, and its endpoints on hubs that other
partitions share (log 23). -/
def partResetEps (s : State) (p : Nat) : List Nat :=
  let mine := memberEps (s.part p).active
  let own := ((mine.map (· / 32)).eraseDups).filter (fun h => (hubEps s h).all (fun e => (s.ep e).part == p || (s.ep e).part == 255))
  (own.flatMap (hubEps s) ++ mine.filter (fun e => !own.contains (e / 32))).eraseDups

/-- LEVEL and TARGET of UNIT_RESET. -/
def resetLevel (ws : List Word) : Nat := fld (wordAt ws 1) 1 0
def resetTarget (ws : List Word) : Nat := fld (wordAt ws 1) 29 16

/-- The endpoints a UNIT_RESET acts on. -/
def resetEps (s : State) (ws : List Word) : List Nat :=
  let t := resetTarget ws
  if resetLevel ws = 0 then [t] else if resetLevel ws = 1 then hubEps s t else partResetEps s t

/-- A UNIT_RESET of LEVEL 0 to 2 waits for an activation and for operations on its units (notes 40 and 42). -/
def resetWaits (s : State) (ws : List Word) : Bool :=
  resetLevel ws != 3 && (activating s || (resetEps s ws).any (fun e => unitBusy s .endpoint e || (s.ep e).unit.karPending))

/-- The status a UNIT_RESET of LEVEL 0 to 2 is refused with (Table 14.9). -/
def resetRefused (s : State) (ws : List Word) : Status :=
  let t := resetTarget ws
  if resetLevel ws = 0 then if (s.ep t).unit.st = .fused then ST_UNIT_STATE else ST_OK
  else if resetLevel ws = 1 then if (s.hub t).unit.st = .fused then ST_UNIT_STATE else ST_OK
  else if s.ctxs.any (fun c => c.2.part == t && (c.2.st == .active || c.2.st == .teardown || c.2.st == .removing)) then ST_UNIT_BOUND
  else ST_OK

/-- UNIT_RESET of LEVEL 0 to 2. -/
def partialReset (s : State) (q : Nat) (ws : List Word) : State :=
  let st := resetRefused s ws
  if st ≠ ST_OK then opStatus s q st
  else
    let t := resetTarget ws
    let s1 := modJob s q (fun j => { j with phase := .unitWait (if resetLevel ws = 0 then .endpoint else .hub) t })
    let s2 := if resetLevel ws = 2 then
        let a := (s.sad.filter (fun e => e.2.valid && e.2.part == t)).foldl (fun u e => chanOwner u e.1 true t) s1
        (s.fans.filter (fun e => e.2.valid && e.2.part == t)).foldl (fun u e => fanOwner u e.1 true t) a
      else s1
    startReset s2 q (resetEps s ws) (resetLevel ws != 0)

/-! ## Retraining (R380, R381) -/

/-- The retraining of a channel starts (R380 step 1). -/
def startRetrain (s : State) (m id : Nat) : State :=
  emit (s.setChan m { s.chan m with retrainBy := some id, retrainSent := false, retrainAt := s.now }) (.bwrCtl m 0)

/-- The retraining of a channel ends: resume, and the packet completes (R380). -/
def endRetrain (s : State) (m : Nat) (ok : Bool) : State :=
  let x := s.chan m
  match x.retrainBy with
  | none => s
  | some id =>
    let s1 := emit (s.setChan m { x with retrainBy := none, retrainSent := false }) (.bwrCtl m 2)
    let s2 := if ok then s1
              else setDefect (s1.setChan m { s1.chan m with failed := true }) .channel m (classOf ST_RETRAIN_FAILED)
    let s3 := keyAckAll s2 m
    match s3.job id with
    | some j =>
      if j.phase ≠ .unitWait .channel m then s3
      else if ok then retire (count s3 pgSWB 6) id
      else opStatus (count s3 pgSWB 6) id ST_RETRAIN_FAILED
    | none => s3

/-- Messages held for a link's retraining leave, in order. -/
def releaseHeld (s : State) (l : Nat) : State :=
  let mine := s.per.retrainHeld.filter (fun x => x.1 == l)
  let s1 := { s with per := { s.per with retrainHeld := s.per.retrainHeld.filter (fun x => x.1 != l),
                                         retraining := s.per.retraining.filter (fun x => x.1 != l) } }
  mine.foldl (fun t x => count (emit t x.2) pgPER 0) s1

/-- The token of a link's retraining has come (R381 step 3). -/
def linkRetrained (s : State) (q : Nat) (ok : Bool) : State :=
  match s.per.retraining.find? (fun r => r.2 == q) with
  | none => s
  | some (l, _) =>
    let e := (linkEp s l).getD 16383
    let s1 := if ok then s else setDefect s .link e (classOf ST_RETRAIN_FAILED)
    let s2 := releaseHeld s1 l
    match s2.job q with
    | some j =>
      if j.phase ≠ .unitWait .link e then s2
      else if ok then retire (count s2 pgSWB 6) q
      else opStatus (count s2 pgSWB 6) q ST_RETRAIN_FAILED
    | none => s2

/-- The unit a RETRAIN names. -/
def retrainUnit (s : State) (ws : List Word) : UnitKind × Nat :=
  let n := fld (wordAt ws 1) 22 16
  if bitAt (wordAt ws 1) 0 then (.link, unitKey s .link n) else (.channel, n)

/-- RETRAIN waits for an activation, for another operation on its unit, and for a link's slot and record. -/
def retrainWaits (s : State) (q : Nat) (ws : List Word) : Bool :=
  let u := retrainUnit s ws
  activating s || unitBusy s u.1 u.2 ||
  (decide (u.1 = .link) && decide ((unitOf s u.1 u.2).st ≠ .fused) &&
   (!(slotFree s u.2) || (freeRec s (s.queue q).home).isNone))

/-- The LINK command of R381 step 2: its two argument words are LINK_RETRAIN. -/
def issueLinkRetrain (s : State) (q l e : Nat) : State :=
  let k := (s.queue q).home
  match freeRec s k with
  | none => s
  | some r =>
    let s1 := { s with per := { s.per with retraining := s.per.retraining ++ [(l, q)] } }
    let s2 := putRec s1 k r { purpose := .linkRetrain q, ctx := noCtx, layer := 0, operator := 0, pidx := 0, await := [e], held := [],
                              since := s.now }
    sendCommand s2 k { ecmd := 4, tag := tagOf k r, ctx := noCtx, layer := 0, operator := 0, imemGen := 0, depWait := 0, depEp := none }
      [e] (builtDesc [] s.swb.settings.linkRetrain) [] []

/-- RETRAIN. A unit that is FUSED or was not found is refused with ST_UNIT_STATE (log 23). -/
def execRetrain (qb : BitVec 18) (s : State) : Result :=
  let q := qb.toNat
  waitRow s q 0x8A (retrainWaits s q) (fun s _ ws =>
    let u := retrainUnit s ws
    if (unitOf s u.1 u.2).st = .fused then opStatus s q ST_UNIT_STATE
    else
      let s1 := modJob s q (fun j => { j with phase := .unitWait u.1 u.2 })
      match u.1 with
      | .channel => startRetrain s1 u.2 q
      | _ => issueLinkRetrain s1 q (fld (wordAt ws 1) 22 16) u.2)

/-- TRAIN_WAIT_EXPIRY: the channel's controller did not report state 1 in time (R380). -/
def execTrainWaitExpiry (m : BitVec 5) (s : State) : Result := .next (endRetrain s m.toNat false)

/-! ## Level reports (R57) -/

/-- A channel reports its state: a retraining moves on; a bound channel that reports state 3 outside one disagrees (R376). -/
def stateReport (s : State) (m st : Nat) : State :=
  let s1 := s.setChan m { s.chan m with state := st }
  let x := s1.chan m
  match x.retrainBy with
  | none => if st = 3 ∧ x.part ≠ 255 then setSuspect s1 .channel m (classOf ST_RETRAIN_FAILED) false else s1
  | some _ =>
    if st = 3 then endRetrain s1 m false
    else if st = 2 ∧ !x.retrainSent then emit (s1.setChan m { x with retrainSent := true, retrainAt := s.now }) (.bwrCtl m 1)
    else if st = 1 ∧ x.retrainSent then endRetrain s1 m true
    else s1

/-- LEVEL_REPORT: kinds 0 and 1 are the read and write occupancy, 2 the channel's state (Table 2.16). -/
def execLevelReport (mb : BitVec 5) (kind : BitVec 2) (value : BitVec 12) (s : State) : Result :=
  let m := mb.toNat
  let x := s.chan m
  if kind = 0 then .next (s.setChan m { x with occRd := value.toNat, lastReport := s.now, stale := false })
  else if kind = 1 then .next (s.setChan m { x with occWr := value.toNat, lastReport := s.now, stale := false })
  else if kind = 2 then .next (stateReport s m (value.toNat % 4))
  else .next s

end Sys2Proof.Machine
end

