-- ==== Sys2Proof/Machine/Keys.lean ====
section
/-! DEFINITION. The security queue's packets and the key slots: KEY_INSTALL (R297, R298), KEY_REVOKE and the drain (R288 to
R292), SEAL_PARTITION (R299) and the Taderos report (R304, R305). -/

namespace Sys2Proof.Machine

/-! ## Fuses and the Notch's keys (R305, R367) -/

/-- Bytes of fuse words lo to hi - 1. -/
def fuseBytes (s : State) (lo hi : Nat) : List Byte :=
  (List.range (hi - lo)).flatMap (fun i => leBytes 4 (tget 0 s.swb.fuses (lo + i)).toNat)

def blockUid (s : State) : List Byte := fuseBytes s 0 4
def deviceSecret (s : State) : List Byte := fuseBytes s 4 16

/-- FUSE_DIGEST: the words 0 to 1,023 with the device secret read as 0. -/
def fuseDigest (s : State) : List Byte := sha384 (blockUid s ++ zeroBytes 48 ++ fuseBytes s 16 1024)

/-- A P-384 private key derived from the device secret under a label: a number from 1 to the order less one (R305). -/
def derivedKey (s : State) (label : List Byte) : Nat := Config.deriveNat (deviceSecret s) label % (p384N - 1) + 1

/-- The device identity key, the attestation key, and the key-agreement key with its public point in the report (R305). -/
def deviceKey (s : State) : Nat := derivedKey s (ascii "DI")
def attestKey (s : State) : Nat := derivedKey s (ascii "AT" ++ s.ntc.bootDigest)
def kaKey (s : State) : Nat := derivedKey s (ascii "KA")
def kaPub (s : State) : List Byte := publicKey (kaKey s)

/-- The 96-byte signature of a message under a key (R305). -/
def signWith (key : Nat) (msg : List Byte) : List Byte := ecdsaSign key (Config.signSecret msg % (p384N - 1) + 1) msg

/-- The attestation certificate: it carries the firmware digest, and the device identity key signs it (R305). -/
def attestCert (s : State) : List Byte :=
  let body := Config.attestBody (publicKey (attestKey s)) s.ntc.bootDigest
  Config.certificate body (signWith (deviceKey s) body)

/-- Certificate slot 0. -/
def certChain (s : State) : List Byte := Config.kolsonisCert 0 ++ Config.kolsonisCert 1 ++ s.ntc.cert ++ attestCert s

/-- A signature under the attestation key. -/
def attestSign (s : State) (msg : List Byte) : List Byte := signWith (attestKey s) msg

/-! ## KEY_INSTALL -/

/-- A blob's payload (Table 11.8): KEY, PURPOSE, PARTITION, CONTEXT, CHANNELS, EXPECT_CHAIN. -/
structure KeyPayload where
  key : List Byte
  purpose : Nat
  part : Nat
  ctx : Nat
  channels : Nat
  expect : List Byte
deriving DecidableEq, Repr

/-- n bytes of a byte string from an offset. -/
def cut (bs : List Byte) (off n : Nat) : List Byte := (bs.drop off).take n

/-- The payload a blob decrypts to (R297); none where the point or the tag fails, or the payload is not as Table 11.8. -/
def unwrap (s : State) (blob : List Byte) : Option KeyPayload :=
  if blob.length ≠ 224 ∨ leNat (cut blob 0 4) ≠ 1 then none
  else match ecdh (kaKey s) (cut blob 4 96) with
    | none => none
    | some z =>
      let kek := (sha384 ([0, 0, 0, 1] ++ z ++ ascii "KGKW" ++ blockUid s)).take 32
      match gcmOpen kek (cut blob 100 12) (cut blob 0 112) (cut blob 112 96) (cut blob 208 16) with
      | none => none
      | some p =>
        if p.length ≠ 96 ∨ 1 < leNat (cut p 32 1) ∨ 16384 ≤ leNat (cut p 34 2) ∨ leNat (cut p 40 8) ≠ 0 then none
        else some { key := cut p 0 32, purpose := leNat (cut p 32 1), part := leNat (cut p 33 1),
                    ctx := leNat (cut p 34 2), channels := leNat (cut p 36 4), expect := cut p 48 48 }

/-- The chain of a partition, 48 bytes. -/
def chainOf (x : Part) : List Byte := if x.chain.isEmpty then zeroBytes 48 else x.chain

/-- The checks of Table 11.9 from the third row on. -/
def installStatus (s : State) (p c : Nat) (y : KeyPayload) : Status :=
  let x := s.part p
  let bound := x.active.chans.map (·.2)
  let ms := bitList 32 y.channels
  if y.part ≠ p ∨ y.ctx ≠ c ∨ !(isSealed s p) ∨ (s.ctx c).st ≠ .active ∨ (s.ctx c).part ≠ p then ST_KEY_BINDING
  else if y.purpose = 0 ∧ (ms = [] ∨ !(ms.all (fun m => bound.contains m)) ∨ ms.any (fun m => (memKey s c m).isSome)) then ST_KEY_BINDING
  else if y.purpose = 1 ∧ y.channels ≠ 0 then ST_KEY_BINDING
  else if y.expect ≠ zeroBytes 48 ∧ y.expect ≠ chainOf x then ST_KEY_BINDING
  else if !(logRoom s p 1) then ST_MEASURE_FULL
  else ST_OK

/-- The fingerprint of a key (R285). -/
def fingerprint (key : List Byte) : List Byte := sha384 (ascii "KGKF" ++ key)

/-- Where a key is installed: every memory encryption engine, or every copy hub. -/
def keyDests (s : State) (purpose : Nat) : List Nat :=
  if purpose = 0 then liveChans s
  else (((s.eps.filter (fun e => e.2.exist && e.2.kind == 1)).map (fun e => e.1 / 32)).eraseDups).map (512 + ·)

/-- A refused install (R298). -/
def refuseInstall (s : State) (q k : Nat) (st : Status) : State :=
  let s1 := count s pgNTC 1
  let s2 := if st = ST_KEY_UNWRAP then setErr s1 pgNTC 0 k else if st = ST_KEY_BINDING then setErr s1 pgNTC 1 k else s1
  opStatus s2 q st

/-- The install of a payload that has passed every check: the log entry first, then the key (R302, Table 11.4). -/
def installKey (s : State) (k p c : Nat) (y : KeyPayload) : State :=
  let f := fingerprint y.key
  let ds := keyDests s y.purpose
  let s1 := appendLog s p 6 c 0 0 0 0 f
  let s2 := ds.foldl (fun t d => emit t (.key d 0 k y.key)) s1
  let s3 := s2.setSlot k { KeySlot.reset with st := .active, weight := decide (y.purpose = 1), ctx := c, part := p,
                                              channels := BitVec.ofNat 32 y.channels, fingerprint := f, key := y.key, dests := ds }
  let x := s3.ctx c
  count (s3.setCtx c { x with revoked := x.revoked.filter (fun r => r != (dieId s, k)) }) pgNTC 0

/-- A range of the Notch's private region (R146). -/
def inNotch (a n : Nat) : Bool := decide (Config.notchBase ≤ a ∧ a + n ≤ Config.notchBase + Config.notchSize)

/-- KEY_INSTALL. -/
def execKeyInstall (qb : BitVec 18) (s : State) : Result :=
  packetRow s qb.toNat 0xC0 noTokens (fun s _ ws =>
    let q := qb.toNat
    let k := fld (wordAt ws 1) 11 0
    let c := fld (wordAt ws 1) 29 16
    let (p, blob) : Nat × List Byte := match s.ntc.running with | some r => (r.partition, r.blob) | none => (255, [])
    if !(inNotch (fld (wordAt ws 2) 51 0) (fld (wordAt ws 3) 15 0)) then malformed s q ST_PACKET_FIELD
    else if k < 2 ∨ (s.slot k).st ≠ .free then refuseInstall s q k ST_KEY_SLOT
    else if fld (wordAt ws 3) 15 0 ≠ 224 then refuseInstall s q k ST_KEY_UNWRAP
    else match unwrap s blob with
      | none => refuseInstall s q k ST_KEY_UNWRAP
      | some y =>
        let st := installStatus s p c y
        if st ≠ ST_OK then refuseInstall s q k st else retire (installKey s k p c y) q)

/-! ## KEY_REVOKE and the drain -/

/-- KEY_REVOKE: the drain starts, and the packet retires when the slot reaches FREE. -/
def execKeyRevoke (qb : BitVec 18) (s : State) : Result :=
  packetRow s qb.toNat 0xC1 noTokens (fun s _ ws =>
    let q := qb.toNat
    let k := fld (wordAt ws 1) 11 0
    if k < 2 ∨ (s.slot k).st = .free then opStatus s q ST_KEY_SLOT
    else modJob (drainSlot s k) q (fun j => { j with phase := .keyWait k }))

/-- KEY_DRAIN_ACK. -/
def execKeyDrainAck (src : BitVec 10) (id : BitVec 12) (s : State) : Result := .next (keyAck s id.toNat src.toNat)

/-- KEY_DRAIN from another die: pages of its memory under the key no longer resolve, and KEY_DRAINED answers on every route
(R290 step 3). -/
def execKeyDrain (die : BitVec 16) (beat : BitVec 256) (s : State) : Result :=
  .next (peerIn s die.toNat beat 0x40 (0xFF + mask 47 34 + mask 127 116) (fun s b =>
    let c := bitsN b 47 34
    let k := bitsN b 127 116
    sendAllRoutes (revokeFor s c die.toNat k) die.toNat (keyBeat 0x41 c k)))

/-- KEY_DRAINED: the last one awaited, of every route, starts step 4. -/
def execKeyDrained (src : PeerSrc) (beat : BitVec 256) (s : State) : Result :=
  .next (peerIn s src.die.toNat beat 0x41 (0xFF + mask 47 34 + mask 127 116) (fun s b =>
    let k := bitsN b 127 116
    let x := s.slot k
    let from_ := (src.die.toNat, src.link.toNat, src.chan.toNat)
    if x.st = .draining ∧ !x.requested ∧ x.dieWait.contains from_ then
      let rest := x.dieWait.erase from_
      let s1 := s.setSlot k { x with dieWait := rest }
      if rest.isEmpty then drainRequest s1 k else s1
    else s))

/-- DRAIN_ACK_TIMEOUT: the destination is SUSPECT, and its unit is reset at once (R291). -/
def execDrainAckTimeout (kb : BitVec 12) (db : BitVec 10) (s : State) : Result :=
  let k := kb.toNat
  let d := db.toNat
  let x := s.slot k
  if x.st = .draining ∧ x.requested ∧ x.destWait.contains d then
    let s1 := setErr (s.setSlot k { x with late := x.late ++ [d] }) pgNTC 2 k
    if d < 512 then
      let s2 := setSuspect s1 .channel d (classOf ST_KEY_REVOKED) false
      .next (if (s2.chan d).retrainBy.isSome then s2 else startRetrain s2 d (keyOp d))
    else
      let h := d - 512
      let s2 := setSuspect s1 .hub h (classOf ST_KEY_REVOKED) false
      .next (if s2.swb.resetOps.any (fun o => o.id == keyOp d) then s2 else startReset s2 (keyOp d) (hubEps s2 h) true)
  else .next s

/-- REMOTE_DRAIN_TIMEOUT: step 4 goes on without the missing KEY_DRAINED, and its route's link endpoint is SUSPECT. -/
def execRemoteDrainTimeout (kb : BitVec 12) (s : State) : Result :=
  let k := kb.toNat
  let x := s.slot k
  if x.st = .draining ∧ !x.requested ∧ x.dieWait ≠ [] then
    let links := (x.dieWait.map (fun r => r.2.1)).eraseDups
    let s1 := (links.filterMap (linkEp s)).foldl (fun t e => setSuspect t .link e (classOf ST_KEY_REVOKED) false) s
    .next (drainRequest (setErr s1 pgNTC 2 k) k)
  else .next s

/-- KEY_SLOT_RELEASE: a ZEROED slot is FREE; a KEY_REVOKE that waits for it retires, and its context's removal goes on. -/
def execKeySlotRelease (kb : BitVec 12) (s : State) : Result :=
  let k := kb.toNat
  let x := s.slot k
  match x.st with
  | .zeroed =>
    let s1 := s.setSlot k KeySlot.reset
    let s2 : State := match s1.job secQ with
      | some j => if j.phase = Phase.keyWait k then retire s1 secQ else s1
      | none => s1
    .next (startClear s2 x.ctx)
  | _ => .next s

/-! ## SEAL_PARTITION (R299) -/

/-- The REQUESTER_ID of a session. -/
def requesterOf (s : State) (sid : Nat) : Option (List Byte) :=
  match s.ntc.sessions.find? (fun x => x.sid == sid) with
  | some x => x.requester
  | none => none

/-- SEAL_PARTITION. -/
def execSealPartition (qb : BitVec 18) (s : State) : Result :=
  packetRow s qb.toNat 0xC2 noTokens (fun s _ ws =>
    let q := qb.toNat
    let p := fld (wordAt ws 1) 7 0
    let owner : Option (List Byte) := match s.ntc.running with | some r => requesterOf s r.sid | none => none
    match owner with
    | none => opStatus s q ST_SEAL_DENIED
    | some o =>
      if p = 255 ∨ isSealed s p ∨ s.ctxs.any (fun c => c.2.part == p && c.2.st != .free) ∨ s.ntc.debugOpened then
        opStatus s q ST_SEAL_DENIED
      else if !(logRoom s p 1) then opStatus s q ST_MEASURE_FULL
      else
        let s1 := appendLog (s.setPart p { s.part p with sealed := some o, log := [], chain := [] }) p 0 0 0 0 0 0 o
        sealGo (modJob (changeOwner s1 p o) q (fun j => { j with phase := .sealWait p })) p)

/-! ## The Taderos report (R304) -/

/-- The slices hold two firmware digests. -/
def mixedFirmware (s : State) : Bool := (List.range 8).any (fun k => (s.slice k).fwDigest != (s.slice 0).fwDigest)

/-- A sealed partition's log holds its capacity. -/
def logFull (s : State) (x : Part) : Bool := x.sealed.isSome && decide (s.ntc.logCapacity ≤ x.log.length)

/-- FLAGS of the report. -/
def reportFlags (s : State) : Nat := b2n s.ntc.debugOpened + 2 * b2n (mixedFirmware s)

/-- A partition record. -/
def partRecord (s : State) (p : Nat) (x : Part) : List Byte :=
  leBytes 1 p ++ leBytes 1 (b2n x.sealed.isSome + 2 * b2n (logFull s x)) ++ leBytes 2 x.active.cores.length ++
  leBytes 2 x.active.copies.length ++ leBytes 1 x.active.links.length ++ leBytes 1 x.active.chans.length ++
  leBytes 4 x.activeGen.toNat ++ leBytes 4 x.log.length ++ padBytes 48 (x.sealed.getD []) ++ padBytes 48 x.chain ++
  sha384 (gridBytes x.active) ++ zeroBytes 16

/-- The number of a key slot's state (Table 11.14). -/
def keyStateNo : KState → Nat
  | .free => 0
  | .active => 1
  | .draining => 2
  | .zeroed => 3

/-- A key record. -/
def keyRecord (k : Nat) (x : KeySlot) : List Byte :=
  leBytes 2 k ++ leBytes 1 (keyStateNo x.st) ++ leBytes 1 (b2n x.weight) ++ leBytes 2 x.ctx ++ leBytes 1 x.part ++ leBytes 1 0 ++
  leBytes 4 x.channels.toNat ++ zeroBytes 4 ++ padBytes 48 x.fingerprint

/-- The whole report with its signature. -/
def report (s : State) (nonce : List Byte) : List Byte :=
  let ps := s.parts.filter (fun p => decide (p.1 ≠ 255) && partUsed p.2)
  let ks := s.ntc.slots.filter (fun k => decide (k.2.st ≠ .free))
  let total := 176 + 9 * 48 + 96 + 176 * ps.length + 64 * ks.length + 96
  let body := leBytes 4 0x4454474B ++ leBytes 2 1 ++ leBytes 2 (reportFlags s) ++ leBytes 4 total ++ leBytes 4 idVersion.toNat ++
    leBytes 2 ps.length ++ leBytes 2 ks.length ++ zeroBytes 4 ++ leBytes 8 s.now ++ padBytes 32 nonce ++ blockUid s ++
    fuseDigest s ++ sha384 (certChain s) ++ secDigests s ++ kaPub s ++
    ps.flatMap (fun p => partRecord s p.1 p.2) ++ ks.flatMap (fun k => keyRecord k.1 k.2)
  body ++ attestSign s body

/-- MEASURE_REPORT. -/
def execMeasureReport (qb : BitVec 18) (s : State) : Result :=
  packetRow s qb.toNat 0xC3 noTokens (fun s _ ws =>
    let q := qb.toNat
    let r := report s (bytesOfWords ((ws.drop 3).take 4))
    if fld (wordAt ws 2) 31 0 < r.length ∨ !(inNotch (fld (wordAt ws 1) 51 0) r.length) then malformed s q ST_PACKET_FIELD
    else
      let a := fld (wordAt ws 1) 51 0
      match putPieces s (portQ s q) [(a, 1, r.length)] r with
      | none => opStatus s q ST_MEMORY_ERROR
      | some s0 =>
        let s1 := count s0 pgNTC 5
        retire { s1 with ntc := { s1.ntc with mbx := { s1.ntc.mbx with large := r } } } q)

end Sys2Proof.Machine
end

