-- ==== Sys2Proof/Machine/Firmware.lean ====
section
/-! DEFINITION. Firmware: the image and its verification (R382), rolling activation (R383), stores to serial memory (R365)
and the recovery loader's actions (R384). -/

namespace Sys2Proof.Machine

/-! ## The image (R382) -/

/-- n bytes at an offset, as a number. -/
def leAt (bs : List Byte) (off n : Nat) : Nat := leNat (cut bs off n)

/-- IMAGE_BYTES, SVN. -/
def imgBytes (im : List Byte) : Nat := leAt im 12 4
def imgSvn (im : List Byte) : Nat := leAt im 10 2

/-- The image proper, without its signature and what follows. -/
def imgBody (im : List Byte) : List Byte := im.take (imgBytes im)

/-- The header's MAGIC, FORMAT and size hold, and bytes [255:136], laid out as 0, hold 0 (R8, R382; log 26). -/
def imgHeaderOk (im : List Byte) : Bool :=
  leAt im 0 4 == 0x5746474B && leAt im 4 2 == 1 && decide (256 ≤ imgBytes im ∧ imgBytes im ≤ 8388608 - 96) &&
  (cut im 136 120).all (· == 0)

/-- The firmware digest. -/
def imgDigest (im : List Byte) : List Byte := sha384 (imgBody im)

/-- The slice part, the spine part and the routine library. -/
def imgSlice (im : List Byte) : List Byte := cut (imgBody im) (leAt im 16 4) (leAt im 20 4)
def imgSpine (im : List Byte) : List Byte := cut (imgBody im) (leAt im 24 4) (leAt im 28 4)
def imgLibrary (im : List Byte) : List Byte := cut (imgBody im) (leAt im 32 4) (leAt im 36 4)

/-- The routine library digest. -/
def imgLibDigest (im : List Byte) : List Byte := sha384 (imgLibrary im)

/-- The number of set bits of a word. -/
def popcount (n : Nat) : Nat := (bitList 32 n).length

/-- The result of an image's verification: 0, or a value of Table 14.5. -/
def verifyImage (s : State) (im : List Byte) : Nat :=
  let key := cut im 40 96
  if sha384 key ≠ fuseBytes s 17 29 ∨ !(ecdsaVerify key (imgBody im) (cut im (imgBytes im) 96)) then 0x21
  else if imgSvn im < popcount (tget 0 s.swb.fuses 29).toNat then 0x22
  else if leAt im 6 2 ≠ 4 ∨ leAt im 8 2 ≠ 0x0401 then 0x23
  else 0

/-- An image is complete and passes every check. -/
def fwImageOk (s : State) (im : List Byte) : Bool :=
  imgHeaderOk im && decide (imgBytes im + 96 ≤ im.length) && verifyImage s im == 0

/-- Load an image's slice part and library into a slice. -/
def loadSlice (s : State) (k : Nat) (im : List Byte) : State :=
  s.setSlice k { s.slice k with code := imgSlice im, library := imgLibrary im, fwDigest := imgDigest im, libDigest := imgLibDigest im,
                                svn := imgSvn im }

/-- Load an image's spine part. -/
def loadSpine (s : State) (im : List Byte) : State :=
  { s with swb := { s.swb with spineCode := imgSpine im, spineDigest := imgDigest im } }

/-! ## Rolling activation (R383) -/

/-- Every sealed partition. -/
def sealedParts (s : State) : List Nat := (s.parts.filter (fun p => p.2.sealed.isSome)).map (·.1)

/-- The parts an FW_ACTIVATE names: slices 0 to 7, the spine as 8. -/
def fwParts (ws : List Word) : List Nat := bitList 9 (fld (wordAt ws 1) 8 0)

/-- A part's type 7 entry enters every sealed log (R302). -/
def logActivation (s : State) (part : Nat) (digest : List Byte) : State :=
  (sealedParts s).foldl (fun t p => appendLog t p 7 0 (2 ^ part) 0 0 0 digest) s

/-- An activation whose entry a sealed log cannot take, one sealed meanwhile, ends there (R302). -/
def stopParts (s : State) : State :=
  let s1 := { s with swb := { s.swb with fwActive := none, fwTodo := [] } }
  match s.swb.fwActive with
  | some q =>
    (match s1.job q with
     | some j => if j.phase = .fwWait then opStatus s1 q ST_MEASURE_FULL else s1
     | none => s1)
  | none => s1

/-- Begin the next part: its log entries, and a slice stops starting jobs and routines. -/
def nextPart (s : State) : State :=
  match s.swb.fwTodo with
  | [] =>
    match s.swb.fwActive with
    | some q =>
      let s1 := { s with swb := { s.swb with fwActive := none } }
      (match s1.job q with
       | some j => if j.phase = .fwWait then retire s1 q else s1
       | none => s1)
    | none => s
  | k :: _ =>
    if !((sealedParts s).all (fun p => logRoom s p 1)) then stopParts s
    else
    let s1 := logActivation s k (imgDigest s.swb.fwNext)
    if k < 8 then wakeSlice (s1.setSlice k { s1.slice k with paused := true }) k else wakeSpine s1

/-- The image in serial memory is read into the spill region under key ID 0x001; one whose header or size is wrong is not
(R383 step 2, log 27). -/
def spillImage (s : State) (im : List Byte) : State :=
  if imgHeaderOk im && decide (imgBytes im + 96 ≤ im.length) then
    emits s (writesOf s 8 [(s.swb.settings.regions.getD 2 0 + 67108864, 1, imgBytes im + 96)] (im.take (imgBytes im + 96)))
  else s

/-- FW_ACTIVATE: `image` is what the firmware region of serial memory holds. -/
def execFwActivate (qb : BitVec 18) (image : List Byte) (s : State) : Result :=
  packetRow s qb.toNat 0x8B noTokens (fun s _ ws =>
    let q := qb.toNat
    let ps := fwParts ws
    if s.swb.fwActive.isSome then opStatus s q ST_FW_BUSY
    else if ps.isEmpty then retire s q
    else
      let s0 := spillImage s image
      let same (k : Nat) : Bool := if k = 8 then s.swb.spineDigest == imgDigest image else (s.slice k).fwDigest == imgDigest image
      if !(fwImageOk s image) then opStatus s0 q ST_FW_IMAGE
      else if ps.all same then retire s0 q
      else if !((sealedParts s).all (fun p => logRoom s p ps.length)) then opStatus s0 q ST_MEASURE_FULL
      else
        let s1 := modJob { s0 with swb := { s0.swb with fwActive := some q, fwTodo := ps, fwNew := [], fwNext := image } } q
                    (fun j => { j with phase := .fwWait })
        nextPart s1)

/-- A job stands between packets: it waits, is held or has no packet in progress on the processors (R383 sub-step 3). -/
def betweenPackets (j : Job) : Bool :=
  match j.phase with
  | .routine _ _ => false
  | _ => true

/-- FW_SLICE_ACTIVATE: the part's routines have finished and its jobs stand between packets: the part is copied, the
capability table rewritten and the slice resumed. -/
def execFwSliceActivate (part : Fin 9) (s : State) : Result :=
  match s.swb.fwTodo with
  | [] => .next s
  | k :: rest =>
    let standing := s.jobs.all (fun e => decide (k = 8) || (s.queue e.1).home != k ||
      (match e.2 with | some j => betweenPackets j | none => true))
    if part.val ≠ k ∨ s.halted ∨ !standing ∨ (k < 8 ∧ !(sliceUp s k)) ∨ !s.bsn.spineAwake then .next s
    else
      let im := s.swb.fwNext
      let s1 := if k < 8 then loadSlice s k im else loadSpine s im
      let s2 := rewriteCap { s1 with swb := { s1.swb with fwTodo := rest, fwNew := s1.swb.fwNew ++ [k] } }
      let s3 := if k < 8 then pumpSlice (s2.setSlice k { s2.slice k with paused := false }) k else s2
      .next (nextPart s3)

/-! ## Stores to serial memory (R365) -/

/-- A range overlaps another. -/
def overlaps (a n b m : Nat) : Bool := decide (a < b + m) && decide (b < a + n)

/-- A store may run: aligned, within the first 64 MiB, and clear of the directory and the identity certificate. -/
def storeAllowed (s : State) (dst len : Nat) : Bool :=
  dst % 4096 == 0 && len % 4096 == 0 && decide (dst + len ≤ 67108864) && !overlaps dst len 0 4096 &&
  !overlaps dst len s.swb.certFlash.1 s.swb.certFlash.2

/-- A refused store. -/
def refuseStore (s : State) (dst : Nat) : State :=
  setErr { s with swb := { s.swb with spiError := true } } pgSWB 1 (dst / 4096)

/-- GO: a store starts, or is refused; ignored while one runs. -/
def spiGo (s : State) : State :=
  if s.swb.spiBusy then s
  else
    let dst := bitsN s.swb.spiDst.toNat 25 0
    let len := bitsN s.swb.spiLen.toNat 26 0
    if storeAllowed s dst len then { s with swb := { s.swb with spiBusy := true } } else refuseStore s dst

/-- SPI_STORE_DONE: the sectors are erased and programmed with the bytes read at SRC, or the store failed. -/
def execSpiStoreDone (ok : Bool) (m : MemView) (s : State) : Result :=
  if !s.swb.spiBusy then .next s
  else
    let dst := bitsN s.swb.spiDst.toNat 25 0
    let len := bitsN s.swb.spiLen.toNat 26 0
    let s1 := { s with swb := { s.swb with spiBusy := false } }
    match ok, memRead s m (fld s.swb.spiSrc 51 0) len with
    | true, some bs =>
      let s2 := { s1 with swb := { s1.swb with spiDone := true } }
      .next (count (emit s2 (.spiStore dst bs)) pgSWB 7 (len / 4096))
    | _, _ => .next (setErr { s1 with swb := { s1.swb with spiError := true } } pgSWB 1 (dst / 4096))

/-! ## The recovery loader (R384) -/

/-- The block is in RECOVERY. -/
def inRecovery (s : State) : Bool := s.swb.boot == .recovery

/-- BEGIN. -/
def rcvBegin (s : State) : State :=
  if inRecovery s then
    { s with swb := { s.swb with fwImage := [], rcvCount := 0, rcvOver := false, verified := false, verifyFailed := false } }
  else s

/-- Eight bytes appended to the image, up to 8 MiB. -/
def rcvAppend (s : State) (w : Word) : State :=
  if !inRecovery s then s
  else if 8388608 < s.swb.rcvCount + 8 then { s with swb := { s.swb with rcvOver := true } }
  else { s with swb := { s.swb with fwImage := s.swb.fwImage ++ leBytes 8 w.toNat, rcvCount := s.swb.rcvCount + 8 } }

/-- VERIFY. -/
def rcvVerify (s : State) : State :=
  if !inRecovery s then s
  else
    let ok := !s.swb.rcvOver && fwImageOk s s.swb.fwImage
    { s with swb := { s.swb with verified := ok, verifyFailed := !ok } }

/-- PROGRAM: the image goes to the firmware region. -/
def rcvProgram (s : State) : State :=
  if !inRecovery s ∨ !s.swb.verified then s
  else match s.swb.fwFlash with
    | none => refuseStore s 0
    | some a =>
      let n := roundUp (imgBytes s.swb.fwImage + 96) 4096
      if storeAllowed s a n then
        count (emit { s with swb := { s.swb with spiDone := true } } (.spiStore a (padBytes n (s.swb.fwImage.take (imgBytes s.swb.fwImage + 96)))))
          pgSWB 7 (n / 4096)
      else refuseStore s a

/-- BOOT: bring-up goes on at stage 2 with the received image; hfe_avail falls. -/
def rcvBoot (s : State) : State :=
  if !inRecovery s ∨ !s.swb.verified then s
  else { s with pins := { s.pins with hfeAvail := false }, swb := { s.swb with boot := .stage 2, stageAt := s.now } }

end Sys2Proof.Machine
end

