-- ==== Sys2Proof/Machine/Bringup.lean ====
section
/-! DEFINITION. Resets (R29, R406, Table 16.3), the stages of bring-up (R366 to R375) and UNIT_RESET, whose LEVEL 3 is a
reset of the block (R379). -/

namespace Sys2Proof.Machine

/-! ## Resets -/

/-- Stage records as they stand after rst_blk_n: results are kept (R29). -/
def keptNotch (s : State) : Notch :=
  { Notch.reset with debugOpened := s.ntc.debugOpened, bootDigest := s.ntc.bootDigest, blockKey := s.ntc.blockKey,
                     staleKeys := s.ntc.staleKeys ++
                       (s.ntc.slots.filter (fun e => decide (e.2.st ≠ .free))).map (fun e => (e.1, e.2.dests)) }

/-- What rst_blk_n leaves of the Switchback: fuses, stage results and boot count (Table 16.3), the settings those results
hold, and the digest of the resident spine firmware (log 25). -/
def keptSwb (s : State) : Swb :=
  { Swb.reset with bootCount := s.swb.bootCount, fuses := s.swb.fuses, stages := s.swb.stages, settings := s.swb.settings,
                   spineCode := s.swb.spineCode, spineDigest := s.swb.spineDigest }

/-- A slice's local memory keeps its firmware (Table 14.4, stage 2 warm). -/
def keptSlice (x : Slice) : Slice := { Slice.reset with code := x.code, library := x.library, fwDigest := x.fwDigest, libDigest := x.libDigest, svn := x.svn }

/-- Debug authentication after rst_blk_n: FAILS and LOCKED_OUT stay, an open view ends (R415). -/
def keptDbg (s : State) : Dbg :=
  { State.reset.dbg with fails := s.dbg.fails, dr := s.dbg.dr, tap := s.dbg.tap,
                         st := match s.dbg.st with
                           | .lockedOut => .lockedOut
                           | .disabled => .disabled
                           | _ => .idle }

/-- The block under rst_blk_n. -/
def blockReset (s : State) : State :=
  { State.reset with pending := s.pending, timebase := s.timebase, freeCtr := s.freeCtr, out := s.out,
                     badLines := s.badLines,
                     pins := { State.reset.pins with hbOut := s.pins.hbOut },
                     bsn := { State.reset.bsn with porAsserted := s.bsn.porAsserted, blkAsserted := true },
                     slices := s.slices.foldl (fun t e => tset Slice.reset t e.1 (keptSlice e.2)) [],
                     ntc := keptNotch s, swb := keptSwb s, dbg := keptDbg s }

/-- POWER_ON_RESET: everything is at its reset value, an asserted rst_blk_n included (DESIGN CHOICE, log 47);
what has left the ports and what waits stays the model's record. -/
def execPowerOnReset (s : State) : Result :=
  .next { State.reset with pending := s.pending, freeCtr := s.freeCtr, out := s.out, badLines := s.badLines }

/-- Bring-up starts at stage 0 (R368). -/
def startBoot (s : State) (warm : Bool) : State :=
  { s with swb := { s.swb with boot := .stage 0, warm := warm, bootCount := s.swb.bootCount + 1, stageAt := s.now } }

/-- POWER_ON_RESET_RELEASE. Where the two resets overlap (DESIGN CHOICE, log 47): with rst_blk_n still asserted no stage 0
starts here, and the later release of rst_blk_n starts the warm path. -/
def execPowerOnResetRelease (s : State) : Result :=
  if s.bsn.porAsserted then
    let s1 := { s with bsn := { s.bsn with porAsserted := false } }
    .next (if s.bsn.blkAsserted then s1 else startBoot s1 false)
  else .next s

/-- BLOCK_RESET. -/
def execBlockReset (s : State) : Result :=
  if s.bsn.porAsserted then .next { s with bsn := { s.bsn with blkAsserted := true } } else .next (blockReset s)

/-- BLOCK_RESET_RELEASE: the warm path; a stage without a kept result runs as on the cold path. -/
def execBlockResetRelease (s : State) : Result :=
  if s.bsn.blkAsserted then
    let s1 := { s with bsn := { s.bsn with blkAsserted := false } }
    .next (if s.bsn.porAsserted then s1 else startBoot s1 true)
  else .next s

/-- UNIT_RESET. LEVEL 3 resets as by rst_blk_n and goes on at stage 0, warm; its entry gets no record. -/
def execUnitReset (qb : BitVec 18) (s : State) : Result :=
  let q := qb.toNat
  waitRow s q 0x89 (resetWaits s) (fun s _ ws =>
    if resetLevel ws = 3 then
      let s1 := blockReset s
      startBoot { s1 with bsn := { s1.bsn with blkAsserted := s.bsn.blkAsserted } } true
    else partialReset s q ws)

/-! ## Ends of stages (R370, R375) -/

/-- The record of a stage. -/
def stageRec (s : State) (n : Nat) : StageRec := s.swb.stages.getD n StageRec.reset

/-- A stage runs as on the cold path (R368). -/
def runsCold (s : State) (n : Nat) : Bool := !s.swb.warm || !(stageRec s n).kept

/-- The 64 bytes of a stage record. -/
def stageBytes (n : Nat) (r : StageRec) : List Byte :=
  leBytes 4 0x5342474B ++ leBytes 2 1 ++ leBytes 1 n ++ leBytes 1 r.result ++ leBytes 4 r.bootCount ++ leBytes 1 (b2n r.warm) ++
  zeroBytes 3 ++ leBytes 8 r.tStart ++ leBytes 8 r.tEnd ++ leBytes 4 r.countA ++ leBytes 4 r.countB ++ leBytes 8 r.code ++
  zeroBytes 16

/-- Write a stage's record to memory. -/
def writeStage (s : State) (n : Nat) : State :=
  let a := s.swb.settings.regions.getD 1 0 + 64 * n
  putOrDrop s pgSWB [(a, 0, 64)] (stageBytes n (stageRec s n))

/-- RECOVERY_DISABLE (Table 14.3). -/
def recoveryDisabled (s : State) : Bool := (tget 0 s.swb.fuses 16).getLsbD 1

/-- A stage ends (Table 14.6). -/
def endStage (s : State) (n result a b code : Nat) : State :=
  let r : StageRec := { result := result, tStart := s.swb.stageAt, tEnd := s.now, countA := a, countB := b, code := code,
                        kept := decide (result ≤ 1), bootCount := s.swb.bootCount.toNat, warm := s.swb.warm }
  let s1 := { s with swb := { s.swb with stages := s.swb.stages.set n r, result := result, stageAt := s.now } }
  let s2 := if 5 ≤ n then writeStage s1 n else s1
  if result ≤ 1 then
    if n = 7 then { s2 with swb := { s2.swb with boot := .ready }, pins := { s2.pins with hfeAvail := true } }
    else { s2 with swb := { s2.swb with boot := .stage (n + 1) } }
  else if (n = 1 ∨ n = 2) ∧ 0x20 ≤ result ∧ result ≤ 0x23 ∧ !(recoveryDisabled s) then
    { s2 with swb := { s2.swb with boot := .recovery, failStage := n }, pins := { s2.pins with hfeAvail := true } }
  else { s2 with swb := { s2.swb with boot := .failed, failStage := n }, pins := { s2.pins with pwrFloor := true } }

/-- Run a stage, if bring-up stands at it. -/
def atStage (s : State) (n : Nat) (f : State → State) : Result :=
  if s.swb.boot = .stage n then .next (f s) else .next s

/-! ## Stage 0 (R367) -/

/-- Bits of fuse words lo to hi - 1 as one number. -/
def fuseBits (s : State) (lo hi : Nat) : Nat := leNat (fuseBytes s lo hi)

def hubFused (s : State) (h : Nat) : Bool := (fuseBits s 32 48).testBit h
def linkFused (s : State) (l : Nat) : Bool := (fuseBits s 48 52).testBit l
def chanFused (s : State) (c : Nat) : Bool := (fuseBits s 52 53).testBit c

/-- Units the fuses disable. -/
def unitsFused (s : State) : Nat :=
  (bitList 512 (fuseBits s 32 48)).length + (bitList 128 (fuseBits s 48 52)).length + (bitList 32 (fuseBits s 52 53)).length

/-- STAGE_0: `fuses` are the words acknowledged, in order; a word that is not within 1 ms fails the stage. The domains are
powered for bring-up (log 25), and a twin is told. -/
def execStage0 (fuses : List W32) (s : State) : Result :=
  atStage s 0 (fun s =>
    let cold := runsCold s 0
    let words := fuses.take 1024
    let tbl := (words.zip (List.range 1024)).foldl (fun t p => tset 0 t p.2 p.1) ([] : Table W32)
    let s1 := if cold then { s with swb := { s.swb with fuses := tbl } } else s
    let s2 := { s1 with bsn := { s1.bsn with sliceAwake := 0xFF, spineAwake := true } }
    let s3 := if (tget 0 s2.swb.fuses 16).getLsbD 0 then { s2 with dbg := { s2.dbg with st := .disabled } } else s2
    let s4 := sendTwin s3 3
    if cold ∧ words.length < 1024 then endStage s4 0 0x10 words.length 0 words.length
    else endStage s4 0 0 (if cold then 1024 else 0) (unitsFused s4) 0)

/-! ## Stage 1: directory, settings, defect list (R364, R366, R374) -/

/-- A region entry of the directory: type, offset, size, CRC. -/
structure FlashRegion where
  type : Nat
  off : Nat
  size : Nat
  crc : Nat

/-- The region entries. -/
def flashRegions (flash : List Byte) : List FlashRegion :=
  (List.range (leAt flash 6 2)).map (fun i =>
    { type := leAt flash (8 + 16 * i) 2, off := leAt flash (12 + 16 * i) 4, size := leAt flash (16 + 16 * i) 4, crc := leAt flash (20 + 16 * i) 4 })

/-- The directory is valid (R364; log 26 for the places of the regions). Its bytes laid out as 0 hold 0 (R8): bytes [3:2] of
a region entry, the entries beyond the count and bytes [251:248]. -/
def directoryOk (flash : List Byte) : Bool :=
  leAt flash 0 4 == 0x4653474B && leAt flash 4 2 == 1 && decide (leAt flash 6 2 ≤ 15) &&
  (crc32c (cut flash 0 252)).toNat == leAt flash 252 4 &&
  (List.range (leAt flash 6 2)).all (fun i => leAt flash (10 + 16 * i) 2 == 0) &&
  (cut flash (8 + 16 * leAt flash 6 2) (244 - 16 * leAt flash 6 2)).all (· == 0) &&
  (flashRegions flash).all (fun r => r.off % 4096 == 0 && decide (r.off + r.size ≤ 67108864))

/-- The region of a type. -/
def regionOf (flash : List Byte) (t : Nat) : Option FlashRegion := (flashRegions flash).find? (fun r => r.type == t)

/-- A region's bytes; none where it is absent or fails its CRC. -/
def regionBytes (flash : List Byte) (t : Nat) : Option (List Byte) :=
  match regionOf flash t with
  | none => none
  | some r =>
    let bs := cut flash r.off r.size
    if bs.length = r.size ∧ (crc32c bs).toNat = r.crc then some bs else none

/-- The records of a settings region: ID and value; none where one reaches past the region's end. -/
def settingsRecords : Nat → List Byte → Option (List (Nat × List Byte))
  | 0, _ => some []
  | _, [] => some []
  | fuel + 1, bs =>
    let n := leAt bs 2 2
    if bs.length < 4 + roundUp n 4 then none
    else (settingsRecords fuel (bs.drop (4 + roundUp n 4))).map (fun r => (leAt bs 0 2, cut bs 4 n) :: r)

/-- The lengths of Table 14.2. -/
def settingLenOk (id n : Nat) : Bool :=
  if id = 1 then n == 8 else if id = 2 then n == 20 else if id = 3 then n == 28 else if id = 4 then n == 6
  else if id = 5 then n == 32 else if id = 6 then n == 4 else if id = 7 then n == 18 else if id = 8 then n == 24
  else if id = 9 then n == 64 else if id = 0xA then n % 4 == 0 && decide (n ≤ 16)
  else if id = 0xB then decide (8 ≤ n) && (n - 8) % 4 == 0 && decide (n ≤ 8 + 256) else if id = 0xC then n == 20 else true

/-- A value lies in its stated range, and its fields laid out as 0 hold 0 (R8, R366). -/
def settingOk (id : Nat) (v : List Byte) : Bool :=
  if id = 1 then decide (1 ≤ leAt v 1 1 ∧ leAt v 1 1 ≤ 15 ∧ 10 ≤ leAt v 2 1 ∧ leAt v 2 1 ≤ 24 ∧ 8 ≤ leAt v 3 1 ∧ leAt v 3 1 ≤ 24 ∧
                         leAt v 4 4 < 2 ^ 26)
  else if id = 2 then decide (leAt v 16 4 < 8)
  else if id = 3 then decide (leAt v 18 1 ≤ 7 ∧ leAt v 19 1 < 4)
  else if id = 4 then decide (leAt v 0 1 ≤ 3) && leAt v 1 1 == 0
  else if id = 5 then decide (134217728 ≤ leAt v 24 8)
  else if id = 6 then decide (64 ≤ leAt v 0 4 ∧ leAt v 0 4 ≤ 1048575)
  else if id = 7 then leAt v 13 1 == 0
  else if id = 9 then (List.range 15).all (fun i => decide (leAt v (4 * i) 2 ≤ leAt v (4 * i + 4) 2))
  else if id = 0xC then decide (1 ≤ leAt v 0 2 ∧ leAt v 0 2 ≤ 10000) && [1, 2, 4, 8].contains (leAt v 2 1) && leAt v 3 1 == 0
  else true

/-- The value of the first record of an ID; the values of every record of an ID. -/
def settingOf (rs : List (Nat × List Byte)) (id : Nat) : List Byte :=
  match rs.find? (fun r => r.1 == id) with | some r => r.2 | none => []
def settingsOf (rs : List (Nat × List Byte)) (id : Nat) : List (List Byte) := (rs.filter (fun r => r.1 == id)).map (·.2)

/-- The settings pass R366. -/
def settingsOk (rs : List (Nat × List Byte)) : Bool :=
  rs.all (fun r => settingLenOk r.1 r.2.length && settingOk r.1 r.2) &&
  [1, 2, 3, 5, 6, 7, 8, 9, 0xB, 0xC].all (fun id => rs.any (fun r => r.1 == id)) && decide ((settingsOf rs 2).length ≤ 16)

/-- The settings the block keeps for its stages. -/
def settingsFrom (rs : List (Nat × List Byte)) : Settings :=
  let c := settingOf rs 1
  let q := settingOf rs 3
  let g := settingOf rs 5
  let p := settingOf rs 0xB
  let b := settingOf rs 0xC
  { ctx0 := [leAt c 0 1, leAt c 1 1, leAt c 2 1, leAt c 3 1, leAt c 4 4],
    map0 := (settingsOf rs 2).map (fun v => (leAt v 0 8, leAt v 8 8, leAt v 16 4)),
    queue0 := [leAt q 0 8, leAt q 8 8, leAt q 16 1, leAt q 17 1, leAt q 18 1, leAt q 19 1, leAt q 20 8],
    bind0 := (settingsOf rs 4).map (fun v => (leAt v 0 1, leAt v 2 2, leAt v 4 2)),
    regions := [leAt g 0 8, leAt g 8 8, leAt g 16 8, leAt g 24 8],
    sealedLog := leAt (settingOf rs 6) 0 4,
    peer := [leAt p 0 2, leAt p 2 2, leAt p 4 2, leAt p 6 2],
    routes := (List.range ((p.length - 8) / 4)).map (fun i => (leAt p (8 + 4 * i) 2, leAt p (10 + 4 * i) 1, leAt p (11 + 4 * i) 1)),
    trainWaitMs := leAt b 0 2, spiDiv := leAt b 2 1,
    linkRetrain := [BitVec.ofNat 64 (leAt b 4 8), BitVec.ofNat 64 (leAt b 12 8)] }

/-- The Veld's registers that the settings load (Table 12.3). -/
def veldFrom (v : Veld) (rs : List (Nat × List Byte)) : Veld :=
  let p := settingOf rs 7
  let m := settingOf rs 8
  let f := settingOf rs 9
  let r := settingOf rs 0xA
  { v with capW := leAt p 0 2, fallbackW := leAt p 2 2, floorMhz := leAt p 4 2, auxMhz := leAt p 6 2, vnom := leAt p 8 2,
           vmargin := leAt p 10 2, vsettle := leAt p 12 1, uncore := BitVec.ofNat 32 (leAt p 14 4),
           model := (List.range 3).map (fun i => BitVec.ofNat 64 (leAt m (8 * i + 4) 4 * 2 ^ 32 + leAt m (8 * i) 4)),
           vf := (List.range 16).map (fun i => BitVec.ofNat 32 (leAt f (4 * i + 2) 2 * 2 ^ 16 + leAt f (4 * i) 2)),
           rails := (List.range (r.length / 4)).map (fun i => (leAt r (4 * i) 2, leAt r (4 * i + 2) 2)) }

/-- The defect list up to the first erased record: valid records, records that fail their CRC, positions used. -/
def defectRecords (bs : List Byte) : List (Bool × Nat × Nat × Nat × Nat) × Nat × Nat :=
  let rs := ((List.range 4096).map (fun i => cut bs (16 * i) 16)).takeWhile (fun r => r.length == 16 && r.any (· != 0xFF))
  let ok (r : List Byte) : Bool := (crc32c (r.take 12)).toNat == leAt r 12 4
  ((rs.filter ok).map (fun r => (leAt r 0 1 == 1, leAt r 1 1, leAt r 2 2, leAt r 4 1, leAt r 5 1)), (rs.filter (fun r => !ok r)).length,
   rs.length)

/-- The fastest mode that SFDP declares; the tables themselves are read in single mode (R62). -/
def fastestMode (declared : List SpiMode) : SpiMode :=
  ([.m144, .m114, .m122, .m112].find? declared.contains).getD .m111

/-- STAGE_1: `sfdp` holds the modes that the device's SFDP tables declare, none where they are not valid; `flash` is what the
serial memory holds. The divider starts at 8 and becomes SPI_DIV once BRINGUP is read (R62). -/
def execStage1 (sfdp : Option (List SpiMode)) (flash : List Byte) (s : State) : Result :=
  atStage s 1 (fun s0 =>
    let s := { s0 with swb := { s0.swb with spiDiv := 8, spiMode := match sfdp with
      | some ms => fastestMode ms
      | none => .m111 } }
    if sfdp.isNone then endStage s 1 0x11 0 0 0
    else if !(directoryOk flash) then endStage s 1 0x12 0 0 0
    else match regionBytes flash 1, regionBytes flash 4, regionBytes flash 5 with
      | some st, some cert, some kar =>
        match settingsRecords st.length st with
        | none => endStage s 1 0x13 0 0 0
        | some rs =>
          if !(settingsOk rs) then endStage s 1 0x13 0 0 0
          else
            let place (t : Nat) : Nat × Nat := match regionOf flash t with | some r => (r.off, r.size) | none => (0, 0)
            let d := defectRecords (match regionOf flash 2 with | some r => cut flash r.off r.size | none => [])
            let fw := regionOf flash 3
            let im := match fw with | some r => cut flash r.off r.size | none => []
            let set := settingsFrom rs
            let s1 := { s with
              swb := { s.swb with settings := set, defects := d.1, defectSkipped := d.2.1, defectAt := d.2.2, kar := kar, fwImage := im,
                                  fwFlash := fw.map (·.off), defectFlash := (place 2).1, certFlash := place 4, spiDiv := set.spiDiv,
                                  avsBus := rs.any (fun r => r.1 == 0xA), newDefects := [] },
              vld := veldFrom s.vld rs,
              ntc := { s.ntc with logCapacity := set.sealedLog, cert := cert },
              per := { s.per with twin := if set.peer.getD 1 0xFFFF = 0xFFFF then .noTwin else .absent } }
            let bad := fw.isNone || !(imgHeaderOk im) || decide (im.length < imgBytes im + 96)
            endStage s1 1 (if bad then 0x20 else 0) rs.length d.1.length 0
      | _, _, _ => endStage s 1 0x13 0 0 0)

/-! ## Stage 2 (R382, R284, R305) -/

/-- The resident copies are those of the image (Table 14.4, warm). -/
def residentOk (s : State) (im : List Byte) : Bool :=
  (List.range 8).all (fun k => (s.slice k).fwDigest == imgDigest im) && s.swb.spineDigest == imgDigest im

/-- Zero messages for the keys of before a block reset (note 26). -/
def zeroStale (s : State) : State :=
  let s1 := s.ntc.staleKeys.foldl (fun t e => e.2.foldl (fun u d => emit u (.key d 1 e.1 [])) t) s
  { s1 with ntc := { s1.ntc with staleKeys := [] } }

/-- The Notch derives its keys, on the cold path with a new block key, and installs key 0x001 in every memory encryption
engine. -/
def notchKeys (s : State) (cold : Bool) (im : List Byte) : State :=
  let s1 := if cold then
      let (f, t) := s.takeFree
      { t with ntc := { t.ntc with blockKey := freeBytes f 32, bootDigest := imgDigest im } }
    else s
  let s2 := { s1 with ntc := { s1.ntc with attestReady := true } }
  ((List.range 32).filter (fun c => !chanFused s2 c)).foldl (fun t c => emit t (.key c 0 1 s2.ntc.blockKey)) s2

/-- STAGE_2. -/
def execStage2 (sramOk : Bool) (s : State) : Result :=
  atStage s 2 (fun s =>
    let cold := runsCold s 2
    let im := s.swb.fwImage
    let reload := cold || !(residentOk s im)
    let v := if reload then verifyImage s im else 0
    let s0 := if cold then s else zeroStale s
    if !sramOk then endStage s0 2 0x30 0 0 0
    else if v ≠ 0 then endStage s0 2 v (imgSvn im) (imgBytes im) 0
    else
      let s1 := if reload then
          let t := (List.range 8).foldl (fun t k => loadSlice t k im) s0
          loadSpine t im
        else s0
      endStage (notchKeys s1 cold im) 2 0 (imgSvn im) (imgBytes im) 0)

/-! ## Stages 3 and 4 -/

/-- STAGE_3: the arrays are tested on the cold path and zeroed; they stand at their reset values already. -/
def execStage3 (sramOk : Bool) (s : State) : Result :=
  atStage s 3 (fun s =>
    let n := if runsCold s 3 then Config.arrayCount else 0
    if sramOk then endStage s 3 0 n 0 0 else endStage s 3 0x30 n 0 0)

/-- A unit is listed in the defect list (R374). -/
def listed (s : State) (kind id : Nat) : Bool :=
  match (s.swb.defects.filter (fun d => d.2.1 == kind && d.2.2.1 == id)).getLast? with
  | some d => d.1
  | none => false

/-- A unit is set DEFECT during bring-up. -/
def noteDefect (s : State) (kind id stage cause : Nat) : State :=
  count { s with swb := { s.swb with newDefects := s.swb.newDefects ++ [(kind, id, stage, cause)] } } pgSWB 3

/-- The discovery message to a set of hubs (R371, R372). -/
def discovery (s : State) (hubs : List Nat) (second : Bool) : State :=
  sendRunsSpine s 3 (hubs.flatMap (fun h => (List.range 32).map (fun i => 32 * h + i))) (4 + b2n second * 2 ^ 8) []

/-- CORE_MHZ_CAP. -/
def mhzCap (s : State) (f : Nat) : Nat := let c := fuseBits s 62 63 % 2048; if c = 0 then f else min c f

/-- One endpoint that answered the discovery. -/
def foundEp (s : State) (x : Found) : State :=
  let e := x.ep.toNat
  let h := e / 32
  if hubFused s h then s
  else
    let k := x.kind.toNat
    let bad := decide (k = 3)
    let lst := listed s 0 e
    let st : UnitState := if bad || lst then .defect else .healthy
    let u : UnitRec := { UnitRec.reset with st := st, cause := if bad then Config.bootCause 4 else 0 }
    let s1 := s.setEp e { Endpoint.reset with exist := true, kind := k, mhz := mhzCap s x.mhz.toNat,
                                              imemKib := if k = 0 then 2 ^ x.log2Kib.toNat else 0, unit := u }
    let s2 := s1.setHub h { s1.hub h with mhz := s.vld.floorMhz,
                                          unit := { UnitRec.reset with st := if listed s 1 h then .defect else .healthy } }
    if bad && !lst then noteDefect s2 0 e 4 (Config.bootCause 4) else s2

/-- Links that LINK_DISABLE names, or that the defect list names as links. -/
def fuseLinks (s : State) : State :=
  (linkEps s).foldl (fun t e =>
    let l := linkNo s e
    if linkFused s l then t.setEp e { Endpoint.reset with kind := 2 }
    else if listed s 3 l then t.setEp e { t.ep e with unit := { (t.ep e).unit with st := .defect } } else t) s

/-- DEFECT endpoints, ascending. -/
def defectEps (s : State) : List Nat := (s.eps.filter (fun e => e.2.exist && decide (e.2.unit.st = .defect))).map (·.1)

/-- STAGE_4: `found` is what discovery returned. -/
def execStage4 (found : List Found) (s : State) : Result :=
  atStage s 4 (fun s =>
    let hubs := (List.range 512).filter (fun h => !hubFused s h)
    let s1 := fuseLinks (found.foldl foundEp (discovery s hubs false))
    let n := (s1.eps.filter (fun e => e.2.exist)).length
    let bad := defectEps s1
    if !(s1.eps.any (fun e => e.2.exist && e.2.kind == 0)) then endStage s1 4 0x40 n bad.length 0
    else endStage s1 4 (if bad.isEmpty then 0 else 1) n bad.length (bad.headD 0))

/-! ## Stage 5 (R372) -/

/-- A channel's state intake. -/
def chanIn (s : State) (x : ChanIn) : State :=
  let c := x.chan.toNat
  if chanFused s c then s
  else
    let cap := leAt (fuseBytes s 53 61) c 1 * 16384
    let up := decide (x.state.toNat = 1)
    let st : UnitState := if !up || listed s 2 c then .defect else .healthy
    let s1 := s.setChan c { Channel.reset with unit := { UnitRec.reset with st := st, cause := if up then 0 else Config.bootCause 5 },
                                               base := x.base, granules := if cap = 0 then x.granules else min cap x.granules,
                                               gbps := x.gbps, state := x.state.toNat }
    if !up && !listed s 2 c then noteDefect s1 2 c 5 (Config.bootCause 5) else s1

/-- A link's state intake. -/
def linkIn (s : State) (x : LinkIn) : State :=
  let e := x.ep.toNat
  let p := s.ep e
  if !p.exist ∨ p.kind ≠ 2 then s
  else
    let up := decide (x.state.toNat = 1)
    let u := if up then p.unit else { p.unit with st := .defect, cause := Config.bootCause 5 }
    let s1 := s.setEp e { p with peer := x.peer.toNat, linkState := x.state.toNat, unit := u }
    if !up && decide (p.unit.st ≠ .defect) then noteDefect s1 3 (linkNo s e) 5 (Config.bootCause 5) else s1

/-- A link that reported no state: DEFECT, as one that is not trained (R372). -/
def silentLink (s : State) (e : Nat) : State :=
  let p := s.ep e
  if p.exist && decide (p.unit.st = .healthy) then
    noteDefect (s.setEp e { p with unit := { p.unit with st := .defect, cause := Config.bootCause 5 } }) 3 (linkNo s e) 5 (Config.bootCause 5)
  else s

/-- The channels BIND0 names. -/
def bind0Units (s : State) (kind : Nat) : List Nat :=
  (s.swb.settings.bind0.filter (fun b => b.1 == kind)).flatMap (fun b => (List.range b.2.2).map (b.2.1 + ·))

/-- Hubs with a link endpoint. -/
def linkHubs (s : State) : List Nat := ((linkEps s).map (· / 32)).eraseDups

/-- STAGE_5: the states, the records of stages 0 to 4, and the known-answer area. -/
def execStage5 (chans : List ChanIn) (links : List LinkIn) (s : State) : Result :=
  atStage s 5 (fun s =>
    let s0 := links.foldl linkIn (chans.foldl chanIn (discovery s (linkHubs s) true))
    let s1 := (linkEps s).foldl (fun t e => if links.any (fun x => x.ep.toNat == e) then t else silentLink t e) s0
    let s2 := (List.range 5).foldl writeStage s1
    let s3 := emits s2 (writesOf s2 8 [(s.swb.settings.regions.getD 2 0, 1, s.swb.kar.length)] s.swb.kar)
    let up := (s3.chans.filter (fun c => c.2.state == 1)).map (·.1)
    let lup := (s3.eps.filter (fun e => e.2.exist && e.2.kind == 2 && e.2.linkState == 1)).length
    let bad := (s3.chans.filter (fun c => decide (c.2.unit.st = .defect))).map (·.1) ++
               (s3.swb.newDefects.filter (fun d => d.1 == 3 && d.2.2.1 == 5)).map (·.2.1)
    if !((bind0Units s3 3).any (fun c => up.contains c)) then endStage s3 5 0x51 up.length lup 0
    else endStage s3 5 (if bad.isEmpty then 0 else 1) up.length lup (bad.headD 0))

/-! ## Stage 6 (R373) -/

/-- One endpoint's run. -/
def bootRun (s : State) (r : BitVec 14 × RunResult) : State :=
  let e := r.1.toNat
  if (s.ep e).unit.st ≠ .healthy then s
  else
    let cold := runsCold s 6
    let s1 := runClear (karMessages (count s pgSWB 0) cold e) .endpoint e
    if runPasses s cold .endpoint e r.2 then s1
    else
      let s2 := s1.setEp e { s1.ep e with unit := { (s1.ep e).unit with st := .defect, cause := 0x61 } }
      let s3 := if r.2 = .timeout then setErr s2 pgSWB 2 e else s2
      noteDefect (count s3 pgSWB 1) 0 e 6 0x61

/-- pwr_floor is released: every hub at FLOOR_MHZ, then the wire (R327). -/
def releaseFloor (s : State) : State :=
  if s.vld.alert then s
  else
    let s1 := (liveHubs s).foldl (fun t h => emit (t.setHub h { t.hub h with mhz := s.vld.floorMhz }) (.freq h s.vld.floorMhz)) s
    { s1 with pins := { s1.pins with pwrFloor := false } }

/-- STAGE_6: with no known-answer entry for a type found, pwr_floor stays 1 (Table 14.6). `runs` are the outcomes of the
endpoints' runs, `windows` the calibration's windows (R317), `karPresent` whether every discovered type has an entry. -/
def execStage6 (runs : List (BitVec 14 × RunResult)) (windows : List CalWindow) (karPresent : Bool) (s : State) : Result :=
  atStage s 6 (fun s =>
    if !karPresent then endStage s 6 0x60 0 0 0
    else
      let s2 := runs.foldl bootRun (releaseFloor s)
      let s3 := { s2 with vld := { s2.vld with gain := calibrated s2 windows } }
      let bad := s3.swb.newDefects.filter (fun d => d.2.2.1 == 6)
      let tried := (runs.filter (fun r => decide ((s.ep r.1.toNat).unit.st = .healthy))).length
      endStage s3 6 (if bad.isEmpty then 0 else 1) (tried - bad.length) bad.length (match bad with | d :: _ => d.2.1 | [] => 0))

/-! ## Stage 7 -/

/-- A granule lies in a region that the block keeps for itself: the settings' regions, the Notch's, or a channel's highest
granule (R378). -/
def reservedGran (s : State) (g : Nat) : Bool :=
  let r := s.swb.settings.regions
  let hit (a n : Nat) : Bool := overlaps (g * 65536) 65536 a n
  hit (r.getD 0 0) 262144 || hit (r.getD 1 0) 2097152 || hit (r.getD 2 0) (r.getD 3 0) || hit Config.notchBase Config.notchSize ||
  s.chans.any (fun c => decide (0 < c.2.granules) && g == c.2.base + c.2.granules - 1)

/-- Every granule of a working channel that a pool may hold. -/
def chanGrans (s : State) (m : Nat) : List Nat :=
  let c := s.chan m
  ((List.range c.granules).map (c.base + ·)).filter (fun g => !reservedGran s g)

/-- Channels that hold granules. -/
def upChans (s : State) : List Nat := (s.chans.filter (fun c => decide (c.2.unit.st = .healthy))).map (·.1)

/-- Context 0's membership from BIND0; the virtual places are not given (log 26). -/
def bind0Members (s : State) : Members :=
  let us (k : Nat) : List Nat := bind0Units s k
  let at_ (k i : Nat) : Nat × Nat := Config.bind0Place k (us k).length i
  { cores := (List.range (us 0).length).map (fun i => ((at_ 0 i).1, (at_ 0 i).2, (us 0).getD i 0)),
    copies := (List.range (us 1).length).map (fun i => ((at_ 1 i).1, (us 1).getD i 0)),
    links := (List.range (us 2).length).map (fun i => ((at_ 2 i).1, (us 2).getD i 0, (s.ep ((us 2).getD i 0)).peer)),
    chans := (List.range (us 3).length).map (fun i => ((at_ 3 i).1, (us 3).getD i 0)) }

/-- Every BIND0 entry names distinct HEALTHY units of its kind. -/
def bind0Ok (s : State) : Bool :=
  [0, 1, 2, 3].all (fun k => (bind0Units s k).all (fun u => unitExists s k u && decide ((unitOf s (bindKind k) u).st = .healthy)) &&
                             distinct (bind0Units s k)) &&
  s.swb.settings.bind0.all (fun b => decide (b.1 ≤ 3))

/-- BIND0 at generation 1: the membership, and its table in the cores. -/
def doBind0 (s : State) : State :=
  let p := s.swb.settings.ctx0.getD 0 0
  let m := bind0Members s
  let cores := m.cores.map (·.2.2)
  let s1 := moveUnits (s.setPart p { s.part p with active := m, activeGen := 1 }) Members.none m p
  let s2 := sendTagged s1 2 cores (gridBeat 1 p 1 m) (wordsOfBytes (gridBytes m)) false .test noCtx
  sendTagged s2 2 cores (gridBeat 2 p 1 m) [] false .test noCtx

/-- What an attempt at stage 7's setup comes to: the state with it, a wait for granules still being zeroed (R79, R81), or a
failed check. -/
inductive Setup where
  | done (s : State)
  | wait
  | fail

/-- Context 0 enters ACTIVE (R68), over zeroed granules of its partition's pool. -/
def makeCtx0 (s : State) : Setup :=
  let f (i : Nat) : Nat := s.swb.settings.ctx0.getD i 0
  let p := f 0
  let t := ctxTables (f 1) (f 2) (f 3)
  let n := t.1 + t.2.1 + t.2.2 + 2
  let pool := poolFrom s p (rotation s p)
  if f 4 < n then .fail
  else if poolFree pool < n then (if n ≤ poolFree pool + poolZeroing s pool then .wait else .fail)
  else
    let r := takeTables n pool
    let g := (r.1.drop (t.1 + t.2.1)).take t.2.2
    let x : Context :=
      { freshContext s with
        st := .active, part := p, vaBits := f 1, syncBits := f 2, handleBits := f 3, quota := f 4, used := n, root := r.1.getD 0 0,
        htab := r.1.getD t.1 0, tables := r.1,
        pages := putPages [] ((List.range g.length).map (fun i =>
          (1 + i, { gran := g.getD i 0, write := true, sync := false, hostVis := false, large := false, key := 1, home := dieId s }))),
        l1 := [0], l2 := [0] }
    .done (putPool (s.setCtx 0 x) p r.2)

/-- MAP0: each record as an ALLOC with hint VA. -/
def doMap0 (s : State) : Setup :=
  s.swb.settings.map0.foldl (fun t r => match t with
    | .done u => (match allocObject u 0 r.2.1 r.1 (r.2.2 % 8) with
      | .done v _ _ => .done v
      | .wait => .wait
      | .fail _ => .fail)
    | x => x) (.done s)

/-- The fields of queue 0. -/
def queue0Fields (s : State) : QFields :=
  let f (i : Nat) : Nat := s.swb.settings.queue0.getD i 0
  { queue := 0, cls := 1, owner := 0, log2 := f 2, poll := f 3, home := f 4, warm := (f 5).testBit 0, crc := false,
    ntfEn := (f 5).testBit 1, ntfTarget := 0 }

/-- Queue 0, with CI and PI 0 in its index line, and ENABLED (log 26); none where its values fail R101. -/
def makeQueue0 (s : State) : Option State :=
  let f (i : Nat) : Nat := s.swb.settings.queue0.getD i 0
  let q := queue0Fields s
  if !(queueParamsOk s q (f 0) (f 1)) then none
  else match vWrite s q.home 0 (f 1) (zeroBytes 16) with
    | .error _ => none
    | .ok t =>
      let t1 := { t with ntfTargets := tset 0 t.ntfTargets 0 (BitVec.ofNat 64 (f 6)) }
      some (queueEnable (t1.setQueue 0 (queueRecord q q.home (f 0) (f 1))) 0)

/-- The security queue (R95): homed on slice 7, its ring and index line in the Notch's region (log 12). -/
def makeSecQueue (s : State) : State :=
  s.setQueue secQ { Queue.reset with ringBase := Config.notchBase / 4096, log2 := 4, idxLine := (Config.notchBase + 1024) / 64,
                                     cls := 2, st := .enabled, home := 7 }

/-- Every granule that a pool may hold goes to zeroing: a pool holds only zeroed granules (R79, R84). -/
def fillPools (s : State) : State :=
  (upChans s).foldl (fun t m => toZeroing (t.setChan m { t.chan m with free := [] }) (t.chan m).part (chanGrans t m)) s

/-- The units newly set DEFECT enter the defect list; those that it had room for stay in the record's count. -/
def appendNew (s : State) : State :=
  let t := s.swb.newDefects.foldl (fun t d => appendDefect t false (kindOfNo d.1) d.2.1 d.2.2.1 d.2.2.2) s
  { t with swb := { t.swb with newDefects := t.swb.newDefects.take (t.swb.defectAt - s.swb.defectAt) } }

/-- The start of stage 7: BIND0 binds, and the memory of the pools goes to zeroing. -/
def begin7 (s : State) : State :=
  let t := fillPools (doBind0 s)
  { t with swb := { t.swb with poolFill := true } }

/-- What stage 7 sets up over the zeroed granules. -/
def setup7 (s : State) : Setup :=
  match makeCtx0 s with
  | .done s1 => (match doMap0 s1 with
    | .done s2 => (match makeQueue0 s2 with
      | some s3 => .done (appendNew (makeSecQueue s3))
      | none => .fail)
    | x => x)
  | x => x

/-- Stage 7 ends: hfe_avail rises. -/
def finish7 (s : State) (handed : Nat) : State :=
  let s1 := { s with swb := { s.swb with handbackWait := false } }
  endStage s1 7 0 s1.swb.newDefects.length handed 0

/-- STAGE_7, in takes (log 26): the first checks and binds BIND0 and hands the pools' memory to zeroing; a later one,
once the granules that context 0 and MAP0 take are zeroed, sets up the rest. READY goes to a twin that is present, and
the stage waits for its HANDBACK_END. -/
def execStage7 (s : State) : Result :=
  atStage s 7 (fun s =>
    if s.swb.handbackWait then s
    else if !s.swb.poolFill then (if bind0Ok s then begin7 s else endStage s 7 0x70 0 0 0)
    else match setup7 s with
      | .wait => s
      | .fail => endStage s 7 0x70 0 0 0
      | .done t =>
        let t1 := placeCap t (t.swb.settings.regions.getD 0 0)
        let t2 := sendTwin t1 1
        if hasTwin t2 && t2.per.hbSeen then { t2 with swb := { t2.swb with handbackWait := true } } else finish7 t2 0)

end Sys2Proof.Machine
end

