-- ==== Sys2Proof/Machine/Tokens.lean ====
section
/-! DEFINITION. What endpoints return: completion tokens (R190, R192, R340), what each kind of record does with them, events
(R354), and commands the block absorbs (R379). -/

namespace Sys2Proof.Machine

/-! ## Engine completion status (Table 7.7) -/

/-- The status of a skip; none for the other engine statuses. -/
def skipStatus (st : Nat) : Option Status :=
  if st = 2 then some ST_IMEM_GENERATION
  else if st = 3 then some ST_ENGINE_ILLEGAL
  else if st = 4 then some ST_SPAD_RANGE
  else none

/-- A fault's status; none for the others. -/
def engineFault (st : Nat) : Option Status :=
  if st = 5 then some ST_ENGINE_MEMORY
  else if 6 ≤ st ∧ st ≤ 0x7F then some ST_ENGINE_FAULT
  else none

/-- Completed, with or without a note. -/
def engineOk (st : Nat) : Bool := st == 0 || decide (0x80 ≤ st)

/-- Engine time of a token in ns, exactly: cycles at the hub's frequency (R116); open where the hub reports none. -/
def engineNs (s : State) (e cycles : Nat) : Nat × Nat :=
  let f := (s.hub (e / 32)).mhz
  if f = 0 then (Config.unpriced [1, e, cycles], 1) else (cycles * 1000, f)

/-! ## Accounting -/

/-- A job's LAUNCHES, ENGINE_NS, STRETCHED and first skip (R116, R191). -/
def jobToken (s : State) (q : Nat) (ns : Nat × Nat) (stretched : Bool) (skip : Option Status) : State :=
  modJob s q (fun j =>
    let t := addFrac (j.engineNum, j.engineDen) ns
    { j with launches := j.launches + 1, engineNum := t.1, engineDen := t.2, stretched := j.stretched || stretched,
             skip := match skip with | some x => if j.skip = ST_OK then x else j.skip | none => j.skip })

/-- A context's accounting, progress and deficit (R273, R274, R343). -/
def ctxToken (s : State) (c : Nat) (ns : Nat × Nat) : State :=
  let x := s.ctx c
  let n := boundCount (s.part x.part).active
  let share : Int := if n = 0 then 0 else (ns.1 / (ns.2 * n) : Nat)
  s.setCtx c { x with acctEngine := addFrac x.acctEngine ns, launches := x.launches + 1, lastAdv := s.now,
                      deficit := x.deficit - share }

/-! ## Records -/

/-- A record without the endpoint's token; it returns to its pool with the last one (R186), and lets go of what it held. -/
def takeToken (s : State) (k r e : Nat) (x : LaunchRec) : State :=
  let y := { x with await := x.await.erase e, late := x.late.erase e }
  if y.await.isEmpty then x.held.foldl (fun t i => unholdHandle t x.ctx i) (freeRecord s k r)
  else putRec s k r y

/-- The first command of an endpoint with a tag leaves its queue. -/
def eraseTag (tag : Nat) : List (Nat × Nat) → List (Nat × Nat)
  | [] => []
  | c :: cs => if c.1 = tag then cs else c :: eraseTag tag cs

/-- An endpoint's command retires; a partial reset that awaits it goes on. -/
def retireCmd (s : State) (e tag : Nat) : State :=
  let s1 := s.setEp e { s.ep e with cmds := eraseTag tag (s.ep e).cmds }
  { s1 with swb := { s1.swb with resetOps := s1.swb.resetOps.map (fun o => { o with left := o.left.erase (e, tag) }) } }

/-- Resets whose abort tokens are all in go on. -/
def settleResets (s : State) : State := s.swb.resetOps.foldl (fun t o => resetSettle t o.id) s

/-! ## Zeroing (R84) -/

/-- A granule enters a channel's ordered list of zeroed granules. -/
def insertGran (g : Nat) : List Nat → List Nat
  | [] => [g]
  | x :: xs => if g < x then g :: x :: xs else x :: insertGran g xs

/-- A zeroing FILL's token: the granule returns to its pool, is zeroed once more, or is withheld. -/
def zeroToken (s : State) (g : Nat) (ok : Bool) : State :=
  match s.zeroing.find? (fun z => z.gran == g && z.issued) with
  | none => s
  | some z =>
    let rest := s.zeroing.filter (fun y => !(y.gran == g && y.issued))
    if ok then
      let s1 := count { s with zeroing := rest } pgOBJ 7
      match chanOf s1 g with
      | some m => s1.setChan m { s1.chan m with free := insertGran g (s1.chan m).free }
      | none => s1
    else if z.attempt = 0 then { s with zeroing := rest ++ [{ z with attempt := 1, issued := false }] }
    else setErr { s with zeroing := rest, withheld := s.withheld ++ [g] } pgOBJ 0 (g * 65536)

/-! ## What a token does for each purpose -/

/-- A token of a job's command. -/
def jobPurpose (s : State) (q e st : Nat) (ns : Nat × Nat) (stretched : Bool) (x : LaunchRec) : State :=
  let s1 := ctxToken (jobToken s q ns stretched (skipStatus st)) x.ctx ns
  let s2 := countLayer s1 x.ctx x.layer x.operator 1 ns 0
  match engineFault st with
  | some f => loseContext s2 x.ctx f (some (q, some x.pidx)) false [] (some e)
  | none => if st = 1 then endJob s2 q .aborted ST_ABORTED none else s2

/-- A token of a command whose job has no record any more. -/
def orphanPurpose (s : State) (e st : Nat) (ns : Nat × Nat) (x : LaunchRec) : State :=
  let s1 := countLayer (ctxToken s x.ctx ns) x.ctx x.layer x.operator 1 ns 0
  match engineFault st with
  | some f => loseContext s1 x.ctx f none false [] (some e)
  | none => s1

/-- A token of a grid translation write (R261). -/
def tablePurpose (s : State) (p op e st : Nat) (late : Bool) : State :=
  let s1 :=
    if st = 0 then
      if op = 1 ∧ !late then s.setPart p { s.part p with unacked := (s.part p).unacked.erase e } else s
    else if late then s
    else tableFault s p op e
  tableSettle s1 p

/-- What a token does beyond its slot and its record. `x` is the record as it stood. -/
def tokenPurpose (s : State) (e st : Nat) (ns : Nat × Nat) (stretched : Bool) (x : LaunchRec) : State :=
  match x.purpose with
  | .job q => endLayers (jobPurpose s q e st ns stretched x) q
  | .orphan => orphanPurpose s e st ns x
  | .zeroing g => zeroToken s g (engineOk st)
  | .tableWrite p op => tablePurpose s p op e st (x.late.contains e)
  | .clear c => s.setCtx c { s.ctx c with clearTags := (s.ctx c).clearTags - 1 }
  | .migrate p c old new key => migrated s p c old new key (engineOk st)
  | .linkRetrain q => linkRetrained s q (st == 0)
  | .owner p => sealGo (stageGo s p) p
  | .reset id => resetSettle s id
  | .test => s

/-- A table write's token: its status is judged by R261 alone. -/
def isTable (p : Purpose) : Bool := match p with | .tableWrite _ _ => true | _ => false

/-- An accepted token (R190): the counters of Table 7.10, the disagreement of R340, the slot, the record, its purpose, and
what a free slot and record let go on. -/
def acceptToken (s : State) (k r e tag st cycles : Nat) (stretched : Bool) (x : LaunchRec) : State :=
  let s1 := count s pgECP 2
  let s2 := if (skipStatus st).isSome then count s1 pgECP 3 else s1
  let s3 := if (engineFault st).isSome then count s2 pgECP 4 else s2
  let s4 := if 7 ≤ st ∧ st ≤ 0x7F then setErr s3 pgECP 3 e else s3
  let s5 := if 6 ≤ st ∧ st ≤ 0x7F ∧ !isTable x.purpose then setSuspect s4 .endpoint e (classOf ST_ENGINE_FAULT) false else s4
  let s6 := resumeFrees (takeToken (retireCmd s5 e tag) k r e x)
  pumpZero (pumpBlock (settleResets (tokenPurpose s6 e st (engineNs s e cycles) stretched x)))

/-- A token that reaches the spine: one without a record, or whose record does not await it, is discarded (R190). -/
def tokenIn (s : State) (e tag st cycles : Nat) (stretched : Bool) : State :=
  match recAt s tag with
  | none => setErr s pgECP 0 e
  | some x =>
    if x.await.contains e then acceptToken s (tag / 8192) (tag % 8192) e tag st cycles stretched x
    else setErr s pgECP 1 e

/-- ENGINE_TOKEN: a sleeping spine wakes for it (R15). -/
def execEngineToken (eb : BitVec 14) (tb : BitVec 16) (status : Byte) (cycles : BitVec 48) (stretched : Bool) (s : State) : Result :=
  .next (spineEvent s (.token eb.toNat tb.toNat status.toNat cycles.toNat stretched)
    (fun s => tokenIn s eb.toNat tb.toNat status.toNat cycles.toNat stretched))

/-- The block retires one command (endpoint, tag) itself, with ST_ABORTED. -/
def absorbCmd (t : State) (c : Nat × Nat) : State :=
  match recAt t c.2 with
  | none => retireCmd t c.1 c.2
  | some x =>
    let t1 := takeToken (retireCmd t c.1 c.2) (c.2 / 8192) (c.2 % 8192) c.1 x
    match x.purpose with
    | .job q => endLayers (endJob t1 q .aborted ST_ABORTED none) q
    | .zeroing g => zeroToken t1 g false
    | .migrate p cx old new key => migrated t1 p cx old new key false
    | .linkRetrain q => linkRetrained t1 q false
    | _ => t1

/-- The commands of an endpoint that a reset still waits for. -/
def owedCmds (s : State) (e : Nat) : List (Nat × Nat) := (s.swb.resetOps.flatMap (·.left)).filter (fun x => x.1 == e)

/-- ABORT_ABSORB: the block retires an endpoint's commands of a reset itself, with ST_ABORTED, and the endpoint is
SUSPECT. -/
def execAbortAbsorb (eb : BitVec 14) (s : State) : Result :=
  let e := eb.toNat
  let left := owedCmds s e
  if left.isEmpty then .next s
  else
    let s1 := left.foldl absorbCmd (setSuspect s .endpoint e (classOf ST_ABORTED) false)
    .next (pumpZero (pumpBlock (settleResets (resumeFrees s1))))

/-! ## Events (R354, R343, R357) -/

/-- ENGINE_EVENT: the entry enters its ring; type 0x05 is progress of the endpoint's context, type 0x40 a trace beat, type
0x04 a release by a disarm. -/
def execEngineEvent (eb : BitVec 14) (data : BitVec 128) (s : State) : Result :=
  let e := eb.toNat
  let v := data.toNat
  let type := v % 256
  if type = 0x40 then
    .next (if s.loe.trace.ctrl.getLsbD 4 then
             traceRec s 2 e (epCtx s e) (v.testBit 8) (bitsN v 63 16)
           else s)
  else
    let s1 := pushEvent s e type (bitsN v 15 8) (bitsN v 55 32)
    let s2 := if type = 0x04 then count s1 pgSAD 6 else s1
    .next (if type = 0x05 then
             match epCtx s2 e with
             | some c => s2.setCtx c { s2.ctx c with progress := (s2.ctx c).progress + 1, lastAdv := s2.now }
             | none => s2
           else s2)

end Sys2Proof.Machine
end

