-- ==== Sys2Proof/Machine/Faults.lean ====
section
/-! DEFINITION. The progress watchdog (R343 to R345), array errors (R349 to R351) and the trace sessions' own records
(R356, R357). -/

namespace Sys2Proof.Machine

/-! ## The wait-for graph (R345) -/

/-- The physical address of a fence operand in a context, if it resolves. -/
def fencePa (s : State) (c : Nat) (op : Word) (m : MemView) : Option Nat :=
  match resolveFence s c op none false m with
  | .ok (_, f) => some f.pa
  | .error _ => none

/-- The packets after a job's current one in the buffers it has read: in the buffer it executes those behind its packet, in
each caller those behind the call, where the caller already stands. -/
def laterPkts : List Frame → List (List Word)
  | [] => []
  | f :: fs => f.pkts.drop (f.pc + 1) ++ fs.flatMap (fun c => c.pkts.drop c.pc)

/-- The fences a job promises: its deferred signals, and the SIGNAL_FENCE and CREDIT packets after its current one in the
buffers it has read. -/
def promises (s : State) (q : Nat) (j : Job) (m : MemView) : List Nat :=
  let later := if streamOpen j.phase then laterPkts j.stack else []
  let sigs := later.filter (fun ws => opOf (hdrOf ws) == 0x11 || opOf (hdrOf ws) == 0x13)
  (j.deferred.map (·.fence) ++ sigs.map (fun ws => wordAt ws 1)).filterMap (fun w => fencePa s (s.queue q).owner w m)

/-- The jobs that promise the fence a queue waits at. A remote fence has no local promiser. -/
def waitEdges (s : State) (m : MemView) (q : Nat) : List Nat :=
  let w := s.waiter q
  match w.st with
  | .idle => []
  | .remote => []
  | _ => (s.jobs.filter (fun e => match e.2 with
           | some j => (promises s e.1 j m).contains w.fence.pa
           | none => false)).map (·.1)

/-- What a set of jobs reaches over the edges in at most n steps. -/
def reach (edges : Nat → List Nat) : Nat → List Nat → List Nat
  | 0, l => l
  | n + 1, l =>
    let new := ((l.flatMap edges).eraseDups).filter (fun q => !l.contains q)
    if new.isEmpty then l else reach edges n (l ++ new)

/-- The jobs on a cycle through a job: those it reaches that reach it. -/
def cycleOf (s : State) (m : MemView) (q : Nat) : List Nat :=
  let n := s.jobs.length + 1
  let edges := waitEdges s m
  let fwd := reach edges n (edges q)
  if fwd.contains q then fwd.filter (fun x => x == q || (reach edges n (edges x)).contains q) else []

/-! ## The watchdog (R344) -/

/-- A context's window in ns. -/
def windowNs (c : Context) : Nat := min 3600000 (max 1 c.wdogMs) * 1000000

/-- The watchdog's firing is due. -/
def wdogDue (s : State) (c : Nat) : Bool :=
  let x := s.ctx c
  x.st != .free && outstanding s c && decide (max x.lastAdv x.lastFire + windowNs x ≤ s.now)

/-- A context counts as fired now. -/
def markFired (s : State) (c : Nat) : State := count (s.setCtx c { s.ctx c with lastFire := s.now }) pgLOE 0

/-- A context is lost by the watchdog and its work aborted (R345). -/
def wdogLose (s : State) (cycle : List Nat) (st : Status) (c : Nat) : State :=
  if s.halted then s
  else
    let t := loseContext s c st none true cycle
    if t.halted then t else abortWork t c

/-- The outcome of one firing, by the context's state (R345). -/
def wdogFire (s : State) (c : Nat) (m : MemView) : State :=
  let s1 := markFired s c
  match (s1.ctx c).st with
  | .active =>
    let mine := (s1.jobs.filter (fun e => e.2.isSome && (s1.queue e.1).owner == c)).map (·.1)
    match (mine.flatMap (cycleOf s1 m)).eraseDups with
    | [] => wdogLose s1 [] ST_NO_PROGRESS c
    | cyc =>
      let cs := ((cyc.map (fun q => (s1.queue q).owner)).eraseDups).filter (fun x => (s1.ctx x).st == .active)
      let s2 := (cs.filter (· != c)).foldl (fun t x => t.setCtx x { t.ctx x with lastFire := t.now }) s1
      cs.foldl (fun t x => wdogLose t cyc ST_WAIT_CYCLE x) (count s2 pgLOE 1)
  | .lost => abortWork (capture s1 s1 c (s1.ctx c).lastStatus 2 [] none) c
  | .teardown =>
    let s2 := capture s1 s1 c (s1.ctx c).lastStatus 2 [] none
    if (s2.ctx c).aborting then s2 else startAbort s2 c
  | _ => s1

/-- WATCHDOG_CHECK: at a multiple of 1 ms, every context with outstanding work is judged in ascending ID; a halt ends the
check. -/
def execWatchdogCheck (m : MemView) (s : State) : Result :=
  if s.now % 1000000 ≠ 0 then .next s
  else .next ((s.ctxs.map (·.1)).foldl (fun t c => if t.halted then t else if wdogDue t c then wdogFire t c m else t) s)

/-! ## Array errors (R349, R350) -/

/-- A context is lost on an array error; the job concerned is named where there is one. An entry of the security queue
completes with the status (Table 4.1). -/
def eccLose (s : State) (c : Nat) (job : Option Nat) : State :=
  match job with
  | some q => if (s.queue q).cls = 2 then endJob s q .opStatus ST_INTERNAL_ECC none
              else loseContext s c ST_INTERNAL_ECC (some (q, none))
  | none => loseContext s c ST_INTERNAL_ECC none

/-- A queue record with an uncorrectable error: a tenant queue returns to DISABLED with FETCHED clear and its owner is
lost; another queue's halts the block. -/
def eccQueue (s : State) (q : Nat) : State :=
  let r := s.queue q
  if r.st = .free then s
  else if r.cls ≠ 0 then haltBlock s 4 ST_INTERNAL_ECC q
  else dropQueue (eccLose s r.owner (if (s.job q).isSome then some q else none)) q

/-- The page and array of an item (Table 16.13), and its word where the table fixes it. -/
def itemAt (s : State) (page array word : Nat) : EccItem → Bool
  | .queueRec _ => page == pgSTP && array == 0
  | .waiter q => page == pgWSH && array == 0 && word / 2 == q.toNat
  | .launchRec _ _ => page == pgLCH && array == 0
  | .jobState q => page == pgDSP (s.queue q.toNat).home && array == 0
  | .firmware => decide (0x10 ≤ page ∧ page < 0x18) && array == 0
  | .fanBuffer n => page == pgFAN && array == 0 && word / 32768 == n.toNat
  | .ctxRecord _ => page == pgOBJ && array == 0
  | .keySlot _ => page == pgNTC && array == 0
  | .syncCache _ _ => page == pgWSH && array == 3
  | .xltCache => page == pgXLT && array == 0
  | .fenceLine _ => page == pgWSH && array == 1
  | .ringEntry _ _ => page == pgLOE && array == 0
  | .traceBuffer i => page == pgLOE && array == 1 && word / 2 == i.toNat
  | .schedEntry _ => page == pgSCH && array == 0
  | .learner _ => page == pgVLD && array == 0
  | .historyEntry _ => page == pgSCH && array == 1
  | .layerCounter _ => page == pgLOE && array == 2
  | .unitState _ _ => page == pgSWB && array == 0
  | .defectCopy => page == pgSWB && array == 1
  | .other => (page == pgHFE && decide (array < 2)) || (page == pgDBL && decide (array < 2)) ||
              (page == pgWSH && (array == 2 || array == 4)) || (page == pgECP && array == 0) ||
              (page == pgOBJ && (array == 1 || array == 2)) || (page == pgSWB && array == 2) || (page == pgPER && array == 0)

/-- The loss mark that replaces a ring entry, whose bits the spec does not give: free values. -/
def lossMark (s : State) (e i : Nat) : State :=
  let (a, s1) := s.takeFree
  let (b, s2) := s1.takeFree
  let x := s2.ep e
  s2.setEp e { x with ring := x.ring.set i (Config.freeWord a ++ Config.freeWord b) }

/-- The loss mark that replaces a record of the trace buffer: free bytes likewise. -/
def traceMark (s : State) (i : Nat) : State :=
  let (a, s1) := s.takeFree
  { s1 with loe := { s1.loe with trace := { s1.loe.trace with
      buf := s1.loe.trace.buf.set i ((List.range 16).map (Config.freeByte a)) } } }

/-- The outcome of an uncorrectable error (Table 13.7). -/
def eccOutcome (s : State) : EccItem → State
  | .queueRec q => eccQueue s q.toNat
  | .waiter q => eccLose s (s.queue q.toNat).owner (if (s.job q.toNat).isSome then some q.toNat else none)
  | .launchRec l r =>
    match recAt s (tagOf l.toNat r.toNat) with
    | some x => match x.purpose with
      | .job q => eccLose s x.ctx (some q)
      | _ => if x.ctx = noCtx then s else eccLose s x.ctx none
    | none => s
  | .jobState q => if (s.job q.toNat).isSome then eccLose s (s.queue q.toNat).owner (some q.toNat) else s
  | .firmware => haltBlock s 4 ST_INTERNAL_ECC 0
  | .fanBuffer n =>
    match (s.fan n.toNat).streams with
    | [] => s
    | x :: _ => eccLose s x.ctx none
  | .ctxRecord c => if c.toNat = 0 then haltBlock s 4 ST_INTERNAL_ECC 0 else eccLose s c.toNat none
  | .keySlot k =>
    let x := s.slot k.toNat
    if x.st = .free then s
    else
      let t := eccLose s x.ctx none
      if x.st = .active && !t.halted then drainSlot t k.toNat else t
  | .syncCache c i => { s with wsh := { s.wsh with syncCache := tdel s.wsh.syncCache (c.toNat * 2 ^ 24 + i.toNat) } }
  | .xltCache => count s pgXLT 6
  | .fenceLine l =>
    let x := s.line l.toNat
    if x.used then rereadLine (s.setLine l.toNat { x with value := none }) l.toNat else s
  | .ringEntry e i => if i.toNat < (s.ep e.toNat).ring.length then lossMark s e.toNat i.toNat else s
  | .traceBuffer i => if i.toNat < s.loe.trace.buf.length then traceMark s i.toNat else s
  | .schedEntry c => s.setCtx c.toNat { s.ctx c.toNat with weight := 256, slice := 0, deficit := 0 }
  | .learner i => { s with vld := { s.vld with learner := s.vld.learner.eraseIdx i } }
  | .historyEntry i => { s with dl := { s.dl with hist := s.dl.hist.eraseIdx i } }
  | .layerCounter i => { s with loe := { s.loe with layers := s.loe.layers.eraseIdx i } }
  | .unitState k u => setSuspect s k u.toNat (classOf ST_INTERNAL_ECC) false
  | .defectCopy => haltBlock s 4 ST_INTERNAL_ECC 0
  | .other => s

/-- PATROL_SCRUB: one word of an array is read; an armed injection makes the read meet its error (R402). -/
def execPatrolScrub (page array : BitVec 8) (word : W32) (item : EccItem) (e : EccRead) (s : State) : Result :=
  let p := page.toNat
  if !(itemAt s p array.toNat word.toNat item) then .next s
  else
    let met : EccRead := match (s.page p).inject with
      | some true => .uncorrectable
      | some false => .corrected
      | none => e
    let s1 := s.setPage p { s.page p with inject := none }
    let addr := array.toNat * 2 ^ 56 + word.toNat
    match met with
    | .clean => .next s1
    | .corrected => .next (setErr s1 p 30 addr)
    | .uncorrectable => .next (eccOutcome (setErr s1 p 31 addr) item)

/-! ## Trace sessions (R356, R357) -/

/-- A TIME record; it belongs to no context, and to every session. -/
def traceTime (s : State) : State :=
  match s.loe.trace.owner with
  | some (.tenant c) => traceRec s 4 0 (some c) false s.now
  | _ => traceRec s 4 0 none false s.now

/-- START: a session of a view begins, unless one is active. -/
def startTrace (s : State) (o : TraceOwner) (no ctx : Nat) : State :=
  match s.loe.trace.owner with
  | some _ => setErr s pgLOE 0 ctx
  | none =>
    let t := { s.loe.trace with owner := some o, lastOwner := no, lastCtx := ctx, stoppedFull := false, written := 0,
                                dropped := 0, buf := [], gap := 0, gapAt := 0 }
    traceTime { s with loe := { s.loe with trace := t } }

/-- TIME30_WRAP: the record at a wrap of TIME30 during a session. -/
def execTime30Wrap (s : State) : Result :=
  if s.loe.trace.owner.isSome && s.now / 10 % 2 ^ 30 == 0 then .next (traceTime s) else .next s

end Sys2Proof.Machine
end

