-- ==== Sys2Proof/Machine/Twin.lean ====
section
/-! DEFINITION. The twin (R385 to R387), doorbells as the host port and the twin give them (R35, R112), and peer messages
of no listed type (R165). -/

namespace Sys2Proof.Machine

/-! ## Doorbells -/

/-- CLASS and CONTEXT name the owner of a queue that has a doorbell (R35). -/
def doorbellOwner (s : State) (q cls c : Nat) : Bool :=
  let r := s.queue q
  r.st != .free && ((cls == 0 && r.cls == 0 && c == r.owner) || (cls == 1 && r.cls == 1))

/-- A doorbell write with TWIN clear: refused and counted, ignored, or accepted (R35, R112, R85). The second answer says
that it was accepted with OKAY. -/
def doorbell (s : State) (q cls c : Nat) : State × Bool :=
  if !(doorbellOwner s q cls c) then (count s pgHFE 0, false)
  else
    let r := s.queue q
    let x := s.ctx r.owner
    if r.st ≠ .enabled ∨ x.st = .teardown ∨ x.st = .removing then (count s pgHFE 1, true)
    else (ringDoorbell s q, true)

/-- DOORBELL_FWD's beat (Table 14.11). -/
def fwdBeat (q cls c : Nat) : Nat := 0x21 + q * 2 ^ 8 + cls * 2 ^ 26 + c * 2 ^ 28

/-- A doorbell goes to the twin as DOORBELL_FWD. -/
def forwardDoorbell (s : State) (q cls c : Nat) : State := count (sendPeer s (twinDie s) (fwdBeat q cls c)) pgPER 4

/-- A doorbell for the partner (Table 14.10, any state): forwarded where it is PAIRED, else held. -/
def twinDoorbell (s : State) (q cls c : Nat) : State :=
  if s.per.twin = .paired then forwardDoorbell s q cls c
  else count { s with per := { s.per with hold := tset false s.per.hold q true } } pgPER 3

/-! ## The twin's messages -/

/-- The state this block reports: 1 READY, 2 HALTED, 3 STARTING. -/
def ownTwinState (s : State) : Nat :=
  match s.swb.boot with
  | .ready => 1
  | .halted => 2
  | _ => 3

/-- HANDBACK beats of up to 13 queues each (Table 14.11). -/
def handbackBeats : Nat → List Nat → List Nat
  | 0, _ => []
  | _, [] => []
  | n + 1, l =>
    let h := l.take 13
    (0x22 + h.length * 2 ^ 8 + (h.zipIdx.map (fun e => e.1 * 2 ^ (12 + 18 * e.2))).sum) :: handbackBeats n (l.drop 13)

/-- The hand-back: the held queues in order, then HANDBACK_END with their count; the hold set clears (Table 14.10). -/
def handBack (s : State) : State :=
  let qs := s.per.hold.map (·.1)
  let s1 := (handbackBeats (qs.length + 1) qs).foldl (fun t b => sendPeer t (twinDie t) b) s
  let s2 := sendPeer s1 (twinDie s1) (0x23 + qs.length * 2 ^ 8)
  count { s2 with per := { s2.per with hold := [], twin := .paired } } pgPER 5

/-- A message of the twin; one of another die has no effect (log 28). -/
def fromTwin (s : State) (die : Nat) (f : State → State) : State :=
  if hasTwin s && die == twinDie s then f s else s

/-- TWIN_STATE received. -/
def execTwinState (die : BitVec 16) (beat : BitVec 256) (s : State) : Result :=
  .next (peerIn s die.toNat beat 0x20 (mask 47 0) (fun s b => fromTwin s die.toNat (fun s =>
    let st := bitsN b 15 8
    let s1 := { s with per := { s.per with twinBoot := BitVec.ofNat 32 (bitsN b 47 16), twinState := st } }
    match s1.per.twin with
    | .waiting => if st = 1 then handBack s1 else s1
    | .paired => if st = 2 ∨ st = 3 then { s1 with per := { s1.per with twin := .waiting } } else s1
    | _ => s1)))

/-- TWIN_STATE_RESEND: the state goes out again each 1 ms. -/
def execTwinStateResend (s : State) : Result := .next (sendTwin s (ownTwinState s))

/-- DOORBELL_FWD received: from a partner that runs, a doorbell for a queue of this block, judged under R35; from one that
does not, a doorbell of the partner itself, which its recovery loader forwards (R386, log 28). -/
def execDoorbellFwd (die : BitVec 16) (beat : BitVec 256) (s : State) : Result :=
  .next (peerIn s die.toNat beat 0x21 (mask 41 0) (fun s b => fromTwin s die.toNat (fun s =>
    let q := bitsN b 25 8
    let cls := bitsN b 27 26
    let c := bitsN b 41 28
    if s.per.twinState = 2 ∨ s.per.twinState = 3 then twinDoorbell s q cls c
    else (doorbell s q cls c).1)))

/-- HANDBACK received: one 4-byte entry for each queue, at offset 4 KiB of the stage record region, in the order
received. -/
def execHandback (die : BitVec 16) (beat : BitVec 256) (s : State) : Result :=
  .next (peerIn s die.toNat beat 0x22 (mask 245 12 + mask 11 0) (fun s b => fromTwin s die.toNat (fun s =>
    let n := min 13 (bitsN b 11 8)
    let qs := (List.range n).map (fun i => bitsN b (29 + 18 * i) (12 + 18 * i))
    let base := s.swb.settings.regions.getD 1 0 + 4096 + 4 * s.swb.handbackBuf
    let s1 := putOrDrop s pgSWB [(base, 0, 4 * n)] (qs.flatMap (leBytes 4))
    { s1 with swb := { s1.swb with handbackBuf := s1.swb.handbackBuf + n } })))

/-- HANDBACK_END received: SWB_HANDBACK takes the count, and stage 7 that waits for it ends (R387). -/
def execHandbackEnd (die : BitVec 16) (beat : BitVec 256) (s : State) : Result :=
  .next (peerIn s die.toNat beat 0x23 (mask 39 0) (fun s b => fromTwin s die.toNat (fun s =>
    let n := bitsN b 39 8
    let s1 := { s with swb := { s.swb with handback := n, handbackBuf := 0 } }
    if s1.swb.handbackWait then finish7 s1 n else s1)))

/-! ## The heartbeat -/

/-- HEARTBEAT_SEEN: a toggle of peer_hb_in. -/
def execHeartbeatSeen (s : State) : Result :=
  let s1 := { s with per := { s.per with hbSeen := true, lastHb := s.now } }
  .next (if s1.per.twin = .absent then
           sendTwin { s1 with per := { s1.per with twin := .waiting } } (ownTwinState s1)
         else s1)

/-- HEARTBEAT_LOST: no toggle for 16 us. -/
def execHeartbeatLost (s : State) : Result :=
  if !s.per.hbSeen then .next s
  else
    let s1 := { s with per := { s.per with hbSeen := false } }
    let s2 := if s1.per.twin = .waiting ∨ s1.per.twin = .paired then
                count (setErr { s1 with per := { s1.per with twin := .absent } } pgPER 3 (twinDie s1)) pgPER 6
              else s1
    .next (if s2.swb.handbackWait then finish7 s2 0 else s2)

/-! ## Messages of no listed type -/

/-- The peer message types of Table 6.9 that the block takes. -/
def peerTypes : List Nat :=
  [0x01, 0x02, 0x03, 0x04, 0x05, 0x10, 0x11, 0x20, 0x21, 0x22, 0x23, 0x30, 0x31, 0x40, 0x41]

/-- UNLISTED_PEER_MESSAGE: it is discarded and counted (R165); types 0x24 to 0x2F are discarded the same way. -/
def execUnlistedPeerMessage (die : BitVec 16) (beat : BitVec 256) (s : State) : Result :=
  if peerTypes.contains (beat.toNat % 256) then .next s
  else
    let d := die.toNat
    let s1 := count s pgPER 1
    .next (count (setErr s1 pgPER (if d < domFirst s ∨ domLast s < d then 0 else 1) d) pgPER 2)

end Sys2Proof.Machine
end

