-- ==== Sys2Proof/Machine/Numbers.lean ====
section
/-! DEFINITION. Number formats (R231 to R234), conversion and rounding (R235 to R239) and the counter-based generator
(R237). A finite value is kept exactly, as a sign, a magnitude and a power of two. -/

namespace Sys2Proof.Machine

/-- What an element encodes: a NaN, an infinity, or (-1)^neg * m * 2^e. -/
inductive FVal where
  | nan
  | inf (neg : Bool)
  | fin (neg : Bool) (m : Nat) (e : Int)
deriving DecidableEq, Repr

/-! ## Formats (Tables 9.2 and 9.3) -/

/-- A floating-point format: exponent and mantissa bits, bias, special encodings (0 infinities and NaNs, 1 a NaN only, 2
neither), and its largest finite value maxM * 2^maxE. -/
structure Fmt where
  eb : Nat
  mb : Nat
  bias : Nat
  special : Nat
  maxM : Nat
  maxE : Int
deriving DecidableEq, Repr

def fp32 : Fmt := ⟨8, 23, 127, 0, 2 ^ 24 - 1, 104⟩

/-- The formats of codes 0 to 7. -/
def fmtTable : List Fmt :=
  [fp32, ⟨8, 7, 127, 0, 255, 120⟩, ⟨5, 10, 15, 0, 2047, 5⟩, ⟨4, 3, 7, 1, 7, 6⟩, ⟨5, 2, 15, 0, 7, 13⟩, ⟨3, 2, 3, 2, 7, 2⟩,
   ⟨2, 3, 1, 2, 15, -1⟩, ⟨2, 1, 1, 2, 3, 1⟩]

def fmtOf (code : Nat) : Option Fmt := fmtTable[code]?

/-- Bits of an element of a format code. -/
def fmtBits (code : Nat) : Nat := [32, 16, 16, 8, 8, 6, 6, 4, 8, 32, 16, 8, 4].getD code 0

/-- The bytes of a tensor (R233). -/
def tensorBytes (code n : Nat) : Nat :=
  if fmtBits code = 6 then (n + 3) / 4 * 3 else (fmtBits code * n + 7) / 8

/-- Element i of a packed tensor. -/
def elemAt (code : Nat) (bs : List Byte) (i : Nat) : Nat :=
  let w := fmtBits code
  if w = 4 then ((bs.getD (i / 2) 0).toNat >>> (4 * (i % 2))) % 16
  else if w = 6 then (leNat (((bs.drop (i / 4 * 3)).take 3)) >>> (6 * (i % 4))) % 64
  else leNat ((bs.drop (i * (w / 8))).take (w / 8))

/-- A packed tensor of elements; the last byte or group is padded with zero bits. -/
def packElems (code : Nat) (vs : List Nat) : List Byte :=
  let w := fmtBits code
  leBytes (tensorBytes code vs.length) (vs.foldr (fun v acc => v + acc * 2 ^ w) 0)

/-- What bits of a floating-point format encode. -/
def decodeF (f : Fmt) (v : Nat) : FVal :=
  let s := v.testBit (f.eb + f.mb)
  let e := (v >>> f.mb) % 2 ^ f.eb
  let m := v % 2 ^ f.mb
  if e = 2 ^ f.eb - 1 ∧ f.special = 0 then (if m = 0 then .inf s else .nan)
  else if e = 2 ^ f.eb - 1 ∧ m = 2 ^ f.mb - 1 ∧ f.special = 1 then .nan
  else if e = 0 then .fin s m (1 - (f.bias : Int) - f.mb)
  else .fin s (m + 2 ^ f.mb) ((e : Int) - f.bias - f.mb)

/-- What the bits of an element of any listed format encode. -/
def elemVal (code v : Nat) : FVal :=
  match fmtOf code with
  | some f => decodeF f v
  | none =>
    if code = 8 then (if v = 255 then .nan else .fin false 1 ((v : Int) - 127))
    else
      let i := signedN (fmtBits code) v
      .fin (decide (i < 0)) i.natAbs 0

/-! ## Exact rationals -/

/-- n * 2^e as a fraction. -/
def frac2 (n : Nat) (e : Int) : Nat × Nat := if 0 ≤ e then (n * 2 ^ e.toNat, 1) else (n, 2 ^ (-e).toNat)

/-- The floor of log2 (n / d), for n and d above 0. -/
def floorLog2 (n d : Nat) : Int :=
  let a : Int := (Nat.log2 n : Int) - Nat.log2 d
  let x := frac2 d a
  if x.1 ≤ n * x.2 then a else a - 1

/-- a * 2^p at most b * 2^r. -/
def leScaled (a : Nat) (p : Int) (b : Nat) (r : Int) : Bool :=
  let e := min p r
  decide (a * 2 ^ (p - e).toNat ≤ b * 2 ^ (r - e).toNat)

/-- The multiple of the format's quantum below n / d: multiple, remainder, divisor, exponent of the quantum. -/
def quantize (f : Fmt) (n d : Nat) : Nat × Nat × Nat × Int :=
  let p := max (floorLog2 n d) (1 - (f.bias : Int)) - f.mb
  let x := frac2 d p
  let num := n * x.2
  (num / x.1, num % x.1, x.1, p)

/-- A positive value rounded to a format with unbounded exponent: none is RNE, some r is SR with that random value
(R236). -/
def roundQ (f : Fmt) (rm : Option Nat) (n d : Nat) : Nat × Int :=
  let (q, r, den, p) := quantize f n d
  match rm with
  | none => (if den < 2 * r ∨ (2 * r = den ∧ q % 2 = 1) then q + 1 else q, p)
  | some x => (if x < r * 2 ^ 32 / den then q + 1 else q, p)

/-- The encoding of a rounded magnitude. -/
def encodeQ (f : Fmt) (neg : Bool) (q : Nat) (p : Int) : Nat :=
  let s := b2n neg * 2 ^ (f.eb + f.mb)
  if q < 2 ^ f.mb then s + q
  else
    let (q1, p1) := if q = 2 ^ (f.mb + 1) then (q / 2, p + 1) else (q, p)
    s + (p1 + f.mb + f.bias).toNat * 2 ^ f.mb + (q1 - 2 ^ f.mb)

/-! ## Conversion to a narrower floating-point format (Table 9.4) -/

/-- The largest finite value, an infinity and the NaN the block writes. -/
def maxBits (f : Fmt) (neg : Bool) : Nat :=
  let r := roundQ f none (frac2 f.maxM f.maxE).1 (frac2 f.maxM f.maxE).2
  encodeQ f neg r.1 r.2
def infBits (f : Fmt) (neg : Bool) : Nat := b2n neg * 2 ^ (f.eb + f.mb) + (2 ^ f.eb - 1) * 2 ^ f.mb
def nanBits (f : Fmt) : Nat :=
  (2 ^ f.eb - 1) * 2 ^ f.mb + (if f.special = 1 then 2 ^ f.mb - 1 else 2 ^ (f.mb - 1))

/-- The overflow outcome and whether it counts as non-finite. -/
def overflowBits (f : Fmt) (sat neg : Bool) : Nat × Bool :=
  if f.special = 2 then (maxBits f neg, !sat)
  else if sat then (maxBits f neg, false)
  else (if f.special = 0 then infBits f neg else nanBits f, false)

/-- A conversion to a format: the bits, and whether Table 9.4 counts it. -/
def convertF (f : Fmt) (sat : Bool) (rm : Option Nat) : FVal → Nat × Bool
  | .nan => if f.special = 2 then (0, true) else (nanBits f, false)
  | .inf neg =>
    if f.special = 2 then (maxBits f neg, true)
    else if sat then (maxBits f neg, true)
    else (if f.special = 0 then infBits f neg else nanBits f, false)
  | .fin neg m e =>
    if m = 0 then (b2n neg * 2 ^ (f.eb + f.mb), false)
    else
      let x := frac2 m e
      let r := roundQ f rm x.1 x.2
      let spills := match rm with
        | none => !(leScaled r.1 r.2 f.maxM f.maxE)
        | some _ => !(leScaled m e f.maxM f.maxE)
      if spills then overflowBits f sat neg else (encodeQ f neg r.1 r.2, false)

/-- A conversion to E8M0 (last row of Table 9.4). -/
def convertE8M0 : FVal → Nat
  | .nan => 0xFF
  | .inf _ => 0xFF
  | .fin _ m e =>
    if m = 0 then 0
    else (min 254 (max 0 ((Nat.log2 m : Int) + e + 127))).toNat

/-- A conversion to a two's complement integer of w bits (R239). -/
def convertInt (w : Nat) (rm : Option Nat) : FVal → Nat
  | .nan => 0
  | .inf neg => if neg then 2 ^ (w - 1) else 2 ^ (w - 1) - 1
  | .fin neg m e =>
    let x := frac2 m e
    let q := x.1 / x.2
    let r := x.1 % x.2
    let up := match rm with
      | none => decide (x.2 < 2 * r) || (decide (2 * r = x.2) && decide (q % 2 = 1))
      | some v => decide (v < r * 2 ^ 32 / x.2)
    let mag := if up then q + 1 else q
    if neg then unsignedN w (-(min mag (2 ^ (w - 1)) : Nat)) else min mag (2 ^ (w - 1) - 1)

/-! ## FP32 arithmetic (R235): round to nearest even, overflow to infinity -/

/-- An exact value rounded to FP32. -/
def round32 (neg : Bool) (n d : Nat) : FVal :=
  if n = 0 then .fin neg 0 0
  else
    let r := roundQ fp32 none n d
    if leScaled r.1 r.2 fp32.maxM fp32.maxE then .fin neg r.1 r.2 else .inf neg

/-- The bits of a value as FP32. -/
def bits32 (x : FVal) : Nat := (convertF fp32 false none x).1

/-- The value of FP32 bits. -/
def val32 (v : Nat) : FVal := decodeF fp32 (v % 2 ^ 32)

/-- A finite value's signed magnitude over 2^e, for e at most its exponent. -/
def scaledInt (neg : Bool) (m : Nat) (p e : Int) : Int :=
  let v : Int := m * 2 ^ (p - e).toNat
  if neg then -v else v

def fneg : FVal → FVal
  | .nan => .nan
  | .inf n => .inf (!n)
  | .fin n m e => .fin (!n) m e

def fadd : FVal → FVal → FVal
  | .nan, _ => .nan
  | _, .nan => .nan
  | .inf a, .inf b => if a = b then .inf a else .nan
  | .inf a, .fin _ _ _ => .inf a
  | .fin _ _ _, .inf b => .inf b
  | .fin a m e, .fin b n g =>
    let k := min e g
    let v := scaledInt a m e k + scaledInt b n g k
    let x := frac2 v.natAbs k
    if v = 0 then .fin (a && b) 0 0 else round32 (decide (v < 0)) x.1 x.2

def fsub (x y : FVal) : FVal := fadd x (fneg y)

def fmul : FVal → FVal → FVal
  | .nan, _ => .nan
  | _, .nan => .nan
  | .inf a, .inf b => .inf (a != b)
  | .inf a, .fin b n _ => if n = 0 then .nan else .inf (a != b)
  | .fin a m _, .inf b => if m = 0 then .nan else .inf (a != b)
  | .fin a m e, .fin b n g => let x := frac2 (m * n) (e + g); round32 (a != b) x.1 x.2

def fdiv : FVal → FVal → FVal
  | .nan, _ => .nan
  | _, .nan => .nan
  | .inf _, .inf _ => .nan
  | .inf a, .fin b _ _ => .inf (a != b)
  | .fin a _ _, .inf b => .fin (a != b) 0 0
  | .fin a m e, .fin b n g =>
    if n = 0 then (if m = 0 then .nan else .inf (a != b))
    else let x := frac2 1 (e - g); round32 (a != b) (m * x.1) (n * x.2)

/-- A finite value. -/
def isFin : FVal → Bool
  | .fin _ _ _ => true
  | _ => false

/-- Magnitude. -/
def fabs : FVal → FVal
  | .nan => .nan
  | .inf _ => .inf false
  | .fin _ m e => .fin false m e

/-- Strictly less, with NaN below everything (R246); zeros are equal. -/
def flt : FVal → FVal → Bool
  | _, .nan => false
  | .nan, _ => true
  | .inf a, .inf b => a && !b
  | .inf a, .fin _ _ _ => a
  | .fin _ _ _, .inf b => !b
  | .fin a m e, .fin b n g => let k := min e g; decide (scaledInt a m e k < scaledInt b n g k)

/-- The larger of two values; +0 is larger than -0 (IEEE 754-2019 maximum), and the smaller the other way. -/
def fpMax (x y : FVal) : FVal :=
  if flt x y then y else if flt y x then x else match x with
    | .fin true 0 _ => y
    | _ => x
def fpMin (x y : FVal) : FVal :=
  if flt x y then x else if flt y x then y else match x with
    | .fin false 0 _ => y
    | _ => x

/-- The floor of a finite value as an integer. -/
def ffloor (neg : Bool) (m : Nat) (e : Int) : Int :=
  let x := frac2 m e
  if neg then -((ceilDiv x.1 x.2 : Nat) : Int) else ((x.1 / x.2 : Nat) : Int)

/-! ## The generator (R237) -/

/-- mix of R237, modulo 2^64. -/
def mix64 (z0 : Word) : Word :=
  let z1 := z0 + 0x9e3779b97f4a7c15
  let z2 := (z1 ^^^ (z1 >>> 30)) * 0xbf58476d1ce4e5b9
  let z3 := (z2 ^^^ (z2 >>> 27)) * 0x94d049bb133111eb
  z3 ^^^ (z3 >>> 31)

/-- rnd of R237. -/
def rnd (seed : Word) (ctx routine i : Nat) : Nat :=
  (mix64 (mix64 (seed ^^^ (BitVec.ofNat 64 ctx <<< 48) ^^^ (BitVec.ofNat 64 routine <<< 32)) ^^^ BitVec.ofNat 64 i)).toNat % 2 ^ 32

/-! ## Exponentials for softmax (R246: weights within 2 ulp) -/

/-- exp (-y) over 2^200, for a y over 2^200 of at most 4096 steps' worth: the series, then twelve squarings. -/
def expSeries (z : Nat) : Nat → Nat → Nat → Nat × Nat
  | 0, _, _ => (0, 0)
  | n + 1, k, t =>
    let u := t * z / 2 ^ 200 / k
    let r := expSeries z n (k + 1) u
    (u + r.2, r.1)

/-- Square a number over 2^200 n times. -/
def squares : Nat → Nat → Nat
  | 0, x => x
  | n + 1, x => squares n (x * x / 2 ^ 200)

/-- exp (-y) over 2^200, rounded down; y over 2^200. From 150 on it is 0. -/
def expNeg (y : Nat) : Nat :=
  if 150 * 2 ^ 200 ≤ y then 0
  else
    let r := expSeries (y / 4096) 40 1 (2 ^ 200)
    squares 12 (2 ^ 200 + r.2 - r.1)

/-- A finite non-negative difference over 2^200. -/
def fixed200 (m : Nat) (e : Int) : Nat := let x := frac2 m (e + 200); x.1 / x.2

/-- The correctly rounded FP32 bits of a softmax weight of `x` among `xs`, where every value is finite. -/
def softmaxBits (x : FVal) (xs : List FVal) : Nat :=
  let top := xs.foldl fpMax x
  let ex (v : FVal) : Nat := match fsub top v with
    | .fin _ m e => expNeg (fixed200 m e)
    | _ => 0
  let sum := (xs.map ex).sum
  if sum = 0 then 0 else bits32 (round32 false (ex x) sum)

end Sys2Proof.Machine
end

