-- ==== Sys2Proof/Machine/Routines.lean ====
section
/-! DEFINITION. CALL_ROUTINE (R140, R226) and the resident routines (R227 to R253): parameter blocks, operands, results. -/

namespace Sys2Proof.Machine

/-! ## Parameter blocks (R240) -/

/-- An unsigned field of a block. -/
def pf (p : List Byte) (off n : Nat) : Nat := leNat (cut p off n)

/-- An MREF operand of a block. -/
def pm (p : List Byte) (off : Nat) : Word × Word := (BitVec.ofNat 64 (pf p off 8), BitVec.ofNat 64 (pf p (off + 8) 8))

/-- An operand that is absent: virtual-address form with address 0. -/
def absent (r : Word × Word) : Bool := bitAt r.1 63 && r.2 == 0

/-- The fixed bits of an MREF hold (Table 5.3). -/
def mrefFixed (r : Word × Word) : Bool := fld r.1 62 32 == 0 && (!(bitAt r.1 63) || (fld r.1 31 0 == 0 && fld r.2 63 57 == 0))

/-- The bytes no field of the table takes are 0. -/
def reserved0 (p : List Byte) (ranges : List (Nat × Nat)) : Bool := ranges.all (fun r => (cut p r.1 r.2).all (· == 0))

/-- A check of a block: ST_ROUTINE_PARAM where it fails. -/
def need (b : Bool) : Except Status Unit := if b then .ok () else .error ST_ROUTINE_PARAM

/-- A counted field lies in its range. -/
def within (n lo hi : Nat) : Bool := decide (lo ≤ n) && decide (n ≤ hi)

/-- A required operand resolves over n bytes (R227). -/
def resolve (s : State) (q : Nat) (r : Word × Word) (n : Nat) (write : Bool) : Except Status Nat :=
  (resolveMref (s.ctx (s.queue q).owner) r.1 r.2 n write).map (·.1)

/-- A required operand is present and well formed. -/
def present (r : Word × Word) : Except Status Unit := need (!(absent r) && mrefFixed r)

/-- Read at a resolved address. -/
def rd (s : State) (q va n : Nat) (m : MemView) : Except Status (List Byte) := vRead s (s.queue q).owner va n m

/-- Write at a resolved address. -/
def wr (s : State) (q va : Nat) (bs : List Byte) : Except Status State := vWrite s (portQ s q) (s.queue q).owner va bs

/-- The elements of n bytes as numbers of w bytes each. -/
def units (w n : Nat) (bs : List Byte) : List Nat := (List.range n).map (fun i => leNat (cut bs (i * w) w))

/-- A free FP32 word, for a result the spec does not state (log 5). -/
def free32 (s : State) : Nat × State := let (f, s1) := s.takeFree; ((Config.freeWord f).toNat % 2 ^ 32, s1)

/-! ## Starting a routine (R226) -/

/-- The processors of a slice that run a graph of a queue other than q (Table 9.9): the one that executed GRAPH_RUN, while
the graph's job is at its packets and waits for nothing (log 48). -/
def graphProcs (s : State) (k q : Nat) : List Nat :=
  s.jobs.filterMap (fun e => match e.2 with
    | some j => if e.1 ≠ q ∧ (s.queue e.1).home = k ∧ j.phase = .run then j.run.map (·.proc) else none
    | none => none)

/-- The lowest processor of a slice that runs neither a routine nor another queue's graph. -/
def idleProc (s : State) (k q : Nat) : Option Nat :=
  (List.range 8).find? (fun p => ((s.slice k).procs.getD p none).isNone && !((graphProcs s k q).contains p))

/-- A queue's routine joins those waiting for an idle processor. -/
def waitProc (s : State) (q : Nat) (id : Nat) : State :=
  let k := (s.queue q).home
  let sl := s.slice k
  let s1 := if sl.routineWait.contains q then s
            else count (s.setSlice k { sl with routineWait := sl.routineWait ++ [q] }) (pgDSP k) 4
  modJob s1 q (fun j => { j with phase := .routineWait id, waitSince := j.waitSince.orElse (fun _ => some s.now) })

/-- A queue waits first in line for a processor. -/
def firstInLine (s : State) (q : Nat) : Bool :=
  match (s.slice (s.queue q).home).routineWait with
  | [] => true
  | h :: _ => h == q

/-- The turn of a CALL_ROUTINE that waits for a processor comes once it is first in line and a processor is idle. -/
def routineTurn (s : State) (q : Nat) : State :=
  modJob s q (fun j => match j.phase with
    | .routineWait _ => if firstInLine s q && (idleProc s (s.queue q).home q).isSome then { j with phase := .run } else j
    | _ => j)

/-- The operand that names a routine's state record: STATE of a per-tensor SCALE_UPDATE or of LOSS_SCALE_CHECK (R228). -/
def recordOperand (id : Nat) (p : List Byte) : Option (Word × Word) :=
  if id = 1 then (if pf p 70 1 % 2 = 0 then some (pm p 0) else none)
  else if id = 8 then some (pm p 16)
  else none

/-- The physical address of the first byte of the state record that a queue's routine names (R229). -/
def recordPa (s : State) (q : Nat) : Option Nat :=
  match s.job q with
  | some j => (match j.phase with
    | .routine id p => (match recordOperand id p with
      | some r => (match resolve s q r 1 false with
        | .ok va => (pageOf (s.ctx (s.queue q).owner) va).map (fun e => physOf e va)
        | .error _ => none)
      | none => none)
    | _ => none)
  | none => none

/-- A call that started earlier names the same state record and has not committed: this one waits (R229). -/
def recordBusy (s : State) (q : Nat) : Bool :=
  match recordPa s q with
  | some a => (s.calls.takeWhile (· != q)).any (fun p => recordPa s p == some a)
  | none => false

/-- A call takes its place in the order of calls; one that must wait for a state record is counted (Table 9.10). -/
def enterCall (s : State) (q : Nat) : State :=
  let s1 := { s with calls := s.calls ++ [q] }
  if recordBusy s1 q then count s1 (pgDSP (s.queue q).home) 5 else s1

/-- CALL_ROUTINE: a processor is taken, the parameter block is read once and the routine runs; without an idle processor it
waits its turn. The handle of the block is held until the packet retires (R126). An exception of the processor halts the
block (R351). -/
def execCallRoutine (qb : BitVec 18) (m : MemView) (fw : FwRun) (s : State) : Result :=
  packetRow (routineTurn s qb.toNat) qb.toNat 0x27 noTokens (fun s _ ws =>
    let q := qb.toNat
    let k := (s.queue q).home
    let c := (s.queue q).owner
    let id := fld (wordAt ws 1) 15 0
    let n := fld (wordAt ws 1) 47 32
    match idleProc s k q with
    | none => waitProc s q id
    | some i =>
      if !(firstInLine s q) then waitProc s q id
      else
        let s := traceInstructions s k i c fw
        if fw.exception then haltBlock s 5 ST_OK q
        else match resolveMref (s.ctx c) (wordAt ws 2) (wordAt ws 3) n false with
          | .error e => faultJob s q e
          | .ok (va, h) => match vRead s c va n m with
            | .error e => faultJob s q e
            | .ok bs =>
              let sl := s.slice k
              let s1 := s.setSlice k { sl with procs := sl.procs.set i (some (q, id)), routineWait := sl.routineWait.filter (· != q) }
              let s2 := match h with | some x => holdHandle s1 c x | none => s1
              enterCall (count (modJob (chargeWait s2 q) q (fun j =>
                { j with phase := .routine id bs, held := match h with | some x => x :: j.held | none => j.held })) (pgDSP k) 0) q)

/-- A routine's processor is idle again, and its call has ended. -/
def freeProc (s : State) (q : Nat) : State :=
  let k := (s.queue q).home
  let sl := s.slice k
  { s.setSlice k { sl with procs := sl.procs.map (fun p => match p with
      | some (x, r) => if x = q then none else some (x, r)
      | none => none) } with calls := s.calls.filter (· != q) }

/-! ## Ending a routine -/

/-- What a routine leaves: the state with its writes, its 64-bit result, the status D15 takes, and the status of a write that
failed, which loses the context with the earlier writes made (R228). -/
structure Done where
  st : State
  result : Word
  d15 : Status
  failed : Option Status

/-- A routine's output arrays, in its order: the writes up to the first that fails, with its status. -/
def putOutputs (s : State) (q : Nat) : List (Nat × List Byte) → State × Option Status
  | [] => (s, none)
  | (va, bs) :: rest => match wr s q va bs with
    | .ok t => putOutputs t q rest
    | .error e => (s, some e)

/-- The final commit of a state record: once begun it finishes, whatever one of its writes meets (R228). -/
def putCommit (s : State) (q : Nat) : List (Nat × List Byte) → Option Status → State × Option Status
  | [], e => (s, e)
  | (va, bs) :: rest, e => match wr s q va bs with
    | .ok t => putCommit t q rest e
    | .error x => putCommit s q rest (e.orElse fun _ => some x)

/-- RD_EN and RDST of the CALL_ROUTINE a job stands at. -/
def setRdst (j : Job) (v : Word) : Job :=
  match curPkt j with
  | some ws => if bitAt (wordAt ws 1) 20 then setD j (fld (wordAt ws 1) 19 16) v else j
  | none => j

/-- A routine finishes: the registers are written and CALL_ROUTINE retires (R140). -/
def endRoutine (s : State) (q : Nat) (v : Word) (st : Status) : State :=
  retireWith (count (freeProc s q) (pgDSP (s.queue q).home) (if st = ST_OK then 1 else 2)) q
    (fun j => setRdst { j with d15 := BitVec.ofNat 64 st.toNat } v)

/-- Statuses that are an operation status of a routine: the others lose the context (R131, R227). -/
def routineOp (st : Status) : Bool := st == ST_ROUTINE_PARAM || st == ST_MEASURE_FULL

/-- A routine ends with a status other than ST_OK. -/
def failRoutine (s : State) (q : Nat) (st : Status) : State :=
  let s1 := modJob (freeProc s q) q (fun j => { j with d15 := BitVec.ofNat 64 st.toNat })
  if routineOp st then opStatus (count s1 (pgDSP (s.queue q).home) 2) q st else faultJob s1 q st

/-- A routine row of a queue: its job runs that routine, and no earlier call on the same state record is still to commit
(R229); `f` is what the routine does with its parameter block. -/
def routineRow (s : State) (q id : Nat) (f : List Byte → Except Status Done) : Result :=
  match s.job q with
  | none => .next s
  | some j =>
    match j.phase with
    | .routine i p =>
      if i ≠ id || s.halted || !(sliceUp s (s.queue q).home) || recordBusy s q then .next s
      else match f p with
        | .ok d => .next (match d.failed with
          | none => endRoutine d.st q d.result d.d15
          | some e => failRoutine d.st q e)
        | .error e => .next (failRoutine s q e)
    | _ => .next s

/-! ## SCALE_UPDATE (R241 to R244) -/

/-- 2^k as an FP32 value. -/
def pow2F (k : Int) : FVal := .fin false 1 k

/-- A scale between 2^-126 and 2^127. -/
def clampScale (x : FVal) : FVal := fpMin (fpMax x (pow2F (-126))) (pow2F 127)

/-- The scale for an amax: fmax * 2^-margin / a, rounded once; with POW2 the power of two below it. The quotient of a
negative amax, which only a record that no call wrote can give, lies below the clamp. -/
def scaleFor (f : Fmt) (margin : Int) (pow2 : Bool) (a : FVal) : FVal :=
  let sc := match a with
    | .fin n m e => if m = 0 then .fin false 1 0
                    else if n then .fin true 1 0
                    else let x := frac2 1 (f.maxE - margin - e); round32 false (f.maxM * x.1) (m * x.2)
    | .inf _ => .fin false 0 0
    | .nan => .nan
  let sc := if pow2 then (match sc with
                          | .fin n m e => if n ∨ m = 0 then sc else pow2F ((Nat.log2 m : Int) + e)
                          | x => x) else sc
  clampScale sc

/-- An amax for which R242 states no scale: with POW2 the logarithm of a negative quotient (log 29). -/
def badAmax (pow2 : Bool) : FVal → Bool
  | .nan => true
  | .inf _ => false
  | .fin n m _ => pow2 && n && m != 0

/-- The per-tensor update (R242): the record's bytes, the amax word. -/
def scaleTensor (s : State) (q : Nat) (va : Nat) (f : Fmt) (pow2 : Bool) (r : List Byte) (amax : Nat) : Except Status Done :=
  let len := pf r 0 2
  let pos := pf r 2 2
  let filled := pf r 4 2
  let x := val32 amax
  if !(isFin x) then
    let hdr := cut r 0 16 ++ leBytes 4 amax ++ leBytes 4 (pf r 20 4 + 1) ++ cut r 24 40
    let r := putCommit s q [(va, hdr)] none
    .ok ⟨r.1, 1, ST_OK, r.2⟩
  else
    let mag := amax % 2 ^ 31
    let hist := (units 4 len (r.drop 64)).set pos mag
    let filled1 := min (filled + 1) len
    let words := (hist.take filled1).map val32
    let a := if pf r 6 1 ≠ 0 then fabs x else words.foldl fpMax (.fin true 0 0)
    let bad := badAmax pow2 a || (pf r 6 1 == 0 && words.any (· == .nan))
    let (fw, s1) := if bad then free32 s else (0, s)
    let sc := if bad then val32 fw else scaleFor f (signedN 8 (pf r 7 1)) pow2 a
    let hdr := cut r 0 2 ++ leBytes 2 ((pos + 1) % len) ++ leBytes 2 filled1 ++ cut r 6 2 ++ leBytes 4 (bits32 sc) ++
               leBytes 4 (bits32 (fdiv (.fin false 1 0) sc)) ++ leBytes 4 amax ++ cut r 20 44
    let c := putCommit s1 q [(va + 64 + 4 * pos, leBytes 4 mag), (va, hdr)] none
    .ok ⟨c.1, 0, ST_OK, c.2⟩

/-- The exponent of the largest element of a destination format (R244). -/
def emaxOf (code : Nat) : Int := [(8 : Int), 15, 4, 2, 2].getD (code - 3) 0

/-- A zero of either sign. -/
def zeroF (x : FVal) : Bool := match x with | .fin _ 0 _ => true | _ => false

/-- One block of a per-block update: the scale byte, the elements, whether it counts. `i0` is the index of its first
element. -/
def scaleBlock (dst : Nat) (f : Fmt) (sr : Option (Word × Nat)) (i0 : Nat) (xs : List FVal) : Nat × List Nat × Bool :=
  if xs.any (fun x => !(isFin x)) then (255, xs.map (fun _ => 0), true)
  else
    if xs.all zeroF then (0, xs.map (fun x => (convertF f true none x).1), false)
    else
      let logs := xs.filterMap (fun x => match x with | .fin _ m e => if m = 0 then none else some ((Nat.log2 m : Int) + e) | _ => none)
      let top := logs.foldl max (logs.headD 0)
      let X := min 127 (max (-127) (top - emaxOf dst))
      let conv (p : FVal × Nat) : Nat := match p.1 with
        | .fin n m e => (convertF f true (sr.map (fun y => rnd y.1 y.2 1 (i0 + p.2))) (.fin n m (e - X))).1
        | _ => 0
      ((X + 127).toNat, xs.zipIdx.map conv, false)

/-- The blocks of 32 of a list. -/
def blocksOf : Nat → List FVal → List (List FVal)
  | 0, _ => []
  | _, [] => []
  | n + 1, xs => xs.take 32 :: blocksOf n (xs.drop 32)

/-- SCALE_UPDATE. A record's bytes [63:24], laid out as 0, hold 0 (R8, R241). FILLED equal to LEN runs, as Table 9.6, the
pseudocode and worked example 9.1 have it, against R241's 'at or above LEN' (log 49). -/
def scaleUpdate (s : State) (q : Nat) (m : MemView) (p : List Byte) : Except Status Done := do
  let flags := pf p 70 1
  need (reserved0 p [(71, 1)] && decide (flags < 32))
  let state := pm p 0
  let src := pm p 16
  let dst := pm p 32
  let scales := pm p 48
  let code := pf p 69 1
  need (within code 3 7)
  let f := (fmtOf code).getD fp32
  if flags % 2 = 0 then
    present state
    present src
    need (absent dst && absent scales)
    let va ← resolve s q state 64 true
    let sva ← resolve s q src 4 false
    let h ← rd s q va 64 m
    let len := pf h 0 2
    need (within len 1 64 && decide (pf h 2 2 < len) && decide (pf h 4 2 ≤ len) && (cut h 24 40).all (· == 0))
    let va ← resolve s q state (64 + 4 * len) true
    let r ← rd s q va (64 + 4 * len) m
    let a ← rd s q sva 4 m
    scaleTensor s q va f (flags.testBit 4) r (leNat a)
  else
    let n := pf p 64 4
    let quant := flags.testBit 1
    let scode := pf p 68 1
    need (absent state && within n 1 (2 ^ 26) && within scode 0 2)
    present src
    present scales
    need (if quant then !(absent dst) && mrefFixed dst else absent dst)
    let nb := (n + 31) / 32
    let sva ← resolve s q src (tensorBytes scode n) false
    let cva ← resolve s q scales nb true
    let dva ← if quant then resolve s q dst (tensorBytes code n) true else .ok 0
    let bs ← rd s q sva (tensorBytes scode n) m
    let xs := (List.range n).map (fun i => elemVal scode (elemAt scode bs i))
    let sr := if flags.testBit 2 then some (BitVec.ofNat 64 (pf p 72 8), (s.queue q).owner) else none
    let out := (blocksOf nb xs).zipIdx.map (fun b => scaleBlock code f sr (32 * b.2) b.1)
    let r := putOutputs s q ((if quant then [(dva, packElems code (out.flatMap (·.2.1)))] else []) ++
                             [(cva, out.map (fun b => BitVec.ofNat 8 b.1))])
    let conv := ((blocksOf nb xs).filter (fun b => quant && sr.isSome && b.all isFin && !(b.all zeroF))).map (·.length)
    .ok ⟨count r.1 (pgDSP (s.queue q).home) 6 conv.sum, BitVec.ofNat 64 (out.filter (·.2.2)).length, ST_OK, r.2⟩

/-! ## AMAX_REDUCE (R245) -/

/-- The largest magnitude of the finite elements as FP32 bits. -/
def amaxBits (xs : List FVal) : Nat := bits32 (((xs.filter isFin).map fabs).foldl fpMax (.fin false 0 0))

/-- AMAX_REDUCE. -/
def amaxReduce (s : State) (q : Nat) (m : MemView) (p : List Byte) : Except Status Done := do
  let n := pf p 32 4
  let code := pf p 36 1
  let mode := pf p 37 1
  need (reserved0 p [(38, 10)] && within n 1 (2 ^ 28) && (within code 0 7 || within code 9 12) && decide (mode ≤ 1))
  present (pm p 0)
  present (pm p 16)
  let outs := if mode = 0 then 1 else (n + 31) / 32
  let sva ← resolve s q (pm p 0) (tensorBytes code n) false
  let dva ← resolve s q (pm p 16) (4 * outs) true
  let bs ← rd s q sva (tensorBytes code n) m
  let xs := (List.range n).map (fun i => elemVal code (elemAt code bs i))
  let groups := if mode = 0 then [xs] else blocksOf outs xs
  let t ← wr s q dva (groups.flatMap (fun g => leBytes 4 (amaxBits g)))
  .ok ⟨t, BitVec.ofNat 64 (xs.filter (fun x => !(isFin x))).length, ST_OK, none⟩

/-! ## TOPK_ROUTE (R246) -/

/-- The k best experts of a token, best first, ties to the lower index. -/
def topK (logits : List FVal) (k : Nat) : List Nat :=
  ((sortBy (fun a b => !(flt (logits.getD a .nan) (logits.getD b .nan))) (List.range logits.length)).take k)

/-- A weight of a softmax: within 2 ulp of the correctly rounded one. Beside finite logits one of -Inf has weight 0 and adds
nothing to the others' sum; where a logit is a NaN or +Inf, or all are -Inf, the weight is a free word (log 29). -/
def softmaxWeight (s : State) (x : FVal) (xs : List FVal) : Nat × State :=
  let (f, s1) := s.takeFree
  let fin := xs.filter isFin
  if !fin.isEmpty && xs.all (fun y => isFin y || y == .inf true) then
    if isFin x then (((softmaxBits x fin : Int) + (Config.freeNat f % 5 : Nat) - 2).toNat, s1) else (0, s)
  else ((Config.freeWord f).toNat % 2 ^ 32, s1)

/-- The weight of a choice (WEIGHTS). -/
def routeWeight (s : State) (mode : Nat) (logits : List FVal) (sel : List Nat) (e : Nat) : Nat × State :=
  let x := logits.getD e .nan
  if mode = 0 then softmaxWeight s x (sel.map (fun i => logits.getD i .nan))
  else if mode = 1 then softmaxWeight s x logits
  else if mode = 2 then (bits32 x, s)
  else (0, s)

/-- The choices of one token placed in rank order: assignments, counts, dropped. -/
def placeToken (mode cap : Nat) (logits : List FVal) (sel : List Nat) :
    List Nat → State × List Word × List Nat × Nat → State × List Word × List Nat × Nat
  | [], a => a
  | e :: es, (s, out, cnt, drop) =>
    let c := cnt.getD e 0
    if cap ≠ 0 ∧ cap ≤ c then placeToken mode cap logits sel es (s, out ++ [BitVec.ofNat 64 0xFFFF], cnt, drop + 1)
    else
      let (w, s1) := routeWeight s mode logits sel e
      placeToken mode cap logits sel es
        (s1, out ++ [BitVec.ofNat 64 (e + c % 65536 * 2 ^ 16 + w * 2 ^ 32)], cnt.set e (c + 1), drop)

/-- TOPK_ROUTE. -/
def topkRoute (s : State) (q : Nat) (m : MemView) (p : List Byte) : Except Status Done := do
  let n := pf p 48 4
  let ne := pf p 52 2
  let k := pf p 54 1
  let code := pf p 55 1
  let mode := pf p 56 1
  let cap := pf p 60 4
  need (reserved0 p [(57, 3)] && within n 1 65536 && within ne 2 1024 && within k 1 8 && decide (k ≤ ne) && within code 0 2 &&
        decide (mode ≤ 3))
  present (pm p 0)
  present (pm p 16)
  present (pm p 32)
  let lva ← resolve s q (pm p 0) (tensorBytes code (n * ne)) false
  let ava ← resolve s q (pm p 16) (8 * n * k) true
  let cva ← resolve s q (pm p 32) (4 * ne) true
  let bs ← rd s q lva (tensorBytes code (n * ne)) m
  let r := (List.range n).foldl (fun a t =>
    let logits := (List.range ne).map (fun e => elemVal code (elemAt code bs (t * ne + e)))
    let sel := topK logits k
    placeToken mode cap logits sel sel a) (s, [], List.replicate ne 0, 0)
  let o := putOutputs r.1 q [(ava, bytesOfWords r.2.1), (cva, r.2.2.1.flatMap (leBytes 4))]
  .ok ⟨o.1, BitVec.ofNat 64 r.2.2.2, ST_OK, o.2⟩

/-! ## PREFIX_SUM, SORT_SMALL, HISTOGRAM (R247, R248) -/

/-- Running sums modulo 2^w. -/
def prefixes (w : Nat) (incl : Bool) : List Nat → Nat → List Nat × Nat
  | [], acc => ([], acc)
  | v :: vs, acc =>
    let next := (acc + v) % 2 ^ w
    let r := prefixes w incl vs next
    ((if incl then next else acc) :: r.1, r.2)

/-- PREFIX_SUM. -/
def prefixSum (s : State) (q : Nat) (m : MemView) (p : List Byte) : Except Status Done := do
  let n := pf p 32 4
  let type := pf p 36 1
  let incl := pf p 37 1
  need (reserved0 p [(38, 10)] && within n 1 (2 ^ 24) && decide (type ≤ 1) && decide (incl ≤ 1))
  present (pm p 0)
  present (pm p 16)
  let w := if type = 0 then 4 else 8
  let sva ← resolve s q (pm p 0) (w * n) false
  let dva ← resolve s q (pm p 16) (w * n) true
  let bs ← rd s q sva (w * n) m
  let r := prefixes (8 * w) (incl == 1) (units w n bs) 0
  let t ← wr s q dva (r.1.flatMap (leBytes w))
  .ok ⟨t, BitVec.ofNat 64 r.2, ST_OK, none⟩

/-- A sort key as a number: unsigned, signed, or the totalOrder of FP32. -/
def sortKey (type v : Nat) : Nat :=
  if type = 0 then v
  else if type = 1 then (v + 2 ^ 31) % 2 ^ 32
  else if v.testBit 31 then 2 ^ 32 - 1 - v else v + 2 ^ 31

/-- SORT_SMALL; what it leaves in SCRATCH is not stated and not output (log 29). -/
def sortSmall (s : State) (q : Nat) (m : MemView) (p : List Byte) : Except Status Done := do
  let n := pf p 48 4
  let type := pf p 52 1
  let desc := pf p 53 1
  need (reserved0 p [(54, 10)] && within n 1 65536 && decide (type ≤ 2) && decide (desc ≤ 1))
  let vals := pm p 16
  present (pm p 0)
  present (pm p 32)
  need (absent vals || mrefFixed vals)
  let kva ← resolve s q (pm p 0) (4 * n) true
  let vva ← if absent vals then .ok 0 else resolve s q vals (4 * n) true
  let _ ← resolve s q (pm p 32) (8 * n) true
  let ks ← rd s q kva (4 * n) m
  let vs ← if absent vals then .ok [] else rd s q vva (4 * n) m
  let pairs := (List.range n).map (fun i => (leNat (cut ks (4 * i) 4), leNat (cut vs (4 * i) 4)))
  let sorted := sortBy (fun a b => if desc = 1 then decide (sortKey type b.1 ≤ sortKey type a.1)
                                            else decide (sortKey type a.1 ≤ sortKey type b.1)) pairs
  let r := putOutputs s q ((kva, sorted.flatMap (fun e => leBytes 4 e.1)) ::
                           (if absent vals then [] else [(vva, sorted.flatMap (fun e => leBytes 4 e.2))]))
  .ok ⟨r.1, 0, ST_OK, r.2⟩

/-- The bin of an element; none where it lies outside every bin (R248). -/
def binOf (type b lo hi v : Nat) : Option Nat :=
  let idx : Option Int :=
    if type = 0 then some ((v : Int) - lo)
    else if type = 1 then some (signedN 32 v - signedN 32 lo)
    else
      match fdiv (fmul (fsub (val32 v) (val32 lo)) (.fin false b 0)) (fsub (val32 hi) (val32 lo)) with
      | .fin n mm e => some (ffloor n mm e)
      | _ => none
  match idx with
  | some i => if 0 ≤ i ∧ i < b then some i.toNat else none
  | none => none

/-- HISTOGRAM. -/
def histogramR (s : State) (q : Nat) (m : MemView) (p : List Byte) : Except Status Done := do
  let n := pf p 32 4
  let b := pf p 36 4
  let type := pf p 40 1
  let accum := pf p 41 1
  let lo := pf p 48 4
  let hi := pf p 52 4
  need (reserved0 p [(42, 6), (56, 8)] && within n 1 (2 ^ 28) && within b 1 16384 && decide (type ≤ 2) && decide (accum ≤ 1) &&
        (type == 2 || hi == 0))
  present (pm p 0)
  present (pm p 16)
  let sva ← resolve s q (pm p 0) (4 * n) false
  let bva ← resolve s q (pm p 16) (4 * b) true
  let bs ← rd s q sva (4 * n) m
  let old ← if accum = 1 then (rd s q bva (4 * b) m).map (units 4 b) else .ok (List.replicate b 0)
  let r := (units 4 n bs).foldl (fun (a : List Nat × Nat) v =>
    match binOf type b lo hi v with
    | some i => (a.1.modify i (fun x => satAdd (2 ^ 32 - 1) x 1), a.2)
    | none => (a.1, a.2 + 1)) (old, 0)
  let t ← wr s q bva (r.1.flatMap (leBytes 4))
  .ok ⟨t, BitVec.ofNat 64 r.2, ST_OK, none⟩

/-! ## SHAPE_EVAL (R249) -/

/-- An entry of the table: SRC_INDEX, TILE, MAX, OP, DST_A, DST_B. -/
structure ShapeEntry where
  src : Nat
  tile : Nat
  limit : Nat
  op : Nat
  dstA : Nat
  dstB : Nat

def shapeEntry (bs : List Byte) (i : Nat) : ShapeEntry :=
  let e := cut bs (32 * i) 32
  ⟨pf e 0 4, pf e 4 4, pf e 8 4, pf e 12 1, pf e 16 8, pf e 24 8⟩

/-- No DST_B. -/
def noDst : Nat := 2 ^ 64 - 1

/-- An entry is well formed: TILE at least 1, OP listed, its offsets aligned, its reserved bytes 0. -/
def shapeOk (bs : List Byte) (i : Nat) : Bool :=
  let e := shapeEntry bs i
  decide (1 ≤ e.tile) && decide (e.op ≤ 1) && (cut bs (32 * i + 13) 3).all (· == 0) &&
  e.dstA % (if e.op = 0 then 4 else 2) == 0 && (e.dstB == noDst || e.dstB % 4 == 0)

/-- What an entry writes for a value, and whether a clamp changed it. -/
def shapeValue (e : ShapeEntry) (v : Nat) : Nat × Bool :=
  let c0 := ceilDiv v e.tile
  let c1 := if e.limit = 0 then c0 else min c0 e.limit
  let c2 := if e.op = 1 then min c1 65535 else c1
  (c2, c2 != c0)

/-- The entries' effects in table order on the object DST, resolved at `dva`, up to the first access that fails. -/
def shapeRun (s : State) (q dva : Nat) (src : Nat → Except Status Nat) : List ShapeEntry → Nat → State × Nat × Option Status
  | [], n => (s, n, none)
  | e :: es, n =>
    match src e.src with
    | .error x => (s, n, some x)
    | .ok v =>
      let r := shapeValue e v
      let o := putOutputs s q ((dva + e.dstA, leBytes (if e.op = 0 then 4 else 2) r.1) ::
                               (if e.dstB = noDst then [] else [(dva + e.dstB, leBytes 4 v)]))
      match o.2 with
      | some x => (o.1, n, some x)
      | none => shapeRun o.1 q dva src es (n + b2n r.2)

/-- The bytes of DST and SRC that a table reaches. -/
def shapeReach (es : List ShapeEntry) : Nat × Nat :=
  (es.foldl (fun n e => max n (max (e.dstA + (if e.op = 0 then 4 else 2)) (if e.dstB = noDst then 0 else e.dstB + 4))) 0,
   es.foldl (fun n e => max n (4 * e.src + 4)) 0)

/-- SHAPE_EVAL. The table is read first; SRC and DST resolve over the bytes its entries reach. -/
def shapeEval (s : State) (q : Nat) (m : MemView) (p : List Byte) : Except Status Done := do
  let n := pf p 48 2
  need (reserved0 p [(50, 14)] && within n 1 4096)
  present (pm p 0)
  present (pm p 16)
  present (pm p 32)
  let tva ← resolve s q (pm p 32) (32 * n) false
  let _ ← resolve s q (pm p 0) 4 false
  let _ ← resolve s q (pm p 16) 2 true
  let tb ← rd s q tva (32 * n) m
  need ((List.range n).all (shapeOk tb))
  let es := (List.range n).map (shapeEntry tb)
  let dva ← resolve s q (pm p 16) (shapeReach es).1 true
  let sva ← resolve s q (pm p 0) (shapeReach es).2 false
  let r := shapeRun s q dva (fun i => (rd s q (sva + 4 * i) 4 m).map leNat) es 0
  .ok ⟨r.1, BitVec.ofNat 64 r.2.1, ST_OK, r.2.2⟩

/-! ## LOSS_SCALE_CHECK (R250) -/

/-- A maximum or minimum of FP32 words; free where one of them is a NaN, which the spec does not state. -/
def clampWord (s : State) (f : FVal → FVal → FVal) (x y : FVal) : Nat × State :=
  if x = .nan ∨ y = .nan then free32 s else (bits32 (f x y), s)

/-- The record after a check: SCALE, GOOD, OVERFLOWS. -/
def lossUpdate (s : State) (r : List Byte) (overflowed : Bool) : State × Nat × Nat × Nat :=
  let scale := val32 (pf r 0 4)
  let good := pf r 4 4
  let interval := pf r 8 4
  if overflowed then
    let (sc, s1) := clampWord s fpMax (val32 (pf r 20 4)) (fmul scale (val32 (pf r 16 4)))
    (s1, sc, 0, (pf r 28 4 + 1) % 2 ^ 32)
  else
    let g := (good + 1) % 2 ^ 32
    if interval ≠ 0 ∧ g = interval then
      let (sc, s1) := clampWord s fpMin (val32 (pf r 24 4)) (fmul scale (val32 (pf r 12 4)))
      (s1, sc, 0, pf r 28 4)
    else (s, pf r 0 4, g, pf r 28 4)

/-- LOSS_SCALE_CHECK. -/
def lossScaleCheck (s : State) (q : Nat) (m : MemView) (p : List Byte) : Except Status Done := do
  let n := pf p 32 4
  let clear := pf p 36 1
  need (reserved0 p [(37, 11)] && within n 1 65536 && decide (clear ≤ 1))
  present (pm p 0)
  present (pm p 16)
  let fva ← resolve s q (pm p 0) (4 * n) (clear == 1)
  let sva ← resolve s q (pm p 16) 32 true
  let fs ← rd s q fva (4 * n) m
  let r ← rd s q sva 32 m
  let overflowed := fs.any (· != 0)
  let u := lossUpdate s r overflowed
  let o := putOutputs u.1 q (if clear = 1 then [(fva, zeroBytes (4 * n))] else [])
  match o.2 with
  | some e => .ok ⟨o.1, 0, ST_OK, some e⟩
  | none =>
    let c := putCommit o.1 q [(sva, leBytes 4 u.2.1 ++ leBytes 4 u.2.2.1 ++ cut r 8 20 ++ leBytes 4 u.2.2.2)] none
    .ok ⟨c.1, BitVec.ofNat 64 (b2n overflowed), ST_OK, c.2⟩

/-! ## SPEC_ACCEPT (R251) -/

/-- A position of MODE 1 passes. -/
def specPass (seed : Word) (ctx i : Nat) (qv pv : FVal) : Bool :=
  let zero (x : FVal) : Bool := match x with | .fin _ 0 _ => true | _ => false
  if !(isFin qv) || !(isFin pv) || zero pv then false
  else match fdiv qv pv with
    | .fin n mm e =>
      let x := frac2 mm (e + 32)
      decide (!n ∧ rnd seed ctx 9 i < min (2 ^ 32) (x.1 / x.2))
    | .inf n => decide (!n ∧ rnd seed ctx 9 i < 2 ^ 32)
    | .nan => false

/-- The number of leading positions that pass. -/
def leading (l : List Bool) : Nat := (l.takeWhile (fun b => b)).length

/-- SPEC_ACCEPT. -/
def specAccept (s : State) (q : Nat) (m : MemView) (p : List Byte) : Except Status Done := do
  let ns := pf p 64 2
  let l := pf p 66 1
  let mode := pf p 67 1
  need (reserved0 p [(68, 4)] && within ns 1 4096 && within l 1 32 && decide (mode ≤ 1))
  let dp := pm p 32
  present (pm p 0)
  present (pm p 16)
  present (pm p 48)
  need (if mode = 0 then absent dp else !(absent dp) && mrefFixed dp)
  let tw := if mode = 0 then l + 1 else l
  let dva ← resolve s q (pm p 0) (4 * ns * l) false
  let tva ← resolve s q (pm p 16) (4 * ns * tw) false
  let pva ← if mode = 0 then .ok 0 else resolve s q dp (4 * ns * l) false
  let ova ← resolve s q (pm p 48) (8 * ns) true
  let ds ← rd s q dva (4 * ns * l) m
  let ts ← rd s q tva (4 * ns * tw) m
  let ps ← if mode = 0 then .ok [] else rd s q pva (4 * ns * l) m
  let wordOf (bs : List Byte) (i : Nat) : Nat := leNat (cut bs (4 * i) 4)
  let accepted (x : Nat) : Nat := leading ((List.range l).map (fun i =>
    if mode = 0 then wordOf ds (x * l + i) == wordOf ts (x * tw + i)
    else specPass (BitVec.ofNat 64 (pf p 72 8)) (s.queue q).owner (x * l + i) (val32 (wordOf ts (x * l + i)))
           (val32 (wordOf ps (x * l + i)))))
  let as := (List.range ns).map accepted
  let outs := as.zipIdx.map (fun e => e.1 + (if mode = 0 then wordOf ts (e.2 * tw + e.1) else 0xFFFFFFFF) * 2 ^ 32)
  let t ← wr s q ova (outs.flatMap (leBytes 8))
  .ok ⟨t, BitVec.ofNat 64 (as.foldl min l + as.foldl max 0 * 2 ^ 16 + (as.filter (· == l)).length * 2 ^ 32), ST_OK, none⟩

/-! ## Memory, hashing, dumps (R252, R253) -/

/-- COPY_SMALL. -/
def copySmall (s : State) (q : Nat) (m : MemView) (p : List Byte) : Except Status Done := do
  let n := pf p 32 4
  need (reserved0 p [(36, 4)] && within n 1 65536)
  present (pm p 0)
  present (pm p 16)
  let sva ← resolve s q (pm p 0) n false
  let dva ← resolve s q (pm p 16) n true
  let bs ← rd s q sva n m
  let t ← wr s q dva bs
  .ok ⟨t, 0, ST_OK, none⟩

/-- HASH_MEASURE; with RECORD in a sealed partition the digest enters the log, before it is written (R302). -/
def hashMeasure (s : State) (q : Nat) (m : MemView) (p : List Byte) : Except Status Done := do
  let n := pf p 32 8
  let record := pf p 40 1
  need (reserved0 p [(41, 7)] && within n 1 (2 ^ 36) && decide (record ≤ 1))
  present (pm p 0)
  present (pm p 16)
  let sva ← resolve s q (pm p 0) n false
  let dva ← resolve s q (pm p 16) 48 true
  let bs ← rd s q sva n m
  let d := sha384 bs
  let c := (s.queue q).owner
  let logs := record == 1 && isSealed s (partQ s q)
  if logs && !(logRoom s (partQ s q) 1) then .error ST_MEASURE_FULL
  else
    let s1 := if logs then appendLog s (partQ s q) 4 c 0 0 0 n d else s
    let r := putOutputs s1 q [(dva, d)]
    .ok ⟨r.1, 0, ST_OK, r.2⟩

/-- A routine's dump and the bytes dumped; one whose write fails is dropped and recorded (R341, log 36). -/
def dumpOrDrop (s : State) (q : Nat) (j : Job) (tensor dump : Word × Word) (n : Nat) (m : MemView) :
    Except Status (State × Nat) :=
  match dumpTensor s q j tensor dump n 0 m with
  | .ok t => .ok (t, n)
  | .error e => if e = ST_MEMORY_ERROR then .ok (setErr s pgLOE 29 (dumpFails s q dump n), 0) else .error e

/-- WATCH_DUMP: a dump at once. Its header carries STEP 0, as R359 says against the STEP that Table 9.5 lists (log 49). A
memory error of TENSOR's read is one of a routine's operand and loses the context (Table 13.4). -/
def watchDump (s : State) (q : Nat) (m : MemView) (p : List Byte) : Except Status Done := do
  let n := pf p 32 4
  need (reserved0 p [(40, 8)])
  present (pm p 0)
  present (pm p 16)
  let tva ← resolve s q (pm p 0) n false
  let _ ← resolve s q (pm p 16) (64 + n) true
  let _ ← rd s q tva n m
  match s.job q with
  | none => .error ST_ROUTINE_PARAM
  | some j =>
    let r ← dumpOrDrop s q j (pm p 0) (pm p 16) n m
    .ok ⟨r.1, BitVec.ofNat 64 r.2, ST_OK, none⟩

/-! ## The rows -/

/-- SCALE_UPDATE. -/
def execScaleUpdate (q : BitVec 18) (m : MemView) (s : State) : Result := routineRow s q.toNat 1 (scaleUpdate s q.toNat m)

/-- AMAX_REDUCE. -/
def execAmaxReduce (q : BitVec 18) (m : MemView) (s : State) : Result := routineRow s q.toNat 2 (amaxReduce s q.toNat m)

/-- TOPK_ROUTE. -/
def execTopkRoute (q : BitVec 18) (m : MemView) (s : State) : Result := routineRow s q.toNat 3 (topkRoute s q.toNat m)

/-- PREFIX_SUM. -/
def execPrefixSum (q : BitVec 18) (m : MemView) (s : State) : Result := routineRow s q.toNat 4 (prefixSum s q.toNat m)

/-- HISTOGRAM. -/
def execHistogram (q : BitVec 18) (m : MemView) (s : State) : Result := routineRow s q.toNat 5 (histogramR s q.toNat m)

/-- SORT_SMALL. -/
def execSortSmall (q : BitVec 18) (m : MemView) (s : State) : Result := routineRow s q.toNat 6 (sortSmall s q.toNat m)

/-- SHAPE_EVAL. -/
def execShapeEval (q : BitVec 18) (m : MemView) (s : State) : Result := routineRow s q.toNat 7 (shapeEval s q.toNat m)

/-- LOSS_SCALE_CHECK. -/
def execLossScaleCheck (q : BitVec 18) (m : MemView) (s : State) : Result := routineRow s q.toNat 8 (lossScaleCheck s q.toNat m)

/-- SPEC_ACCEPT. -/
def execSpecAccept (q : BitVec 18) (m : MemView) (s : State) : Result := routineRow s q.toNat 9 (specAccept s q.toNat m)

/-- COPY_SMALL. -/
def execCopySmall (q : BitVec 18) (m : MemView) (s : State) : Result := routineRow s q.toNat 12 (copySmall s q.toNat m)

/-- HASH_MEASURE. -/
def execHashMeasure (q : BitVec 18) (m : MemView) (s : State) : Result := routineRow s q.toNat 13 (hashMeasure s q.toNat m)

/-- WATCH_DUMP. -/
def execWatchDump (q : BitVec 18) (m : MemView) (s : State) : Result := routineRow s q.toNat 14 (watchDump s q.toNat m)

/-- The parameter block of the routine a job runs. -/
def runsRoutine (s : State) (q id : Nat) : Option (List Byte) :=
  match s.job q with
  | some j => match j.phase with
    | .routine i p => if i = id && !s.halted && sliceUp s (s.queue q).home then some p else none
    | _ => none
  | none => none

/-- The result block of an ALLOC routine is written, its status goes to D15 and D[RDST], and the job goes on (R81, R82). -/
def endAlloc (s : State) (q : Nat) (p : List Byte) (h : Nat) (st : Status) (va : Nat) : State :=
  match writeOp s q (pm p 32).1 (pm p 32).2 (resultBlock h st va) with
  | .error e => failRoutine s q e
  | .ok t => endRoutine t q (BitVec.ofNat 64 st.toNat) st

/-- ROUTINE_ALLOC: the ALLOC routine (R252); while zeroing can still supply the granules it waits. -/
def execRoutineAlloc (qb : BitVec 18) (s : State) : Result :=
  let q := qb.toNat
  match runsRoutine s q 10 with
  | none => .next s
  | some p =>
    if !(reserved0 p [(17, 15)]) || absent (pm p 32) || !(mrefFixed (pm p 32)) || decide (8 ≤ pf p 16 1) then .next (failRoutine s q ST_ROUTINE_PARAM)
    else match resolve s q (pm p 32) 16 true with
      | .error e => .next (failRoutine s q e)
      | .ok _ =>
        match allocObject s (s.queue q).owner (pf p 0 8) (pf p 8 8) (pf p 16 1) with
        | .fail st => .next (endAlloc (count s pgOBJ 1) q p 0 st 0)
        | .wait => .next s
        | .done t h va => .next (endAlloc t q p h ST_OK va)

/-- ROUTINE_FREE: the FREE routine; in abort mode CALL_ROUTINE retires once every holder has aborted (R83). -/
def execRoutineFree (qb : BitVec 18) (s : State) : Result :=
  let q := qb.toNat
  match runsRoutine s q 11 with
  | none => .next s
  | some p =>
    if !(reserved0 p [(4, 12)]) then .next (failRoutine s q ST_ROUTINE_PARAM)
    else
      let c := (s.queue q).owner
      match freeObject s c (pf p 0 4) with
      | .error e => .next (failRoutine s q e)
      | .ok (t, i) =>
        if (t.ctx c).abortMode && (handleAt (t.ctx c) i).releasing then
          let t1 := modJob (count (freeProc t q) (pgDSP (t.queue q).home) 1) q (fun j => setRdst { j with d15 := 0 } 0)
          .next (resumeFrees (modJob t1 q (fun j => if streamOpen j.phase then { j with phase := .freeWait c i } else j)))
        else .next (resumeFrees (endRoutine (count t pgOBJ 2) q 0 ST_OK))

end Sys2Proof.Machine
end

