-- ==== Sys2Proof/Machine/Registers.lean ====
section
/-! DEFINITION. The register window as each view reads it: the pages (R397), the common layout (R401, Table 16.2), the
views and their copies of the selectors (R407 to R410), and the value of every register of Table 16.12. -/

namespace Sys2Proof.Machine

/-! ## Views (R407, R410) -/

/-- The tenant view. -/
def isTenant (v : View) : Bool := match v with | .tenant _ => true | _ => false

/-- The context a view acts for (Table 16.4). -/
def viewCtx (v : View) : Nat := match v with | .tenant c => c | _ => 0

/-- The operator view, and the security view, which reaches what the operator's does (R413, log 31). -/
def opView (v : View) : Bool := v == .operator || v == .security

/-- The operator, security and debug views: the writers of a field "writable in the operator and debug views only". -/
def opDbg (v : View) : Bool := opView v || v == .debug

/-- A view's copy of a selector. -/
def selOf (s : State) (v : View) (p off : Nat) : Nat := (tget 0 s.sel (selKey v p off)).toNat

/-- A selector that the tenant view fixes to the requesting context, or to its partition (R410). -/
def selCtx (s : State) (v : View) (p off : Nat) : Nat := match v with | .tenant c => c | _ => selOf s v p off
def selPart (s : State) (v : View) (p off : Nat) : Nat := match v with | .tenant c => (s.ctx c).part | _ => selOf s v p off

/-- A partition's data is shown: to every view but another partition's tenants. -/
def seesPart (s : State) (v : View) (p : Nat) : Bool := match v with | .tenant c => (s.ctx c).part == p | _ => true

/-- A context's data is shown to its own tenants and to every other view. -/
def seesCtx (v : View) (c : Nat) : Bool := match v with | .tenant d => c == d | _ => true

/-- A value that a view may see; 0 where it is masked. -/
def shown (b : Bool) (v : Nat) : Nat := if b then v else 0

/-! ## The page map (R397, Table 16.1) -/

/-- The prefix of a mapped page. -/
def pagePrefix (p : Nat) : Option String :=
  if p = pgID then some "ID" else if p = pgHFE then some "HFE" else if p = pgSTP then some "STP"
  else if p = pgDBL then some "DBL" else if p = pgFET then some "FET"
  else if 0x08 ≤ p ∧ p ≤ 0x0F then some "PKD" else if 0x10 ≤ p ∧ p ≤ 0x17 then some "DSP"
  else if p = pgWSH then some "WSH" else if p = pgSAD then some "SAD" else if p = pgLCH then some "LCH"
  else if p = pgECP then some "ECP" else if p = pgFAN then some "FAN" else if p = pgIMX then some "IMX"
  else if p = pgXLT then some "XLT" else if p = pgOBJ then some "OBJ" else if p = pgSCH then some "SCH"
  else if p = pgBWR then some "BWR" else if p = pgNTC then some "NTC" else if p = pgVLD then some "VLD"
  else if p = pgLOE then some "LOE" else if p = pgSWB then some "SWB" else if p = pgBSN then some "BSN"
  else if p = pgPER then some "PER" else if p = pgMGT then some "MGT" else if p = pgDBG then some "DBG"
  else none

/-- A page index that Table 16.1 lists. -/
def mapped (p : Nat) : Bool := (pagePrefix p).isSome

/-- The pages of the always-on domain. -/
def alwaysOn (p : Nat) : Bool := p == pgID || p == pgHFE || p == pgDBL || p == pgSWB || p == pgBSN || p == pgMGT || p == pgDBG

/-- The slice whose domain holds a page; none for the spine and the always-on domain. -/
def pageSlice (p : Nat) : Option Nat := if 0x08 ≤ p ∧ p ≤ 0x17 then some (p % 8) else none

/-- A page's domain is clocked. -/
def pageAwake (s : State) (p : Nat) : Bool :=
  alwaysOn p || (match pageSlice p with | some k => sliceUp s k | none => s.bsn.spineAwake)

/-- PAGE_CAPS.ERR_BITS: the unit-specific ERR_STATUS bits the owning chapter uses. -/
def errBits (p : Nat) : Nat :=
  if p = pgWSH then 4 else if p = pgECP then 5 else if p = pgOBJ then 1 else if p = pgSCH then 1 else if p = pgNTC then 4 else if p = pgVLD then 3
  else if p = pgLOE then 3 else if p = pgSWB then 3 else if p = pgPER then 4 else 0

/-- PAGE_CAPS.ARRAYS (Table 16.13). -/
def arrayNo (p : Nat) : Nat :=
  if p = pgHFE then 2 else if p = pgSTP then 1 else if p = pgDBL then 2 else if 0x10 ≤ p ∧ p ≤ 0x17 then 1
  else if p = pgWSH then 5 else if p = pgLCH then 1 else if p = pgECP then 1 else if p = pgFAN then 1
  else if p = pgXLT then 1 else if p = pgOBJ then 3 else if p = pgSCH then 2 else if p = pgNTC then 1
  else if p = pgVLD then 1 else if p = pgLOE then 3 else if p = pgSWB then 3 else if p = pgPER then 1 else 0

/-- A 64-bit register begins at an offset (Tables 16.2 and 16.12); every other register is 32 bits wide. -/
def is64 (p off : Nat) : Bool :=
  off == 0x020 || (decide (0x040 ≤ off) && decide (off < 0x080) && off % 8 == 0) ||
  (if p = pgID then [0x108, 0x118, 0x120, 0x130, 0x140].contains off
   else if p = pgHFE then off == 0x108
   else if p = pgDBL then off == 0x100
   else if p = pgWSH then [0x108, 0x120, 0x128, 0x130, 0x140].contains off
   else if p = pgSAD then off == 0x110
   else if p = pgLCH then off == 0x108
   else if p = pgECP then off == 0x100
   else if p = pgFAN then off == 0x110
   else if p = pgOBJ then [0x108, 0x120, 0x148, 0x150].contains off
   else if p = pgSCH then
     [0x108, 0x120, 0x128, 0x148, 0x150, 0x180, 0x188, 0x190, 0x198, 0x1A0, 0x1A8, 0x208, 0x210, 0x218, 0x228, 0x230,
      0x238].contains off
   else if p = pgVLD then [0x118, 0x140, 0x148, 0x150, 0x158, 0x160, 0x180, 0x188, 0x190].contains off
   else if p = pgLOE then
     [0x108, 0x110, 0x118, 0x120, 0x128, 0x138, 0x148, 0x158, 0x160, 0x188, 0x198, 0x1A0, 0x1C8, 0x1D0, 0x1D8, 0x1E0].contains off
   else if p = pgSWB then off == 0x128 || off == 0x148
   else if p = pgBSN then off == 0x108
   else false)

/-! ## The common registers (Table 16.2) -/

/-- A standard counter that counts what only time or another party knows, and so reads as a free value (log 31). -/
def freeCounter (p n : Nat) : Bool :=
  (p == pgXLT && decide (n ≤ 2)) || (decide (0x10 ≤ p ∧ p ≤ 0x17) && n == 3) || (p == pgFAN && n == 4) ||
  (p == pgSAD && n == 7) || (p == pgNTC && n == 3)

/-- A common register's value; `f` supplies the free counters. -/
def readCommon (s : State) (v : View) (p off f : Nat) : Nat :=
  let pg := s.page p
  let all := !(isTenant v) && (v != .management || p == pgMGT)
  if off = 0x000 then leNat (ascii ((pagePrefix p).getD "")) + p * 2 ^ 24
  else if off = 0x004 then 2 ^ 24 + (match pageSlice p with | some k => k | none => 0) * 2 ^ 16 + errBits p * 2 ^ 8 + arrayNo p * 2 ^ 4
  else if off = 0x00C then b2n pg.inject.isSome * 4 + b2n pg.lock * 2 + b2n (pageAwake s p)
  else if !all then 0
  else if off = 0x010 then pg.irqStatus.toNat
  else if off = 0x014 then pg.irqEnable.toNat
  else if off = 0x01C then pg.errStatus.toNat
  else if off = 0x020 then pg.errAddr.toNat
  else if off = 0x030 then b2n pg.lock
  else if 0x040 ≤ off ∧ off < 0x080 ∧ off % 8 = 0 then
    let n := (off - 0x040) / 8
    if freeCounter p n then (Config.freeWord f).toNat else (pg.cnt.getD n 0).toNat
  else 0

/-! ## The pages -/

/-- ID_IRQ_TARGET and ID_CAPTBL are masked for tenants and the management port (R411, R416). -/
def readID (s : State) (v : View) (off : Nat) : Nat :=
  let hid := isTenant v || v == .management
  if off = 0x100 then idVersion.toNat
  else if off = 0x104 then 0x04
  else if off = 0x108 then 0x003134472D524542
  else if off = 0x110 then 0x0001F4B3
  else if off = 0x118 then leNat (fuseBytes s 0 2)
  else if off = 0x120 then leNat (fuseBytes s 2 4)
  else if off = 0x130 then 0x000003FFFFFFFF1F
  else if off = 0x138 then shown (!hid) s.idIrqTarget.toNat
  else if off = 0x140 then shown (!hid) s.captbl.toNat
  else 0

def readHFE (s : State) (v : View) (off : Nat) : Nat :=
  if isTenant v then 0
  else if off = 0x100 then selOf s v pgHFE 0x100
  else if off = 0x108 then (ntfAddr s (selOf s v pgHFE 0x100)).toNat
  else 0

/-- The state number of Table 4.12. -/
def qStateNo : QState → Nat
  | .free => 0
  | .disabled => 1
  | .enabled => 2
  | .disabling => 3

/-- A queue is reached through a view's STP_Q_SEL (R122). -/
def seesQueue (s : State) (v : View) (q : Nat) : Bool :=
  match v with
  | .tenant c => (s.queue q).st != .free && (s.queue q).owner == c
  | .operator => q != secQ
  | .management => false
  | .security => true
  | .debug => true

def readSTP (s : State) (v : View) (off : Nat) : Nat :=
  let q := selOf s v pgSTP 0x100
  let r := s.queue q
  if off = 0x100 then q
  else if !(seesQueue s v q) then 0
  else if off = 0x104 then b2n r.warm * 4 + b2n r.hold * 2 + b2n (r.st == .enabled)
  else if off = 0x108 then
    r.home * 2 ^ 24 + r.poll * 2 ^ 19 + b2n r.warm * 2 ^ 18 + b2n r.crc * 2 ^ 17 + b2n r.ntfEn * 2 ^ 16 +
    b2n (r.st != .free && !r.fetched) * 2 ^ 7 + b2n r.pend * 2 ^ 6 + b2n r.wait * 2 ^ 5 + b2n r.fetched * 2 ^ 4 + r.cls * 4 + qStateNo r.st
  else if off = 0x10C then r.ci.toNat
  else if off = 0x110 then r.completed.toNat
  else 0

def readDBL (s : State) (v : View) (off : Nat) : Nat :=
  if off = 0x100 ∧ !(isTenant v) then
    (s.queues.filter (fun e => e.2.st != .free && e.2.poll != 0)).length * 2 ^ 36 + pollLoad s
  else 0

/-- Processors of a slice that run a routine; the tenant view sees its own context's (R254). -/
def routineMask (s : State) (v : View) (k : Nat) : Nat :=
  maskOf (((s.slice k).procs.zipIdx.filter (fun e => match e.1 with
    | some (q, _) => seesCtx v (s.queue q).owner
    | none => false)).map (·.2))

/-- Processors of a slice that run a routine or a graph; a packet's own semantics begin and end within one command (R254). -/
def busyMask (s : State) (k : Nat) : Nat :=
  maskOf ((List.range 8).filter (fun p => ((s.slice k).procs.getD p none).isSome || (graphProcs s k (2 ^ 18)).contains p))

def readDSP (s : State) (v : View) (k off : Nat) : Nat :=
  if off = 0x100 then routineMask s v k * 2 ^ 8 + busyMask s k
  else if off = 0x104 then leNat ((s.slice k).libDigest.take 4)
  else if off = 0x108 then (s.slice k).routineWait.length % 2 ^ 16
  else 0

/-- A view's probe result (R171, R410). -/
def probeOf (s : State) (v : View) : Probe := tget Probe.reset s.wsh.probes (viewCopy v)

/-- The one WSH_PROBE_CTX, which the tenant view ignores (R172). -/
def probeCtx (s : State) : Nat := selOf s .operator pgWSH 0x118

def readWSH (s : State) (v : View) (off : Nat) : Nat :=
  let t := isTenant v
  if off = 0x108 then shown (!t) s.wsh.wfgBase.toNat
  else if off = 0x110 then shown (!t) s.wsh.wfgSize.toNat
  else if off = 0x114 then shown (!t) (b2n s.wsh.wfgDone * 2)
  else if off = 0x118 then shown (!t) (probeCtx s)
  else if off = 0x120 then (probeOf s v).sel.toNat
  else if off = 0x128 then (probeOf s v).value.toNat
  else if off = 0x130 then (probeOf s v).info.toNat
  else if off = 0x140 then
    shown (!t) ((unlinked s).length * 2 ^ 32 + (s.wsh.lines.filter (fun l => l.2.used && !l.2.waiters.isEmpty)).length)
  else if off = 0x148 then shown (!t) s.wsh.watches.length
  else 0

/-- The synchronised sad_all and sad_any. The integrator's trees move them with every core that arrives or leaves, of which
the block is told only the moments of R52 steps 2 and 4; between those, with cores armed, they are open (log 31). -/
def chanAll (x : Chan) (f : Nat) : Bool := if x.armed.isEmpty then x.all else x.release && (Config.freeWord f).getLsbD 0
def chanAny (x : Chan) (f : Nat) : Bool := if x.armed.isEmpty then x.any else x.release || (Config.freeWord f).getLsbD 1

def readSAD (s : State) (v : View) (off f : Nat) : Nat :=
  let c := selOf s v pgSAD 0x100
  let x := s.barrier c
  let ok := !(isTenant v) || (x.valid && seesPart s v x.part)
  if off = 0x100 then c
  else if !ok then 0
  else if off = 0x104 then b2n x.valid * 2 ^ 8 + x.part
  else if off = 0x108 then
    b2n x.release * 2 ^ 31 + b2n (chanAll x f) * 2 ^ 30 + b2n (chanAny x f) * 2 ^ 29 + b2n x.changing.isSome * 2 ^ 28 + x.armed.length
  else if off = 0x110 then x.episodes.toNat
  else 0

def readLCH (s : State) (v : View) (off : Nat) : Nat :=
  let k := selOf s v pgLCH 0x100
  let x := s.lane k
  if off = 0x100 then k
  else if off = 0x108 then shown (seesCtx v (fld x.skipLast 47 34)) x.skipLast.toNat
  else if off = 0x110 then
    shown (!(isTenant v)) (b2n (!x.recWait.isEmpty || s.slotWait.any (fun q => (s.queue q).home == k)) * 2 ^ 31 + x.recs.length)
  else 0

def readECP (s : State) (v : View) (off : Nat) : Nat :=
  let e := selOf s v pgECP 0x108
  let x := s.ep e
  if off = 0x100 then (s.ctx (viewCtx v)).pace.toNat
  else if off = 0x108 then shown (!(isTenant v)) e
  else if off = 0x10C then
    shown (!(isTenant v)) (b2n x.exist * 2 ^ 31 + (epCtx s e).getD 0 * 2 ^ 16 + x.depSent.toNat * 2 ^ 8 + b2n x.held * 2 ^ 7 +
      (64 - x.cmds.length))
  else 0

/-- FAN_STATUS shows the head stream emitting once its beats have begun, and waiting for fann_ready until then. -/
def readFAN (s : State) (v : View) (off : Nat) : Nat :=
  let n := selOf s v pgFAN 0x100
  let x := s.fan n
  let head := x.streams.head?.map (·.emitted)
  if isTenant v then 0
  else if off = 0x100 then n
  else if off = 0x104 then b2n x.valid * 2 ^ 8 + x.part
  else if off = 0x108 then
    b2n (head == some true) * 2 ^ 31 + b2n x.changing.isSome * 2 ^ 30 + b2n (head == some false) * 2 ^ 29 +
    x.streams.length
  else if off = 0x110 then x.bytes.toNat
  else 0

def readIMX (s : State) (v : View) (off : Nat) : Nat :=
  if off = 0x100 ∧ !(isTenant v) then
    b2n (loadWaits s s.loads []) * 2 ^ 25 + b2n (readyLoad s s.loads []).isSome * 2 ^ 24 + (match s.loads with | l :: _ => l.q | [] => 0)
  else 0

/-- The number of a context's state (Table 3.2). -/
def ctxStNo : CtxState → Nat
  | .free => 0
  | .active => 1
  | .lost => 2
  | .teardown => 3
  | .removing => 4

/-- The stored graph whose handle OBJ_GRAPH_SEL holds (R224). -/
def selGraph (s : State) (v : View) : Option Graph :=
  let c := selCtx s v pgOBJ 0x100
  match resolveHandle (s.ctx c) (selOf s v pgOBJ 0x140) with
  | .ok i => s.graph (graphKey c i)
  | .error _ => none

/-- The number of a version slot's state (Table 8.9). -/
def slotStNo : GState → Nat
  | .free => 0
  | .storing => 1
  | .newest => 2
  | .superseded => 3

/-- One 16-bit field for each version slot. -/
def slotFields (g : Graph) (f : GSlot → Nat) : Nat := (g.slots.zipIdx.map (fun e => f e.1 * 2 ^ (16 * e.2))).sum

def readOBJ (s : State) (v : View) (off : Nat) : Nat :=
  let c := selCtx s v pgOBJ 0x100
  let x := s.ctx c
  if off = 0x100 then c
  else if off = 0x104 then
    x.lastStatus.toNat * 2 ^ 16 + x.part * 2 ^ 8 + b2n x.forced * 2 ^ 4 + b2n x.abortMode * 2 ^ 3 + ctxStNo x.st
  else if off = 0x108 then inflightOf s c * 2 ^ 32 + x.used
  else if off = 0x120 then shown (!(isTenant v)) s.captbl.toNat
  else if off = 0x140 then selOf s v pgOBJ 0x140
  else if off = 0x144 then
    match selGraph s v with
    | none => 0
    | some g => 2 ^ 31 + b2n g.patching.isSome * 2 ^ 30 + (g.slots.filter (fun y => y.st != .free)).length * 2 ^ 8 +
        (match newestSlot g with | some i => (g.slots.getD i GSlot.reset).version | none => 0)
  else if off = 0x148 then
    match selGraph s v with
    | none => 0
    | some g => slotFields g (fun y => y.version * 2 ^ 8 + slotStNo y.st * 2 ^ 6)
  else if off = 0x150 then
    match selGraph s v with
    | none => 0
    | some g => slotFields g (fun y => min 0xFFFF y.pins)
  else if off = 0x158 then shown (!(isTenant v)) s.graphs.length
  else 0

/-- Jobs of a partition held for a pending swap (R264). -/
def heldJobs (s : State) (p : Nat) : Nat := ((partJobs s p).filter (fun e => heldBySwap s p e.2)).length

def readSCH (s : State) (v : View) (off : Nat) : Nat :=
  let p := selPart s v pgSCH 0x100
  let x := s.part p
  let c := selCtx s v pgSCH 0x140
  let y := s.ctx c
  let d := s.dl
  let t := isTenant v
  let mine := !t || fld d.last 13 0 == viewCtx v
  if off = 0x100 then p
  else if off = 0x104 then x.ctrl.toNat
  else if off = 0x108 then (match x.staged with | some g => g.2.toNat | none => 0) * 2 ^ 32 + x.activeGen.toNat
  else if off = 0x110 then
    b2n x.swap.isSome * 2 ^ 31 + b2n x.staged.isSome * 2 ^ 30 + b2n x.migrating.isSome * 2 ^ 29 +
    b2n (!x.unacked.isEmpty || x.stageDue) * 2 ^ 28 + heldJobs s p
  else if off = 0x118 then gridH x.active * 2 ^ 16 + gridW x.active
  else if off = 0x120 then
    x.active.chans.length * 2 ^ 40 + x.active.links.length * 2 ^ 32 + x.active.copies.length * 2 ^ 16 + x.active.cores.length
  else if off = 0x128 then x.deferrals.toNat
  else if off = 0x140 then c
  else if off = 0x144 then y.weight * 2 ^ 16 + y.slice
  else if off = 0x148 then y.spadSize * 2 ^ 32 + y.spadBase
  else if off = 0x150 then unsignedN 64 y.deficit
  else if off = 0x180 then roundHalfUp y.acctEngine.1 y.acctEngine.2
  else if off = 0x188 then y.acctWait.toNat
  else if off = 0x190 then y.acctHold.toNat
  else if off = 0x198 then y.acctResource.toNat
  else if off = 0x1A0 then y.acctPreempt.toNat
  else if off = 0x1A8 then y.acctEnergy / 1000000
  else if off = 0x200 then shown (!t) d.ctrl.toNat
  else if off = 0x208 then shown mine d.last.toNat
  else if off = 0x210 then shown mine d.predicted.toNat
  else if off = 0x218 then shown mine d.deadline.toNat
  else if off = 0x220 then shown mine d.outcome
  else if off = 0x228 then shown (!t) d.checks.toNat
  else if off = 0x230 then shown (!t) d.switches.toNat
  else if off = 0x238 then shown (!t) d.misses.toNat
  else 0

/-- CLASS and PARTITION of a master (Table 10.6). -/
def masterFields (s : State) (m : Nat) : Nat × Nat :=
  match classOfMaster s m with
  | .part p => (0, p)
  | .shared => (1, 0xFF)
  | .block => (2, 0xFF)
  | .idle => (3, 0xFF)

/-- A hub belongs to a context's partition where an endpoint of it does; a memory port belongs to none. -/
def masterOf (s : State) (v : View) (m : Nat) : Bool :=
  !(isTenant v) || (decide (m < 512) && (hubEps s m).any (fun e => seesPart s v (s.ep e).part))

def readBWR (s : State) (v : View) (off : Nat) : Nat :=
  let m := selOf s v pgBWR 0x100
  let x := s.chan m
  let n := selOf s v pgBWR 0x110
  let ok := seesPart s v x.part
  if off = 0x100 then m
  else if off = 0x104 then
    shown ok (max x.occRd x.occWr * 2 ^ 20 + x.f * 2 ^ 15 + x.state * 2 ^ 13 + b2n x.stale * 2 ^ 12 + x.part)
  else if off = 0x108 then shown ok (tget 0 (s.part x.part).minGbps m)
  else if off = 0x10C then shown (!(isTenant v)) s.bwrCtrl.toNat
  else if off = 0x110 then n
  else if off = 0x114 then
    shown (masterOf s v n) ((masterFields s n).2 * 2 ^ 16 + (masterFields s n).1 * 2 ^ 10 + tget 16 s.limits n)
  else 0

/-- Four bytes of a byte string. -/
def wordFrom (bs : List Byte) (off : Nat) : Nat := leNat (cut bs off 4)

/-- The number of a slot's state (Table 11.17). -/
def slotState (x : KeySlot) : Nat := keyStateNo x.st

def readNTC (s : State) (v : View) (off : Nat) : Nat :=
  let k := selOf s v pgNTC 0x100
  let x := s.slot k
  let p := selOf s v pgNTC 0x110
  let y := s.part p
  let slotOk := seesCtx v x.ctx
  let partOk := seesPart s v p
  if off = 0x100 then k
  else if off = 0x104 then
    shown slotOk (x.ctx * 2 ^ 18 + x.part * 2 ^ 10 + b2n (!x.dieWait.isEmpty) * 8 + b2n x.weight * 4 + slotState x)
  else if off = 0x108 then shown slotOk x.channels.toNat
  else if off = 0x10C then shown slotOk ((x.dieWait.map (·.1)).eraseDups.length * 2 ^ 16 + x.destWait.length)
  else if off = 0x110 then p
  else if off = 0x114 then
    shown partOk (b2n y.sealed.isSome * 2 ^ 31 +
      b2n (y.sealed.isSome && decide (s.ntc.logCapacity ≤ y.log.length)) * 2 ^ 30 + y.log.length)
  else if 0x118 ≤ off ∧ off < 0x148 then shown partOk (wordFrom (padBytes 48 (y.sealed.getD [])) (off - 0x118))
  else if 0x148 ≤ off ∧ off < 0x178 then shown partOk (wordFrom (padBytes 48 y.chain) (off - 0x148))
  else if off = 0x180 then
    s.ntc.sessions.length * 2 ^ 8 + b2n s.ntc.attestReady * 2 + b2n s.ntc.debugOpened
  else if off = 0x184 then s.ntc.logCapacity
  else 0

/-- The VLD registers: a written field reads as it was written, what the Veld reports is of the values in use. -/
def readVLD (s : State) (v : View) (off : Nat) : Nat :=
  let p := selPart s v pgVLD 0x130
  let x := s.part p
  let w := s.vld
  let u := applyWrites s
  let t := isTenant v
  if off = 0x130 then p
  else if off = 0x13C then topMhz s p * 2 ^ 16 + b2n x.changing.isSome * 2 ^ 15 + x.mhz
  else if off = 0x148 then x.jobsFj / 1000000
  else if t then 0
  else if off = 0x100 then u.vld.capW
  else if off = 0x104 then u.vld.rackW
  else if off = 0x108 then u.vld.fallbackW
  else if off = 0x10C then u.vld.ctrl.toNat
  else if off = 0x110 then
    effCap w * 2 ^ 16 + b2n w.capUnreachable * 2 ^ 4 + b2n w.measCapping * 2 ^ 3 + b2n w.rackStale * 2 ^ 2 +
    b2n (w.alert || w.releasing) * 2 + b2n s.pins.pwrFloor
  else if off = 0x118 then w.measLast.toNat * 2 ^ 32 + w.est.toNat
  else if off = 0x120 then u.vld.gain.toNat
  else if off = 0x124 then u.vld.fstep * 2 ^ 24 + u.vld.auxMhz * 2 ^ 11 + u.vld.floorMhz
  else if off = 0x128 then w.vsettle * 2 ^ 24 + w.vnom * 2 ^ 12 + u.vld.vmargin
  else if off = 0x12C then u.vld.uncore.toNat
  else if off = 0x134 then (u.part p).bounds.toNat
  else if off = 0x138 then (u.part p).power.toNat
  else if off = 0x140 then (u.part p).domain.toNat
  else if off = 0x150 then x.idleFj / 1000000
  else if off = 0x158 then w.energyDie / 1000000
  else if off = 0x160 then w.conflict.toNat
  else if off = 0x180 then (wordAt u.vld.model 0).toNat
  else if off = 0x188 then (wordAt u.vld.model 1).toNat
  else if off = 0x190 then (wordAt u.vld.model 2).toNat
  else if off = 0x1A0 then selOf s v pgVLD 0x1A0
  else if off = 0x1A4 then (u.vld.vf.getD (selOf s v pgVLD 0x1A0) 0).toNat
  else 0

/-- The event ring entry that LOE_EVT_SEL names, as a view sees it (R355). -/
def eventSeen (s : State) (v : View) : Nat :=
  let w := selOf s v pgLOE 0x150
  match (s.ep (bitsN w 13 0)).ring[bitsN w 19 16]? with
  | none => 0
  | some e =>
    let c := bitsN e.toNat 29 16
    match v with
    | .tenant d => shown (c == d) e.toNat
    | .debug => e.toNat
    | _ => leNat (eventBytes (fun _ => c != 0) e)

/-- The layer counter entry that LOE_LAYER_SEL names, if the view reads it (R353). -/
def layerSeen (s : State) (v : View) : Option LayerCtr :=
  match s.loe.layers[selOf s v pgLOE 0x1C0]? with
  | none => none
  | some x =>
    match v with
    | .tenant c => if x.ctx = c then some x else none
    | .debug => some x
    | _ => if x.ctx = 0 then some x else none

def readLOE (s : State) (v : View) (off : Nat) : Nat :=
  let c := selCtx s v pgLOE 0x100
  let x := s.ctx c
  let t := isTenant v
  let l := s.loe
  let r := l.trace
  let e := s.ep (bitsN (selOf s v pgLOE 0x150) 13 0)
  let layer (f : LayerCtr → Nat) : Nat := match layerSeen s v with | some y => f y | none => 0
  if off = 0x100 then c
  else if off = 0x104 then min 3600000 (max 1 x.wdogMs)
  else if off = 0x108 then x.packets.toNat
  else if off = 0x110 then x.launches.toNat
  else if off = 0x118 then x.progress.toNat
  else if off = 0x120 then x.lastAdv
  else if off = 0x128 then x.capture.toNat
  else if off = 0x130 then x.capSize
  else if off = 0x138 then shown (!t) l.capBase.toNat
  else if off = 0x140 then shown (!t) l.capSize
  else if off = 0x144 then shown (!t) (b2n l.haltHeld * 2 ^ 31 + b2n l.truncated * 2 ^ 30 + l.capCount.toNat)
  else if off = 0x148 then shown (!t) l.halt.toNat
  else if off = 0x150 then selOf s v pgLOE 0x150
  else if off = 0x154 then e.lost * 2 ^ 16 + e.ring.length
  else if off = 0x158 then bitsN (eventSeen s v) 63 0
  else if off = 0x160 then bitsN (eventSeen s v) 127 64
  else if off = 0x180 then r.ctrl.toNat
  else if off = 0x188 then r.base.toNat
  else if off = 0x190 then r.size
  else if off = 0x194 then
    b2n r.owner.isSome * 2 ^ 31 + r.lastOwner * 2 ^ 29 + b2n r.stoppedFull * 2 ^ 28 + r.lastCtx
  else if off = 0x198 then r.written.toNat
  else if off = 0x1A0 then r.dropped.toNat
  else if off = 0x1C0 then selOf s v pgLOE 0x1C0
  else if off = 0x1C4 then layer (fun y => 2 ^ 31 + y.ctx)
  else if off = 0x1C8 then layer (fun y => y.operator.toNat * 2 ^ 32 + y.layer.toNat)
  else if off = 0x1D0 then layer (fun y => y.launches.toNat)
  else if off = 0x1D8 then layer (fun y => roundHalfUp y.engine.1 y.engine.2)
  else if off = 0x1E0 then layer (fun y => y.energy / 1000000)
  else 0

/-- The current or failing stage. -/
def stageNo (s : State) : Nat :=
  match s.swb.boot with
  | .stage n => n
  | .ready => 7
  | .recovery => s.swb.failStage
  | .failed => s.swb.failStage
  | .halted => 7
  | .reset => 0

/-- The unit that SWB_UNIT_SEL names: links by their number (log 23). -/
def selUnit (s : State) (v : View) : UnitRec :=
  let w := selOf s v pgSWB 0x110
  let k := kindOfNo (bitsN w 15 14)
  unitOf s k (unitKey s k (bitsN w 13 0))

def readSWB (s : State) (v : View) (off : Nat) : Nat :=
  let w := s.swb
  let st := w.stages.getD (selOf s v pgSWB 0x108) StageRec.reset
  let u := selUnit s v
  if isTenant v then 0
  else if off = 0x100 then
    b2n (w.boot == .ready) * 2 ^ 31 + b2n (w.boot == .failed) * 2 ^ 30 + b2n (w.boot == .recovery) * 2 ^ 29 + b2n w.warm * 2 ^ 28 +
    w.result * 2 ^ 8 + stageNo s
  else if off = 0x104 then w.bootCount.toNat
  else if off = 0x108 then selOf s v pgSWB 0x108
  else if off = 0x10C then st.result * 2 ^ 24 + (st.tEnd - st.tStart) / 1000 % 2 ^ 24
  else if off = 0x110 then selOf s v pgSWB 0x110
  else if off = 0x114 then u.cause * 2 ^ 8 + b2n u.karPending * 4 + unitStateNo u.st
  else if off = 0x118 then w.defectSkipped * 2 ^ 16 + w.defects.length
  else if off = 0x120 then
    b2n w.fwActive.isSome * 2 ^ 31 + b2n (mixedFirmware s) * 2 ^ 30 + b2n (w.fwNew.contains 8) * 2 ^ 24 + (s.slice 0).svn * 2 ^ 8 +
    maskOf (w.fwNew.filter (· < 8))
  else if off = 0x128 then w.spiSrc.toNat
  else if off = 0x130 then w.spiDst.toNat
  else if off = 0x134 then w.spiLen.toNat
  else if off = 0x138 then b2n w.spiError * 8 + b2n w.spiDone * 4 + b2n w.spiBusy * 2
  else if off = 0x140 then b2n w.verifyFailed * 2 ^ 9 + b2n w.verified * 2 ^ 8
  else if off = 0x144 then w.rcvCount
  else if off = 0x150 then w.handback
  else 0

def readBSN (s : State) (v : View) (off : Nat) : Nat :=
  if isTenant v then 0
  else if off = 0x100 then shown (v != .management) s.bsn.ctrl.toNat
  else if off = 0x104 then b2n s.bsn.spineAwake * 2 ^ 16 + s.bsn.sliceWaking.toNat * 2 ^ 8 + s.bsn.sliceAwake.toNat
  else if off = 0x108 then s.timebase.toNat
  else 0

/-- The number of the twin's state (Table 14.13). -/
def twinNo : Twin → Nat
  | .absent => 0
  | .waiting => 1
  | .handing => 2
  | .paired => 3
  | .noTwin => 7

/-- The PEER record has been read: stage 1 has ended (log 25). -/
def peerKnown (s : State) : Bool := s.swb.boot != .reset && (s.swb.stages.getD 1 StageRec.reset).kept

def readPER (s : State) (v : View) (off : Nat) : Nat :=
  let d := selOf s v pgPER 0x108
  let w := s.swb.settings
  if isTenant v then 0
  else if off = 0x100 then shown (peerKnown s) (dieId s)
  else if off = 0x104 then shown (peerKnown s) (domLast s * 2 ^ 16 + domFirst s)
  else if off = 0x108 then d
  else if off = 0x10C then
    match w.routes.find? (fun r => r.1 == d) with
    | some r => 2 ^ 31 + r.2.1 * 2 ^ 4 + r.2.2
    | none => 0
  else if off = 0x110 then s.per.hold.length * 2 ^ 4 + b2n s.per.hbSeen * 2 ^ 3 + twinNo s.per.twin
  else if off = 0x118 then s.per.twinBoot.toNat
  else 0

/-- MGT_WIN_DATA is read through its own row; MGT_WIN_SEL is the management view's (R417). -/
def readMGT (s : State) (v : View) (off : Nat) : Nat :=
  if off = 0x100 then shown (v == .management) s.mgt.winSel.toNat
  else if off = 0x108 then b2n s.mgt.winRefused * 2 + b2n s.mgt.lastRefused
  else if off = 0x10C then s.mgt.scratch.toNat
  else 0

/-- The number of an authentication state (Table 16.8). -/
def authNo : AuthState → Nat
  | .idle => 0
  | .challenged => 1
  | .checking _ => 2
  | .open => 3
  | .lockedOut => 4
  | .disabled => 5

def readDBG (s : State) (off : Nat) : Nat :=
  let d := s.dbg
  if off = 0x104 then d.fails * 2 ^ 24 + d.reason * 2 ^ 8 + authNo d.st
  else if off = 0x108 then d.len
  else if 0x140 ≤ off ∧ off < 0x170 then wordFrom (padBytes 48 d.nonce) (off - 0x140)
  else if 0x400 ≤ off then leNat (Memory.readBytes d.data (off - 0x400) 4)
  else 0

/-! ## Any register -/

/-- The value of the register that begins at an offset, as a view reads it; 0 where there is none (R398) or the view
masks it (R408). -/
def readReg (s : State) (v : View) (p off f : Nat) : Nat :=
  if off < 0x100 then readCommon s v p off f
  else if p = pgID then readID s v off
  else if p = pgHFE then readHFE s v off
  else if p = pgSTP then readSTP s v off
  else if p = pgDBL then readDBL s v off
  else if 0x10 ≤ p ∧ p ≤ 0x17 then readDSP s v (p % 8) off
  else if p = pgWSH then readWSH s v off
  else if p = pgSAD then readSAD s v off f
  else if p = pgLCH then readLCH s v off
  else if p = pgECP then readECP s v off
  else if p = pgFAN then readFAN s v off
  else if p = pgIMX then readIMX s v off
  else if p = pgOBJ then readOBJ s v off
  else if p = pgSCH then readSCH s v off
  else if p = pgBWR then readBWR s v off
  else if p = pgNTC then readNTC s v off
  else if p = pgVLD then readVLD s v off
  else if p = pgLOE then readLOE s v off
  else if p = pgSWB then readSWB s v off
  else if p = pgBSN then readBSN s v off
  else if p = pgPER then readPER s v off
  else if p = pgMGT then readMGT s v off
  else if p = pgDBG then readDBG s off
  else 0

/-- The 64 bits at an 8-aligned offset of a page: one 64-bit register, or two 32-bit ones (R399). -/
def read64 (s : State) (v : View) (p off f : Nat) : Nat :=
  if is64 p off then readReg s v p off f % 2 ^ 64
  else readReg s v p off f % 2 ^ 32 + readReg s v p (off + 4) f % 2 ^ 32 * 2 ^ 32

/-- The 32-bit word at a 4-aligned offset of a page. -/
def read32 (s : State) (v : View) (p off f : Nat) : Nat :=
  if off % 8 = 0 then read64 s v p off f % 2 ^ 32 else read64 s v p (off - 4) f / 2 ^ 32

end Sys2Proof.Machine
end

