-- ==== Sys2Proof/Machine/Debug.lean ====
section
/-! DEFINITION. Debug authentication (R414, R415, Tables 16.7 and 16.8). -/

namespace Sys2Proof.Machine

/-- The debug view exists. -/
def debugOpen (s : State) : Bool := s.dbg.st == .open

/-- NEW: a fresh nonce; ignored in CHECKING, OPEN, LOCKED_OUT and DISABLED. -/
def authNew (s : State) : State :=
  let go : State :=
    let (f, s1) := s.takeFree
    { s1 with dbg := { s1.dbg with st := .challenged, nonce := freeBytes f 48 } }
  match s.dbg.st with
  | .idle => go
  | .challenged => go
  | _ => s

/-- CHECK: in DISABLED the only effect is REASON 1; it is ignored where no check can start (log 32). -/
def authCheck (s : State) : State :=
  match s.dbg.st with
  | .disabled => { s with dbg := { s.dbg with reason := 1 } }
  | .idle => { s with dbg := { s.dbg with st := .checking false } }
  | .challenged => { s with dbg := { s.dbg with st := .checking true } }
  | _ => s

/-- CLOSE, or jtag_trst_n: the debug view ends. -/
def authClose (s : State) : State := if debugOpen s then { s with dbg := { s.dbg with st := .idle } } else s

/-- The token (R415 step 2): LEN bytes of DBG_AUTH_DATA; LEN 0 is read as 1. -/
def tokenLen (s : State) : Nat := max 1 s.dbg.len

/-- The reason of the first check of Table 16.7 that fails; 0 where all pass. -/
def authReason (s : State) (challenged : Bool) : Nat :=
  let n := tokenLen s
  let chainBytes := leNat (Memory.readBytes s.dbg.data 0 2)
  let chain := Memory.readBytes s.dbg.data 4 chainBytes
  let sig := Memory.readBytes s.dbg.data (4 + chainBytes) 96
  if (tget 0 s.swb.fuses 16).getLsbD 0 then 1
  else if s.parts.any (fun p => p.2.sealed.isSome) then 2
  else if !challenged then 3
  else if n < 104 ∨ 3072 < n ∨ n ≠ 4 + chainBytes + 96 then 7
  else match Config.chainLeaf chain with
    | none => 4
    | some leaf =>
      if Config.debugExtension chain ≠ blockUid s then 5
      else if !(ecdsaVerify leaf (ascii "KGDA" ++ s.dbg.nonce ++ blockUid s) sig) then 6
      else 0

/-- AUTH_RESULT: the checks end; the nonce is cleared, eight failures in a row lock authentication out. -/
def execAuthResult (s : State) : Result :=
  match s.dbg.st with
  | .checking challenged =>
    let r := authReason s challenged
    if r = 0 then
      .next { s with dbg := { s.dbg with st := .open, fails := 0, reason := 0, nonce := [] },
                     ntc := { s.ntc with debugOpened := true } }
    else
      let n := s.dbg.fails + 1
      .next { s with dbg := { s.dbg with st := if 8 ≤ n then .lockedOut else .idle, fails := n, reason := r, nonce := [] } }
  | _ => .next s

/-- TEST_RESET: jtag_trst_n resets the TAP, whose instruction is then IDCODE (IEEE 1149.1), and ends the debug view. -/
def execTestReset (s : State) : Result :=
  let s1 := authClose s
  .next { s1 with dbg := { s1.dbg with dr := 0, tap := .idcode } }

end Sys2Proof.Machine
end

