-- ==== Sys2Proof/Machine/RegWrite.lean ====
section
/-! DEFINITION. What a register write does, register by register (R9, R399, R401 to R405, R409 and the view rules of the
owning chapters). A write names the register by the offset it begins at, the bits it covers, its data, and whether it
touches byte 0, which alone starts side effects. -/

namespace Sys2Proof.Machine

/-- The operator view's writes to a locked page (R405). -/
def lockedFor (s : State) (v : View) (p : Nat) : Bool := v == .operator && (s.page p).lock

/-- Write a view's copy of a selector of `bits`. -/
def putSel (s : State) (v : View) (p off bits : Nat) (d : Word) : State :=
  { s with sel := tset 0 s.sel (selKey v p off) (BitVec.ofNat 64 (d.toNat % 2 ^ bits)) }

/-! ## The common registers (R401 to R405) -/

/-- IRQ_STATUS AND IRQ_ENABLE of a page leaves 0: its message is presented (R403). -/
def irqEdge (before after : Page) (s : State) (p : Nat) : State :=
  if before.irqStatus &&& before.irqEnable = 0 ∧ after.irqStatus &&& after.irqEnable ≠ 0 then presentIrq s p else s

/-- Whether a view may write a page's common registers: the MGT page's are the management view's alone (R409, R417). -/
def writesCommon (v : View) (p : Nat) : Bool := if p = pgMGT then v == .management else opDbg v

/-- A write to a common register. -/
def putCommon (s : State) (v : View) (p off : Nat) (d : Word) : State :=
  let pg := s.page p
  let w : W32 := BitVec.ofNat 32 d.toNat
  let lk := lockedFor s v p
  if !(writesCommon v p) then s
  else if off = 0x008 then
    if lk || !(w.getLsbD 0) then s else s.setPage p { pg with cnt := [0, 0, 0, 0, 0, 0, 0, 0] }
  else if off = 0x010 then s.setPage p { pg with irqStatus := pg.irqStatus &&& ~~~w }
  else if off = 0x014 then
    if lk then s
    else
      let pg1 := { pg with irqEnable := w }
      irqEdge pg pg1 (s.setPage p pg1) p
  else if off = 0x018 then if lk then s else raiseIrq s p w
  else if off = 0x01C then s.setPage p { pg with errStatus := pg.errStatus &&& ~~~w }
  else if off = 0x028 then
    if lk then s
    else if w.getLsbD 31 then s.setPage p { pg with inject := some true }
    else if w.getLsbD 30 then s.setPage p { pg with inject := some false }
    else s
  else if off = 0x030 then if w.getLsbD 0 then s.setPage p { pg with lock := true } else s
  else s

/-! ## ID, HFE, BSN -/

/-- The mapped pages in ascending order. -/
def allPages : List Nat := (List.range 0x2A).filter mapped

/-- ID_IRQ_TARGET: setting ENABLE presents the message of each page with a pending enabled cause (R403). -/
def putIrqTarget (s : State) (w : W32) : State :=
  let s1 := { s with idIrqTarget := w &&& 0x80000FFF }
  if !(s.idIrqTarget.getLsbD 31) && w.getLsbD 31 then
    allPages.foldl (fun t p => if (t.page p).irqStatus &&& (t.page p).irqEnable ≠ 0 then presentIrq t p else t) s1
  else s1

def putID (s : State) (v : View) (off : Nat) (d : Word) : State :=
  if off = 0x138 ∧ opDbg v ∧ !(lockedFor s v pgID) then putIrqTarget s (BitVec.ofNat 32 d.toNat) else s

/-- HFE_NTF_SEL and HFE_NTF_ADDR are written in the operator view only (R122). -/
def putHFE (s : State) (v : View) (off : Nat) (d cover : Word) : State :=
  if !(opView v) then s
  else if off = 0x100 then putSel s v pgHFE 0x100 12 d
  else if off = 0x108 ∧ !(lockedFor s v pgHFE) then
    let t := selOf s v pgHFE 0x100
    { s with ntfTargets := tset 0 s.ntfTargets t (mergeW 0xFFFFFFFFFFFFFFFC (ntfAddr s t) d cover) }
  else s

/-- BSN_DOMAIN_CTRL: set force bits wake their domains (R15). -/
def putBSN (s : State) (v : View) (off : Nat) (d : Word) : State :=
  if off = 0x100 ∧ opDbg v ∧ !(lockedFor s v pgBSN) then
    let w : W32 := BitVec.ofNat 32 d.toNat &&& 0x83FF00FF
    let s1 := { s with bsn := { s.bsn with ctrl := w } }
    let s2 := if w.getLsbD 31 then wakeSpine s1 else s1
    (bitList 8 w.toNat).foldl wakeSlice s2
  else s

/-! ## The Steppe -/

/-- STP_Q_CTRL of a queue not FREE: WARM in the operator view, HOLD written 1, ENABLE, HOLD written 0 (R115, R119, R109,
R111); the read of an enable is also that of a HOLD written 0 beside it. -/
def putQueueCtrl (s : State) (v : View) (q : Nat) (d : Word) : State :=
  if (s.queue q).st = .free then s
  else
    let hold := bitAt d 1
    let s1 := if opView v then s.setQueue q { s.queue q with warm := bitAt d 2 } else s
    let s2 := if hold then queueHold s1 q true else s1
    let s3 := if bitAt d 0 then queueEnable s2 q else queueDisable s2 q
    let began := (s.queue q).st == .disabled && !(s.queue q).hold && (s3.queue q).st == .enabled
    if hold || began then s3 else queueHold s3 q false

def putSTP (s : State) (v : View) (off : Nat) (d : Word) : State :=
  if v = .management then s
  else if off = 0x100 then putSel s v pgSTP 0x100 18 d
  else if off = 0x104 ∧ !(lockedFor s v pgSTP) then
    let q := selOf s v pgSTP 0x100
    if seesQueue s v q then putQueueCtrl s v q d else s
  else s

/-! ## The Watershed and the Saddle -/

/-- WSH_SYNC_INVAL of a context (R153). -/
def syncInval (s : State) (c : Nat) (all : Bool) (id : Nat) : State :=
  { s with wsh := { s.wsh with syncCache :=
      if all then s.wsh.syncCache.filter (fun e => decide (e.1 / 2 ^ 24 ≠ c)) else tdel s.wsh.syncCache (c * 2 ^ 24 + id) } }

/-- WSH_PROBE_SEL: the field changes, and a write that touches byte 0 starts the probe (R171). -/
def putProbe (s : State) (v : View) (d cover : Word) (b0 : Bool) (m : MemView) : State :=
  let w := mergeW 0x81FFFFFFFFFFFFFF (probeOf s v).sel d cover
  let c := match v with | .tenant c => c | _ => probeCtx s
  let (f, s) := s.takeFree
  let x : Probe := if b0 then probeFence s c w (isTenant v || v == .debug || c == 0) f m else { probeOf s v with sel := w }
  { s with wsh := { s.wsh with probes := tset Probe.reset s.wsh.probes (viewCopy v) x } }

def putWSH (s : State) (v : View) (off : Nat) (d cover : Word) (b0 : Bool) (m : MemView) : State :=
  let free := opDbg v && !(lockedFor s v pgWSH)
  if off = 0x100 then syncInval s (viewCtx v) (bitAt d 24) (fld d 23 0)
  else if off = 0x120 then putProbe s v d cover b0 m
  else if off = 0x108 then
    if free then { s with wsh := { s.wsh with wfgBase := mergeW 0x000FFFFFFFFFFFC0 s.wsh.wfgBase d cover } } else s
  else if off = 0x110 then
    if free then { s with wsh := { s.wsh with wfgSize := BitVec.ofNat 32 d.toNat &&& 0xFFFFFFC0 } } else s
  else if off = 0x114 then
    if !(opDbg v) then s
    else
      let s1 := if bitAt d 1 then { s with wsh := { s.wsh with wfgDone := false } } else s
      if bitAt d 0 then startWfg s1 (v == .debug) else s1
  else if off = 0x118 then if free then putSel s .operator pgWSH 0x118 14 d else s
  else s

/-- An owner register's fields: VALID and PARTITION. A change of owner, or VALID cleared, runs its sequence; PARTITION of
an unowned unit is only stored. -/
def ownerWrite (valid : Bool) (part : Nat) (changing : Option (Bool × Nat)) (d : Word) : Option (Bool × Nat × Bool) :=
  let v := bitAt d 8
  let p := fld d 7 0
  if (v, p) = changing.getD (valid, part) then none
  else some (v, p, v || valid || changing.isSome)

def putSAD (s : State) (v : View) (off : Nat) (d : Word) : State :=
  if off = 0x100 then putSel s v pgSAD 0x100 6 d
  else if off = 0x104 ∧ opDbg v ∧ !(lockedFor s v pgSAD) then
    let c := selOf s v pgSAD 0x100
    let x := s.barrier c
    match ownerWrite x.valid x.part x.changing d with
    | none => s
    | some (vd, p, true) => chanOwner s c vd p
    | some (_, p, false) => s.setBarrier c { x with part := p }
  else s

/-! ## Launch units -/

def putECP (s : State) (v : View) (off : Nat) (d cover : Word) : State :=
  if off = 0x100 ∧ !(lockedFor s v pgECP) then
    let c := viewCtx v
    let x := s.ctx c
    s.setCtx c { x with pace := mergeW 0x01FFFFFFFFFFFFC1 x.pace d cover }
  else if off = 0x108 ∧ opDbg v then putSel s v pgECP 0x108 14 d
  else s

def putFAN (s : State) (v : View) (off : Nat) (d : Word) : State :=
  if !(opDbg v) then s
  else if off = 0x100 then putSel s v pgFAN 0x100 5 d
  else if off = 0x104 ∧ !(lockedFor s v pgFAN) then
    let n := selOf s v pgFAN 0x100
    let x := s.fan n
    match ownerWrite x.valid x.part x.changing d with
    | none => s
    | some (vd, p, true) => fanOwner s n vd p
    | some (_, p, false) => s.setFan n { x with part := p }
  else s

/-! ## Contexts, partitions, regulation -/

def putOBJ (s : State) (v : View) (off : Nat) (d : Word) : State :=
  if off = 0x100 ∧ !(isTenant v) then putSel s v pgOBJ 0x100 14 d
  else if off = 0x140 then putSel s v pgOBJ 0x140 32 d
  else s

/-- Two scratchpad shares overlap, in 4 KiB units. -/
def shareOverlaps (b n b' n' : Nat) : Bool := decide (0 < n ∧ 0 < n' ∧ b < b' + n' ∧ b' < b + n)

/-- SCH_CTX_SPAD (R270). -/
def putSpad (s : State) (c base size : Nat) : State :=
  let x := s.ctx c
  let clash := s.ctxs.any (fun e => e.1 != c && e.2.part == x.part && e.2.st != .free &&
    shareOverlaps base size e.2.spadBase e.2.spadSize)
  if (x.st ≠ .active ∧ x.st ≠ .lost) ∨ clash then setErr s pgSCH 0 c
  else s.setCtx c { x with spadBase := base, spadSize := size }

def putSCH (s : State) (v : View) (off : Nat) (d cover : Word) : State :=
  let free := opDbg v && !(lockedFor s v pgSCH)
  if off = 0x100 then if opDbg v then putSel s v pgSCH 0x100 8 d else s
  else if off = 0x140 then if opDbg v then putSel s v pgSCH 0x140 14 d else s
  else if !free then s
  else if off = 0x104 then
    let p := selOf s v pgSCH 0x100
    s.setPart p { s.part p with ctrl := BitVec.ofNat 32 d.toNat &&& 0x00FFFFFF }
  else if off = 0x148 then
    let c := selOf s v pgSCH 0x140
    let x := s.ctx c
    let w := mergeW 0x0000FFFF0000FFFF (BitVec.ofNat 64 (x.spadSize * 2 ^ 32 + x.spadBase)) d cover
    putSpad s c (fld w 15 0) (fld w 47 32)
  else if off = 0x200 then { s with dl := { s.dl with ctrl := BitVec.ofNat 32 d.toNat &&& 0x7FF } }
  else s

def putBWR (s : State) (v : View) (off : Nat) (d : Word) : State :=
  if off = 0x100 then putSel s v pgBWR 0x100 5 d
  else if off = 0x110 then putSel s v pgBWR 0x110 10 d
  else if off = 0x10C ∧ opDbg v ∧ !(lockedFor s v pgBWR) then { s with bwrCtrl := BitVec.ofNat 32 d.toNat }
  else s

def putNTC (s : State) (v : View) (off : Nat) (d : Word) : State :=
  if off = 0x100 then putSel s v pgNTC 0x100 12 d
  else if off = 0x110 then putSel s v pgNTC 0x110 8 d
  else s

/-! ## The Veld (R335) -/

/-- A VLD register write waits for the next window. -/
def putLate (s : State) (w : VldWrite) : State := { s with vld := { s.vld with late := s.vld.late ++ [w] } }

/-- VLD_RACK_BUDGET: written by the management view alone; the time of the write is what staleness counts from (R313). -/
def putRack (s : State) (d : Word) : State :=
  putLate { s with vld := { s.vld with lastRack := s.now } } { off := 0x104, sel := 0, data := d, cover := 0xFFFFFFFF }

/-- The RW registers of Table 12.3 but the selectors and the rack budget. -/
def vldFields : List Nat :=
  [0x100, 0x108, 0x10C, 0x120, 0x124, 0x128, 0x12C, 0x134, 0x138, 0x140, 0x180, 0x188, 0x190, 0x1A4]

def putVLD (s : State) (v : View) (off : Nat) (d cover : Word) : State :=
  if off = 0x104 then if v = .management then putRack s d else s
  else if !(opDbg v) then s
  else if off = 0x130 then putSel s v pgVLD 0x130 8 d
  else if off = 0x1A0 then putSel s v pgVLD 0x1A0 4 d
  else if vldFields.contains off ∧ !(lockedFor s v pgVLD) then
    putLate s { off := off, sel := selOf s v pgVLD (if off = 0x1A4 then 0x1A0 else 0x130), data := d, cover := cover }
  else s

/-! ## The Loess (R356, R362) -/

/-- The owner a view's trace session has, its number and context in LOE_TRACE_STATUS. -/
def traceOwnerOf (v : View) : TraceOwner × Nat × Nat :=
  match v with
  | .tenant c => (TraceOwner.tenant c, 0, c)
  | .debug => (TraceOwner.debug, 2, 0)
  | _ => (TraceOwner.operator, 1, 0)

/-- LOE_TRACE_CTRL: a START beside an active session ignores the write; otherwise the fields change, STOP by the owner ends
the session and START begins one (R356, log 33). -/
def putTraceCtrl (s : State) (v : View) (d : Word) : State :=
  let t := s.loe.trace
  let o := traceOwnerOf v
  if bitAt d 0 ∧ t.owner.isSome ∧ !(bitAt d 1 ∧ t.owner = some o.1) then startTrace s o.1 o.2.1 o.2.2
  else
    let s1 := if lockedFor s v pgLOE then s
              else { s with loe := { s.loe with trace := { t with ctrl := BitVec.ofNat 32 d.toNat &&& 0xFF1C } } }
    let s2 := if bitAt d 1 ∧ t.owner = some o.1 then endTrace s1 else s1
    if bitAt d 0 then startTrace s2 o.1 o.2.1 o.2.2 else s2

def putLOE (s : State) (v : View) (off : Nat) (d cover : Word) : State :=
  let lk := lockedFor s v pgLOE
  let c := selCtx s v pgLOE 0x100
  let x := s.ctx c
  let l := s.loe
  if v = .management then s
  else if off = 0x100 then if isTenant v then s else putSel s v pgLOE 0x100 14 d
  else if off = 0x150 then putSel s v pgLOE 0x150 20 (d &&& 0xF3FFF)
  else if off = 0x1C0 then putSel s v pgLOE 0x1C0 12 d
  else if off = 0x180 then putTraceCtrl s v d
  else if lk then s
  else if off = 0x104 then if isTenant v then s else s.setCtx c { x with wdogMs := fld d 21 0 }
  else if off = 0x128 then s.setCtx c { x with capture := mergeW 0x01FFFFFFFFFFFFC1 x.capture d cover }
  else if off = 0x130 then s.setCtx c { x with capSize := fld d 19 0 }
  else if off = 0x138 then
    if opDbg v then { s with loe := { l with capBase := mergeW 0x000FFFFFFFFFFFC0 l.capBase d cover } } else s
  else if off = 0x140 then if opDbg v then { s with loe := { l with capSize := fld d 19 0 } } else s
  else if off = 0x188 then
    { s with loe := { l with trace := { l.trace with base := mergeW 0xFFFFFFFFFFFFFFC0 l.trace.base d cover } } }
  else if off = 0x190 then { s with loe := { l with trace := { l.trace with size := fld d 25 0 } } }
  else s

/-! ## The Switchback, peers, management, debug -/

/-- SWB_RCV_CTRL: BEGIN, VERIFY, PROGRAM, BOOT, in that order where one write sets several. -/
def putRcv (s : State) (d : Word) : State :=
  let s1 := if bitAt d 0 then rcvBegin s else s
  let s2 := if bitAt d 1 then rcvVerify s1 else s1
  let s3 := if bitAt d 2 then rcvProgram s2 else s2
  if bitAt d 3 then rcvBoot s3 else s3

/-- SWB_SPI_CTRL: DONE and ERROR clear, then GO. -/
def putSpi (s : State) (d : Word) : State :=
  let w := s.swb
  let s1 := { s with swb := { w with spiDone := w.spiDone && !(bitAt d 2), spiError := w.spiError && !(bitAt d 3) } }
  if bitAt d 0 then spiGo s1 else s1

def putSWB (s : State) (v : View) (off : Nat) (d cover : Word) : State :=
  let lk := lockedFor s v pgSWB
  let w := s.swb
  if !(opDbg v) then s
  else if off = 0x108 then putSel s v pgSWB 0x108 3 d
  else if off = 0x110 then putSel s v pgSWB 0x110 16 d
  else if off = 0x138 then putSpi s d
  else if off = 0x140 then putRcv s d
  else if off = 0x148 then if cover = 0xFFFFFFFFFFFFFFFF then rcvAppend s d else s
  else if lk then s
  else if off = 0x128 then { s with swb := { w with spiSrc := mergeW 0x000FFFFFFFFFFFFF w.spiSrc d cover } }
  else if off = 0x130 then { s with swb := { w with spiDst := BitVec.ofNat 32 (fld d 25 0) } }
  else if off = 0x134 then { s with swb := { w with spiLen := BitVec.ofNat 32 (fld d 26 0) } }
  else s

def putPER (s : State) (v : View) (off : Nat) (d : Word) : State :=
  if off = 0x108 ∧ opDbg v then putSel s v pgPER 0x108 16 d else s

/-- The MGT page is written by the management view alone (R417). -/
def putMGT (s : State) (v : View) (off : Nat) (d : Word) : State :=
  let g := s.mgt
  if v ≠ .management then s
  else if off = 0x100 then { s with mgt := { g with winSel := BitVec.ofNat 32 d.toNat &&& 0x000FFFFC } }
  else if off = 0x108 then
    { s with mgt := { g with winRefused := g.winRefused && !(bitAt d 1), lastRefused := g.lastRefused && !(bitAt d 0) } }
  else if off = 0x10C then { s with mgt := { g with scratch := BitVec.ofNat 32 d.toNat } }
  else s

/-- The DBG page is the debug side's alone (R408, R414). NEW, CHECK and CLOSE of one write act in that order. -/
def putDBG (s : State) (v : View) (off : Nat) (d : Word) : State :=
  let g := s.dbg
  if v ≠ .debug then s
  else if off = 0x100 then
    let s1 := if bitAt d 0 then authNew s else s
    let s2 := if bitAt d 1 then authCheck s1 else s1
    if bitAt d 2 then authClose s2 else s2
  else if debugOpen s then s
  else if off = 0x108 then { s with dbg := { g with len := fld d 11 0 } }
  else if 0x400 ≤ off then { s with dbg := { g with data := Memory.writeBytes g.data (off - 0x400) (leBytes 4 d.toNat) } }
  else s

/-! ## Any register -/

/-- A write to the register that begins at an offset. `cover` are the bits written, `b0` says that byte 0 is among
them. -/
def putReg (s : State) (v : View) (p off : Nat) (d cover : Word) (b0 : Bool) (m : MemView) : State :=
  if off < 0x100 then putCommon s v p off d
  else if p = pgID then putID s v off d
  else if p = pgHFE then putHFE s v off d cover
  else if p = pgSTP then putSTP s v off d
  else if p = pgWSH then putWSH s v off d cover b0 m
  else if p = pgSAD then putSAD s v off d
  else if p = pgLCH then if off = 0x100 then putSel s v pgLCH 0x100 3 d else s
  else if p = pgECP then putECP s v off d cover
  else if p = pgFAN then putFAN s v off d
  else if p = pgOBJ then putOBJ s v off d
  else if p = pgSCH then putSCH s v off d cover
  else if p = pgBWR then putBWR s v off d
  else if p = pgNTC then putNTC s v off d
  else if p = pgVLD then putVLD s v off d cover
  else if p = pgLOE then putLOE s v off d cover
  else if p = pgSWB then putSWB s v off d cover
  else if p = pgBSN then putBSN s v off d
  else if p = pgPER then putPER s v off d
  else if p = pgMGT then putMGT s v off d
  else if p = pgDBG then putDBG s v off d
  else s

/-- The bits of the halves a beat covers. -/
def coverOf (lo hi : Bool) : Word := (if lo then 0x00000000FFFFFFFF else 0) ||| (if hi then 0xFFFFFFFF00000000 else 0)

/-- A write at an 8-aligned offset of a page: one 64-bit register, or the lower 32-bit register and then the upper one
(R399). -/
def put64 (s : State) (v : View) (p off : Nat) (d : Word) (lo hi : Bool) (m : MemView) : State :=
  if is64 p off then putReg s v p off d (coverOf lo hi) lo m
  else
    let s1 := if lo then putReg s v p off (BitVec.ofNat 64 (fld d 31 0)) 0x00000000FFFFFFFF true m else s
    if hi then putReg s1 v p (off + 4) (BitVec.ofNat 64 (fld d 63 32)) 0x00000000FFFFFFFF true m else s1

end Sys2Proof.Machine
end

