-- ==== Sys2Proof/Machine/Host.lean ====
section
/-! DEFINITION. The ports that reach registers: the judging of a host access (R31 to R35, R408), the management port (R63,
R411, R412), the debug side (R414), accesses held while a domain wakes (R15, R18), doorbell, signal-page and register
writes, notifications (R37, R38) and sleep (R16, R17). -/

namespace Sys2Proof.Machine

/-! ## Responses -/

/-- The key that orders held events (R36, R400): the management port 1, the debug side 2, the Notch 3, the signal page 4, the
engine command port 5, and each transaction ID of the host port by itself. -/
def viewKey (v : View) (id : BitVec 8) : Nat :=
  match v with
  | .tenant _ => 16 + id.toNat
  | .operator => 16 + id.toNat
  | .management => 1
  | .security => 3
  | .debug => 2

def heldKey : Held → Nat
  | .signal _ _ _ _ => 4
  | .write v id _ _ => viewKey v id
  | .read v id _ => viewKey v id
  | .answer id _ => 16 + id.toNat
  | .mgmtRead _ => 1
  | .debugRead _ _ => 2
  | .token _ _ _ _ _ => 5
  | .upstream _ _ _ _ => 5

/-- An earlier event of the same key is held. -/
def behind (s : State) (k : Nat) : Bool := s.bsn.held.any (fun h => heldKey h == k)

/-- The responses of a host transaction leave, after those of an earlier transaction of the same ID that is held (R36). -/
def hostReply (s : State) (id : BitVec 8) (outs : List Out) : State :=
  if behind s (16 + id.toNat) then { s with bsn := { s.bsn with held := s.bsn.held ++ [.answer id outs] } } else emits s outs

/-- A write response: 0 OKAY, 2 SLVERR. -/
def hostAnswer (s : State) (id : BitVec 8) (resp : Nat) : State := hostReply s id [.hostResp id resp]

/-- What the register access instrument shows at the next capture (Table 16.6): the fields of the access with its
result. -/
def instrResult (dr err done data : Nat) : BitVec 88 :=
  BitVec.ofNat 88 (err * 2 ^ 87 + done * 2 ^ 86 + data * 2 ^ 22 + dr % 2 ^ 22)

/-- The instrument has the result of an access. -/
def debugAnswer (s : State) (err : Bool) (data : Nat) : State :=
  if debugOpen s then
    let r := instrResult s.dbg.dr.toNat (b2n err) 1 data
    emit { s with dbg := { s.dbg with dr := r } } (.jtagResult r)
  else s

/-- The response to a register write that has taken effect. -/
def writeAnswer (s : State) (v : View) (id : BitVec 8) (resp : Nat) : State :=
  match v with
  | .tenant _ => emit s (.hostResp id resp)
  | .operator => emit s (.hostResp id resp)
  | .management => emit s (.mgmtResp false 0)
  | .security => s
  | .debug => debugAnswer s false 0

/-- The answer to a management read. -/
def mgmtAnswer (s : State) (data : Nat) : State := emit s (.mgmtResp false (BitVec.ofNat 32 data))

/-! ## Reset and domains -/

/-- The block is held in reset: it accepts nothing. -/
def inReset (s : State) : Bool := s.bsn.porAsserted || s.bsn.blkAsserted

/-- A wake event for a page's domain (R15). -/
def wakePage (s : State) (p : Nat) : State :=
  if alwaysOn p then s else match pageSlice p with | some k => wakeSlice s k | none => wakeSpine s

/-- Hold an event and wake the domain of its page; a host access to a page that sleeps counts as held for a wake (Table
4.16). -/
def hold (s : State) (p : Nat) (h : Held) : State :=
  let s1 := if decide (16 ≤ heldKey h) && !(pageAwake s p) then count s pgHFE 6 else s
  wakePage { s1 with bsn := { s1.bsn with held := s1.bsn.held ++ [h] } } p

/-- A read of a queue's CI while HOLD is 1 waits for every fetch that was issued before (R111). -/
def ciBlocked (s : State) (v : View) (p off : Nat) : Bool :=
  let q := selOf s v pgSTP 0x100
  p == pgSTP && off == 0x10C && seesQueue s v q && (s.queue q).hold && (s.queue q).entryRead

/-! ## Register accesses by beats (R399) -/

/-- The page of a list of beats: a burst stays in one (Table 2.5). -/
def beatPage : List RegBeat → Nat
  | b :: _ => b.off / 4096
  | [] => pgID

/-- The writes of a list of beats, in address order. -/
def putBeats (s : State) (v : View) (bs : List RegBeat) (m : MemView) : State :=
  bs.foldl (fun t b => put64 t v (b.off / 4096) (b.off % 4096) b.data b.lo b.hi m) s

/-- A write that its view may make takes effect and is answered. -/
def doWrite (s : State) (v : View) (id : BitVec 8) (resp : Nat) (bs : List RegBeat) (m : MemView) : State :=
  writeAnswer (putBeats s v bs m) v id resp

/-- The same, held while the page's domain wakes and behind an earlier access of its key (R18, R36, R400). -/
def acceptWrite (s : State) (v : View) (id : BitVec 8) (resp : Nat) (bs : List RegBeat) (m : MemView) : State :=
  if !(pageAwake s (beatPage bs)) || behind s (viewKey v id) then hold s (beatPage bs) (.write v id resp bs)
  else doWrite s v id resp bs m

/-- What a read beat returns; `f` supplies the free counters. -/
def beatValue (s : State) (v : View) (b : RegBeat) (f : Nat) : Nat :=
  let p := b.off / 4096
  let o := b.off % 4096
  if b.lo && b.hi then read64 s v p o f
  else if b.lo then read32 s v p o f
  else read32 s v p (o + 4) f

/-- The response beats of a host read; a refused beat returns data 0. -/
def readOuts (s : State) (v : View) (id : BitVec 8) : List (Option RegBeat) → Nat → List Out
  | [], _ => []
  | none :: rest, f => .hostData id 2 0 rest.isEmpty :: readOuts s v id rest (f + 1)
  | some b :: rest, f => .hostData id 0 (BitVec.ofNat 64 (beatValue s v b f)) rest.isEmpty :: readOuts s v id rest (f + 1)

/-- A host read takes effect. -/
def doRead (s : State) (v : View) (id : BitVec 8) (bs : List (Option RegBeat)) : State :=
  emits { s with freeCtr := s.freeCtr + bs.length } (readOuts s v id bs s.freeCtr)

/-- A beat that the always-on domain answers at once: PAGE_ID, PAGE_CAPS, PAGE_STATUS (R398), or a refused one. -/
def quickBeat : Option RegBeat → Bool
  | none => true
  | some b => b.off % 4096 == 0 || (b.off % 4096 == 8 && !b.lo)

/-- A read beat whose value must wait (R111). -/
def blockedBeat (s : State) (v : View) : Option RegBeat → Bool
  | none => false
  | some b => b.hi && ciBlocked s v (b.off / 4096) (b.off % 4096 + 4)

/-- The page of a host read's beats. -/
def readPage (bs : List (Option RegBeat)) : Nat := beatPage (bs.filterMap (fun b => if quickBeat b then none else b))

/-- A host read: at once, or held as a write is (R18, R36, R398). -/
def acceptRead (s : State) (v : View) (id : BitVec 8) (bs : List (Option RegBeat)) : State :=
  if bs.all quickBeat then
    hostReply { s with freeCtr := s.freeCtr + bs.length } id (readOuts s v id bs s.freeCtr)
  else if !(pageAwake s (readPage bs)) || behind s (viewKey v id) || bs.any (blockedBeat s v) then
    hold s (readPage bs) (.read v id bs)
  else doRead s v id bs

/-! ## Judging a host access (R33) -/

/-- The regions of the host window (Table 2.4). -/
inductive HostRegion where
  | doorbell
  | register
  | signal
  | mailbox
  | unmapped
deriving DecidableEq, Repr

def hostRegion (a : Nat) : HostRegion :=
  if a < 0x1000000 then .doorbell else if a < 0x1100000 then .register else if a < 0x1101000 then .signal
  else if a < 0x1102000 then .mailbox else .unmapped

/-- The beats of a host transaction: address, data, strobes. -/
def hostBeats (r : HostReq) (d : Word) : List (Nat × Word × BitVec 8) :=
  (r.addr.toNat, d, r.strobes) :: r.more.zipIdx.map (fun e => (r.addr.toNat + (e.2 + 1) * r.size, e.1.1, e.1.2))

/-- Naturally aligned, of 4 or 8 bytes. -/
def wordBeat (r : HostReq) : Bool := (r.size == 4 || r.size == 8) && r.addr.toNat % r.size == 0

/-- A single beat, or an INCR burst of up to 16 beats within one 4 KiB page. -/
def burstOk (r : HostReq) : Bool :=
  r.single || (r.incr && decide (r.beats ≤ 16) && decide (r.addr.toNat % 4096 + r.beats * r.size ≤ 4096))

/-- The strobes of one 32-bit half of a beat: all set, none set. -/
def halfFull (st : BitVec 8) (i : Nat) : Bool := bitsN st.toNat (4 * i + 3) (4 * i) == 15
def halfNone (st : BitVec 8) (i : Nat) : Bool := bitsN st.toNat (4 * i + 3) (4 * i) == 0

/-- Each half of a register write's beat is strobed whole or not at all, and one is (Table 2.5). -/
def strobesOk (size : Nat) (st : BitVec 8) : Bool :=
  if size = 4 then halfFull st 0
  else (halfFull st 0 || halfNone st 0) && (halfFull st 1 || halfNone st 1) && (halfFull st 0 || halfFull st 1)

/-- Every strobe of the beat's size is set. -/
def strobesAll (r : HostReq) : Bool :=
  if r.size = 4 then halfFull r.strobes 0 else halfFull r.strobes 0 && halfFull r.strobes 1

/-- The access is one that Table 2.5 accepts. -/
def formOk (r : HostReq) (write : Bool) : Bool :=
  match hostRegion r.addr.toNat with
  | .doorbell => !write || (r.single && wordBeat r && strobesAll r)
  | .register => wordBeat r && burstOk r && (!write || (hostBeats r 0).all (fun b => strobesOk r.size b.2.2))
  | .signal => !write || (r.single && r.size == 8 && r.addr.toNat % 8 == 0 && strobesAll r)
  | .mailbox => wordBeat r && burstOk r
  | .unmapped => false

/-- The requester encoding of R34 fails. -/
def badRequester (r : HostReq) : Bool := decide (2 ≤ r.cls.toNat) || r.bit15
def badOperator (r : HostReq) : Bool := r.cls.toNat == 1 && r.ctx.toNat != 0

/-- The first failure of R33's steps 1 to 3: the response, and whether it counts as refused for privilege (R34). -/
def hostFault (r : HostReq) (write : Bool) : Option (Nat × Bool) :=
  if badRequester r then some (2, false)
  else if badOperator r then some (2, true)
  else if hostRegion r.addr.toNat = .unmapped then some (3, false)
  else if write && r.twin && hostRegion r.addr.toNat != .doorbell then some (2, false)
  else if write && (r.atomic || r.poison) then some (2, false)
  else if !(formOk r write) then some (2, false)
  else none

/-- The response beats of a read that returns no data. -/
def blankOuts (r : HostReq) (resp : Nat) : List Out :=
  (List.range r.beats).map (fun i => .hostData r.id resp 0 (i + 1 == r.beats))

/-- A host access that fails: its response, and the counter of accesses refused for privilege. -/
def hostRefuse (s : State) (r : HostReq) (write : Bool) (resp : Nat) (privilege : Bool) : State :=
  hostReply (if privilege then count s pgHFE 7 else s) r.id (if write then [.hostResp r.id resp] else blankOuts r resp)

/-- Run what follows the judging of a host write. -/
def judged (s : State) (r : HostReq) (f : State → State) : State :=
  if inReset s then s
  else match hostFault r true with
    | some (resp, pr) => hostRefuse s r true resp pr
    | none => f s

/-- The view of a host access (Table 16.4). -/
def hostView (r : HostReq) : View := if r.cls.toNat = 1 then .operator else .tenant r.ctx.toNat

/-- A beat as an access to 8 bytes of the register window: its 8-aligned offset, its data, and the halves it reaches. -/
def regBeat (size : Nat) (write : Bool) (b : Nat × Word × BitVec 8) : RegBeat :=
  let up := b.1 % 8 == 4
  { off := (b.1 - 0x1000000) / 8 * 8,
    data := if size = 4 ∧ up then BitVec.ofNat 64 (fld b.2.1 31 0 * 2 ^ 32) else b.2.1,
    lo := if size = 4 then !up else !write || halfFull b.2.2 0,
    hi := if size = 4 then up else !write || halfFull b.2.2 1 }

/-- An access that a host view may not make (R408). -/
def refusedHost (s : State) (v : View) (off : Nat) (lo hi write : Bool) : Bool :=
  let p := off / 4096
  !(mapped p) || (inRecovery s && !(v == .operator && (p == pgID || p == pgSWB))) || (isTenant v && (p == pgMGT || p == pgDBG)) ||
  (opView v && p == pgDBG && (write || off % 4096 != 0x100 || lo || !hi))

/-- A beat that its view may make. -/
def allowedBeat (s : State) (v : View) (write : Bool) (b : RegBeat) : Bool := !(refusedHost s v b.off b.lo b.hi write)

/-- A host write to the register window: each beat is judged and taken by itself (R399), and the one response is SLVERR
where a beat is refused (log 40). -/
def hostRegWrite (s : State) (r : HostReq) (d : Word) (m : MemView) : State :=
  let v := hostView r
  let bs := (hostBeats r d).map (regBeat r.size true)
  let ok := bs.filter (allowedBeat s v true)
  if ok.length = bs.length then acceptWrite s v r.id 0 bs m
  else
    let s1 := count s pgHFE 7 (bs.length - ok.length)
    if ok.isEmpty then hostAnswer s1 r.id 2 else acceptWrite s1 v r.id 2 ok m

/-- A host read of the register window. -/
def hostRegRead (s : State) (r : HostReq) : State :=
  let v := hostView r
  let bs := (hostBeats r 0).map (fun b =>
    let x := regBeat r.size false b
    if allowedBeat s v false x then some x else none)
  acceptRead (count s pgHFE 7 (bs.filter (·.isNone)).length) v r.id bs

/-! ## The management port (R63, R411, R412) -/

/-- The page of a slot (Table 16.5). -/
def mgmtPage (slot : Nat) : Option Nat := [pgID, pgVLD, pgSWB, pgBSN, pgLOE, pgMGT][slot]?

/-- The offsets of a page that the management view reads, and those it writes. -/
def mgmtReads (p off : Nat) : Bool :=
  if off < 0x100 then p == pgMGT || off == 0x000 || off == 0x004 || off == 0x00C
  else if p = pgID then true
  else if p = pgVLD then [0x104, 0x110, 0x118, 0x11C, 0x158, 0x15C].contains off
  else if p = pgSWB then off == 0x100 || off == 0x104
  else if p = pgBSN then off == 0x104 || off == 0x108 || off == 0x10C
  else if p = pgLOE then off == 0x148 || off == 0x14C
  else p == pgMGT
def mgmtWrites (p off : Nat) : Bool := p == pgMGT || (p == pgVLD && off == 0x104)

/-- A management access that is refused: counted, and remembered in LAST_REFUSED (R63, R408). -/
def mgmtRefuse (s : State) : State :=
  emit (count { s with mgt := { s.mgt with lastRefused := true } } pgMGT 2) (.mgmtResp true 0)

/-- A management write. -/
def mgmtWrite (s0 : State) (addr : Nat) (d : W32) (strb : Nat) : State :=
  let s := count s0 pgMGT 1
  let off := addr % 4096
  match mgmtPage (addr / 4096) with
  | none => mgmtRefuse s
  | some p =>
    if addr % 4 ≠ 0 ∨ strb ≠ 15 then mgmtRefuse s
    else if !(mgmtWrites p off) then writeAnswer s .management 0 0
    else
      let hi := off % 8 = 4
      let w : Word := BitVec.ofNat 64 (if hi then d.toNat * 2 ^ 32 else d.toNat)
      acceptWrite s .management 0 0 [⟨p * 4096 + off / 8 * 8, w, !hi, hi⟩] []

/-- The latch holds the upper half of the register that begins at an offset of a page. -/
def latchHit (s : State) (p off : Nat) : Option W32 :=
  match s.mgt.latch with
  | some (k, w) => if k = p * 4096 + off then some w else none
  | none => none

/-- The window works only in HALTED, FAILED and RECOVERY (R412). -/
def windowWorks (s : State) : Bool := s.swb.boot == .halted || s.swb.boot == .failed || s.swb.boot == .recovery

/-- MGT_WIN_DATA (R412): a register word with the operator's read rights while the block is halted, failed or in
recovery; the counter counts each window read. -/
def windowRead (s0 : State) : State × Nat :=
  let s := count s0 pgMGT 3
  if !(windowWorks s) then ({ s with mgt := { s.mgt with winRefused := true } }, 0)
  else
    let off := s.mgt.winSel.toNat
    let p := off / 4096
    let o := off % 4096
    if !(mapped p) || (p == pgDBG && o != 0x104) then (s, 0)
    else
      let (f, s1) := s.takeFree
      (s1, read32 s .operator p o f)

/-- The page whose domain a management read needs awake: the window reads another page; the always-on domain answers
PAGE_ID, PAGE_CAPS and PAGE_STATUS (R398). -/
def mgmtNeeds (s : State) (p off : Nat) : Nat :=
  if off = 0x000 ∨ off = 0x004 ∨ off = 0x00C then pgMGT
  else if p = pgMGT ∧ off = 0x104 then
    let q := s.mgt.winSel.toNat / 4096
    let o := s.mgt.winSel.toNat % 4096
    if windowWorks s && mapped q && !(o == 0x000 || o == 0x004 || o == 0x00C) then q else pgMGT
  else p

/-- A management read of a listed page takes effect: the latch, the window, the value (R411). -/
def doMgmtRead (s : State) (addr : Nat) : State :=
  let off := addr % 4096
  match mgmtPage (addr / 4096) with
  | none => s
  | some p =>
    if !(mgmtReads p off) then mgmtAnswer s 0
    else if p = pgMGT ∧ off = 0x104 then
      let r := windowRead s
      mgmtAnswer r.1 r.2
    else
      let (f, s1) := s.takeFree
      if is64 p off then
        let v := read64 s1 .management p off f
        mgmtAnswer { s1 with mgt := { s1.mgt with latch := some (p * 4096 + off, BitVec.ofNat 32 (v / 2 ^ 32)) } } (v % 2 ^ 32)
      else if off % 8 = 4 ∧ is64 p (off - 4) then
        match latchHit s1 p (off - 4) with
        | some w => mgmtAnswer { s1 with mgt := { s1.mgt with latch := none } } w.toNat
        | none => mgmtAnswer s1 (read32 s1 .management p off f)
      else mgmtAnswer s1 (read32 s1 .management p off f)

/-- A management read. -/
def mgmtRead (s0 : State) (addr : Nat) : State :=
  let s := count s0 pgMGT 0
  match mgmtPage (addr / 4096) with
  | none => mgmtRefuse s
  | some p =>
    if addr % 4 ≠ 0 then mgmtRefuse s
    else
      let n := mgmtNeeds s p (addr % 4096)
      if mgmtReads p (addr % 4096) && (!(pageAwake s n) || behind s 1) then hold s n (.mgmtRead addr) else doMgmtRead s addr

/-! ## The debug side (R414) -/

/-- An access that the debug side may not make: before authentication it reaches only the DBG page. -/
def refusedDebug (s : State) (off : Nat) : Bool := !(mapped (off / 4096)) || (!(debugOpen s) && off / 4096 != pgDBG)

/-- A debug read takes effect. -/
def doDebugRead (s : State) (off : Nat) (wide : Bool) : State :=
  let p := off / 4096
  let o := off % 4096
  let (f, s1) := s.takeFree
  debugAnswer s1 false (if wide then read64 s1 .debug p o f else read32 s1 .debug p o f)

/-- A debug read; PAGE_ID, PAGE_CAPS and PAGE_STATUS wake nothing (R398). -/
def debugRead (s : State) (off : Nat) (wide : Bool) : State :=
  let o := off % 4096
  if refusedDebug s off then debugAnswer s true 0
  else if (!(pageAwake s (off / 4096)) || behind s 2 || ciBlocked s .debug (off / 4096) (if wide then o + 4 else o)) &&
      !(o == 0x000 || (!wide && (o == 0x004 || o == 0x00C))) then
    hold s (off / 4096) (.debugRead off wide)
  else doDebugRead s off wide

/-- A write of 4 or 8 bytes at a naturally aligned offset. -/
def wordBeatAt (off : Nat) (wide : Bool) (d : Word) : RegBeat :=
  if wide then ⟨off, d, true, true⟩
  else if off % 8 = 0 then ⟨off, d, true, false⟩
  else ⟨off / 8 * 8, BitVec.ofNat 64 (fld d 31 0 * 2 ^ 32), false, true⟩

def alignedWrite (s : State) (v : View) (off : Nat) (wide : Bool) (d : Word) (m : MemView) : State :=
  acceptWrite s v 0 0 [wordBeatAt off wide d] m

/-- Naturally aligned. -/
def natural (off : Nat) (wide : Bool) : Bool := if wide then off % 8 == 0 else off % 4 == 0

/-- A debug write. -/
def debugWrite (s : State) (off : Nat) (wide : Bool) (d : Word) (m : MemView) : State :=
  if !(natural off wide) || refusedDebug s off then debugAnswer s true 0 else alignedWrite s .debug off wide d m

/-! ## Any register write -/

/-- A register write through the view it arrives by. The mailbox page and the other regions are not the register
window's. -/
def regWrite (s : State) (r : RegReq) (m : MemView) : State :=
  match r with
  | .host h d => judged s h (fun s => if hostRegion h.addr.toNat = .register then hostRegWrite s h d m else s)
  | .mgmt a d b => if inReset s then s else mgmtWrite s a.toNat d b.toNat
  | .security off wide d =>
    let o := off.toNat
    if inReset s || !(natural o wide) || !(mapped (o / 4096)) || o / 4096 == pgDBG then s else alignedWrite s .security o wide d m
  | .debug off wide d => if inReset s then s else debugWrite s off.toNat wide d m

/-- The page, and the offset and data of the word at a 4-aligned offset, if a write carries one: what says which row a
write is. -/
def writesWord (r : RegReq) (p off : Nat) : Option Nat :=
  let at' (o : Nat) (wide : Bool) (d : Word) : Option Nat :=
    if o = p * 4096 + off then some (fld d 31 0) else if wide && o + 4 == p * 4096 + off then some (fld d 63 32) else none
  match r with
  | .host h d =>
    if hostRegion h.addr.toNat = .register then
      (hostBeats h d).findSome? (fun b =>
        let x := regBeat h.size true b
        if x.lo && x.off == p * 4096 + off then some (fld x.data 31 0)
        else if x.hi && x.off + 4 == p * 4096 + off then some (fld x.data 63 32) else none)
    else none
  | .mgmt a d _ =>
    match mgmtPage (a.toNat / 4096) with
    | some q => if q * 4096 + a.toNat % 4096 = p * 4096 + off then some d.toNat else none
    | none => none
  | .security o wide d => at' o.toNat wide d
  | .debug o wide d => at' o.toNat wide d

/-- A row that a register write of its own makes: the write has its effect where it writes a word with the property the
row names, and is not this row otherwise (log 31). -/
def writeRow (s : State) (r : RegReq) (p off : Nat) (ok : Nat → Bool) (m : MemView) : Result :=
  match writesWord r p off with
  | some w => if ok w then .next (regWrite s r m) else .next s
  | none => .next s

/-! ## Doorbells -/

/-- A doorbell write that is well formed (R35, R386, R384, R112). -/
def doorbellAccepted (s : State) (r : HostReq) : State :=
  let q := bitsN r.addr.toNat 23 6
  if inRecovery s then hostAnswer (forwardDoorbell s q r.cls.toNat r.ctx.toNat) r.id 0
  else if r.twin then
    if hasTwin s then hostAnswer (twinDoorbell s q r.cls.toNat r.ctx.toNat) r.id 0 else hostAnswer s r.id 2
  else
    let x := doorbell s q r.cls.toNat r.ctx.toNat
    hostAnswer x.1 r.id (if x.2 then 0 else 2)

/-- DOORBELL_WRITE. -/
def execDoorbellWrite (r : HostReq) (s : State) : Result :=
  .next (judged s r (fun s => if hostRegion r.addr.toNat = .doorbell then doorbellAccepted s r else s))

/-! ## The signal page (R155) -/

/-- A signal-page write that is well formed: accepted with OKAY, and performed in the spine, which it wakes. In RECOVERY it
is refused (R408, log 31). -/
def signalAccepted (s : State) (r : HostReq) (d : Word) (m : MemView) : State :=
  let operator := r.cls.toNat == 1
  let off := r.addr.toNat % 4096
  if inRecovery s then hostRefuse s r true 2 true
  else
    spineEvent (hostAnswer s r.id 0) (.signal r.ctx.toNat off d operator) (fun s => signalPage s r.ctx.toNat off d operator m)

/-- A signal-page row: the write is at an offset the row names. -/
def signalRow (s : State) (r : HostReq) (d : Word) (m : MemView) (ok : Bool) : Result :=
  if hostRegion r.addr.toNat = .signal && ok then .next (judged s r (fun s => signalAccepted s r d m)) else .next s

/-- SIG_SET. -/
def execSigSet (r : HostReq) (d : Word) (m : MemView) (s : State) : Result := signalRow s r d m (r.addr.toNat % 4096 == 0x000)

/-- SIG_ADD. -/
def execSigAdd (r : HostReq) (d : Word) (m : MemView) (s : State) : Result := signalRow s r d m (r.addr.toNat % 4096 == 0x008)

/-- SIG_NOTIFY: also with a reserved field that is not zero, which discards it. -/
def execSigNotify (r : HostReq) (d : Word) (m : MemView) (s : State) : Result := signalRow s r d m (r.addr.toNat % 4096 == 0x010)

/-- SIGNAL_PAGE_FORMAT_ERROR: an unlisted offset, or a reserved field that is not zero. -/
def execSignalPageFormatError (r : HostReq) (d : Word) (s : State) : Result :=
  signalRow s r d [] (decide (0x010 < r.addr.toNat % 4096) || (r.addr.toNat % 4096 == 0x010 && fld d 63 24 != 0))

/-! ## Wakes and sleep (R15 to R18) -/

/-- The page whose domain a held event needs; a signal, a token and an upstream request need the spine. -/
def heldNeeds (s : State) : Held → Nat
  | .signal _ _ _ _ => pgWSH
  | .write _ _ _ bs => beatPage bs
  | .read _ _ bs => readPage bs
  | .answer _ _ => pgHFE
  | .mgmtRead a => match mgmtPage (a / 4096) with | some p => mgmtNeeds s p (a % 4096) | none => pgMGT
  | .debugRead off _ => off / 4096
  | .token _ _ _ _ _ => pgECP
  | .upstream _ _ _ _ => pgECP

/-- A held event can take effect: its domain is awake, and a read of CI has its fetches back (R111). -/
def heldReady (s : State) (h : Held) : Bool :=
  pageAwake s (heldNeeds s h) &&
  (match h with
   | .read v _ bs => !(bs.any (blockedBeat s v))
   | .debugRead off wide => !(ciBlocked s .debug (off / 4096) (if wide then off % 4096 + 4 else off % 4096))
   | _ => true)

/-- A held event takes effect. -/
def deliver (s : State) (h : Held) (m : MemView) : State :=
  match h with
  | .signal c off d operator => signalPage s c off d operator m
  | .write v id resp bs => doWrite s v id resp bs m
  | .read v id bs => doRead s v id bs
  | .answer _ outs => emits s outs
  | .mgmtRead a => doMgmtRead s a
  | .debugRead off wide => doDebugRead s off wide
  | .token e tag st cycles stretched => tokenIn s e tag st cycles stretched
  | .upstream k e b0 b1 => upstreamIn s k e b0 b1

/-- The held events in order: each that can takes effect, unless an earlier one of its key still waits. -/
def deliverAll (m : MemView) : List Held → List Nat → State → State
  | [], _, s => s
  | h :: rest, blocked, s =>
    if blocked.contains (heldKey h) || !(heldReady s h) then
      deliverAll m rest (heldKey h :: blocked) { s with bsn := { s.bsn with held := s.bsn.held ++ [h] } }
    else deliverAll m rest blocked (deliver s h m)

/-- The held events that now can take effect. -/
def deliverHeld (s : State) (m : MemView) : State := deliverAll m s.bsn.held [] { s with bsn := { s.bsn with held := [] } }

/-- DOMAIN_WAKE: slice 0 to 7, or the spine as 8, accepts work, and the held events are delivered. A slice wakes behind the
spine, which its wake wakes too. -/
def execDomainWake (d : Fin 9) (m : MemView) (s : State) : Result :=
  let k := d.val
  let b := s.bsn
  if inReset s then .next s
  else if k = 8 then
    if !b.spineWaking then .next s
    else .next (deliverHeld { s with bsn := { b with spineAwake := true, spineWaking := false } } m)
  else if !(b.sliceWaking.getLsbD k) ∨ !b.spineAwake then .next s
  else
    let bit : BitVec 8 := BitVec.ofNat 8 (2 ^ k)
    let s1 := { s with bsn := { b with sliceAwake := b.sliceAwake ||| bit, sliceWaking := b.sliceWaking &&& ~~~bit } }
    .next (pumpSlice (deliverHeld s1 m) k)

/-- ENTRY_READ_RETURN: the entry arrives, and reads of CI that waited for it are answered (R111); the row reads no memory, so
a probe held behind such a read finds its fence word unreadable (log 31). -/
def execEntryReadReturn (qb : BitVec 18) (data : Option (List Word)) (s : State) : Result :=
  match entryReturn qb.toNat data s with
  | .next t => .next (if (s.queue qb.toNat).hold then deliverHeld t [] else t)
  | r => r

/-- R16's conditions for a slice, and that no force bit and no event keeps it awake: no queue homed on it has a fetched
entry, a pending doorbell or a waiting head, or is enabled and warm; no graph or routine runs on it; no Fan of it
streams. -/
def sliceIdle (s : State) (k : Nat) : Bool :=
  s.queues.all (fun e => e.2.home != k || e.2.st == .free ||
    (!e.2.fetched && !e.2.pend && !e.2.wait && !(e.2.warm && e.2.st == .enabled))) &&
  (s.slice k).procs.all (fun p => p.isNone) && (s.slice k).routineWait.isEmpty &&
  s.fans.all (fun e => e.1 / 4 != k || e.2.streams.isEmpty) && !(s.bsn.ctrl.getLsbD k) && !(s.bsn.sliceWaking.getLsbD k)

/-- No key slot drains (R290). -/
def keysIdle (s : State) : Bool := s.ntc.slots.all (fun e => e.2.st != .draining && e.2.destWait.isEmpty && e.2.dieWait.isEmpty)

/-- The Watershed has nothing in flight. -/
def fencesIdle (s : State) : Bool :=
  s.wsh.atomics.isEmpty && s.wsh.heldReads.isEmpty && s.wsh.lines.all (fun e => !e.2.reread) && !s.wsh.wfgRunning

/-- No context is being removed or aborted (R86, R87). -/
def ctxsIdle (s : State) : Bool :=
  s.ctxs.all (fun e => e.2.st != .teardown && e.2.st != .removing && e.2.peerAborts.isEmpty && e.2.clearTags == 0)

/-- No partition waits for acknowledgements, a migration or a swap. -/
def partsIdle (s : State) : Bool :=
  s.parts.all (fun e => e.2.binder.isNone && e.2.migrating.isNone && e.2.swap.isNone && e.2.swapLate.isNone &&
    !e.2.stageDue && e.2.unacked.isEmpty)

/-- No work of the spine (note 28 of Table 15.3): nothing in flight in its units, no held event, no bit in the hold
set. -/
def spineIdle (s : State) : Bool :=
  s.bsn.sliceAwake == 0 && s.bsn.sliceWaking == 0 && !s.bsn.spineWaking && s.bsn.held.isEmpty && !(s.bsn.ctrl.getLsbD 31) &&
  fencesIdle s && keysIdle s && ctxsIdle s && partsIdle s &&
  s.flights.isEmpty && s.queues.all (fun e => e.2.piRead == .none && !e.2.entryRead) &&
  s.zeroing.isEmpty && s.loads.isEmpty && s.blockWait.isEmpty && s.allocWait.isEmpty && s.freeWait.isEmpty &&
  s.per.hold.isEmpty && s.per.retrainHeld.isEmpty && s.per.retraining.isEmpty && s.per.abortFrom.isEmpty &&
  s.slotWait.isEmpty && s.swb.fwActive.isNone && s.swb.resetOps.isEmpty && !s.swb.spiBusy &&
  s.ntc.secQueue.isEmpty && s.ntc.running.isNone && s.chans.all (fun e => e.2.retrainBy.isNone) &&
  s.sad.all (fun e => e.2.changing.isNone) && s.fans.all (fun e => e.2.changing.isNone) &&
  s.lanes.all (fun e => e.2.recs.isEmpty && e.2.recWait.isEmpty)

/-- SLEEP_ENTRY: the hold time has passed (log 17) and the domain is idle (R16); the block is READY or
HALTED. -/
def execSleepEntry (d : Fin 9) (s : State) : Result :=
  let k := d.val
  let b := s.bsn
  if s.swb.boot ≠ .ready ∧ s.swb.boot ≠ .halted then .next s
  else if k = 8 then
    if b.spineAwake && spineIdle s then .next { s with bsn := { b with spineAwake := false } } else .next s
  else if b.sliceAwake.getLsbD k && sliceIdle s k then
    .next { s with bsn := { b with sliceAwake := b.sliceAwake &&& ~~~(BitVec.ofNat 8 (2 ^ k)) } }
  else .next s

/-! ## Notifications (R37, R38) -/

/-- NOTIFICATION_TRANSFER: the bridge takes the waiting message. -/
def execNotificationTransfer (s : State) : Result :=
  match s.ntfQueue with
  | [] => .next s
  | n :: rest => .next (count (emit { s with ntfQueue := rest } (.ntf n.addr n.ctx n.data)) pgHFE 2)

/-! ## Register-write rows -/

/-- A word whose bit i is set. -/
def hasBit (i : Nat) (w : Nat) : Bool := w.testBit i

/-- CLEAR_COUNTERS: PAGE_CTRL of any page. -/
def pageOfWrite (r : RegReq) : Nat :=
  match r with
  | .host h _ => (h.addr.toNat - 0x1000000) / 4096
  | .mgmt a _ _ => (mgmtPage (a.toNat / 4096)).getD 0x100
  | .security o _ _ => o.toNat / 4096
  | .debug o _ _ => o.toNat / 4096

def execClearCounters (r : RegReq) (s : State) : Result := writeRow s r (pageOfWrite r) 0x008 (hasBit 0) []

/-- IRQ_FORCE. -/
def execIrqForce (r : RegReq) (s : State) : Result := writeRow s r (pageOfWrite r) 0x018 (fun _ => true) []

/-- IRQ_STATUS_CLEAR. -/
def execIrqStatusClear (r : RegReq) (s : State) : Result := writeRow s r (pageOfWrite r) 0x010 (fun _ => true) []

/-- INJECT_UE and INJECT_CE. -/
def execInjectUe (r : RegReq) (s : State) : Result := writeRow s r (pageOfWrite r) 0x028 (hasBit 31) []
def execInjectCe (r : RegReq) (s : State) : Result := writeRow s r (pageOfWrite r) 0x028 (hasBit 30) []

/-- PAGE_LOCK. -/
def execPageLock (r : RegReq) (s : State) : Result := writeRow s r (pageOfWrite r) 0x030 (hasBit 0) []

/-- IRQ_TARGET_ENABLE. -/
def execIrqTargetEnable (r : RegReq) (s : State) : Result := writeRow s r pgID 0x138 (hasBit 31) []

/-- SLICE_AWAKE_FORCE: a force bit of a slice or of the spine. -/
def execSliceAwakeForce (r : RegReq) (s : State) : Result :=
  writeRow s r pgBSN 0x100 (fun w => decide (w % 256 ≠ 0) || w.testBit 31) []

/-- The STP_Q_CTRL rows. -/
def execStpQCtrlEnable (r : RegReq) (s : State) : Result := writeRow s r pgSTP 0x104 (hasBit 0) []
def execStpQCtrlDisable (r : RegReq) (s : State) : Result := writeRow s r pgSTP 0x104 (fun w => !(w.testBit 0)) []
def execStpQCtrlHoldSet (r : RegReq) (s : State) : Result := writeRow s r pgSTP 0x104 (hasBit 1) []
def execStpQCtrlHoldClear (r : RegReq) (s : State) : Result := writeRow s r pgSTP 0x104 (fun w => !(w.testBit 1)) []
def execStpQCtrlWarm (r : RegReq) (s : State) : Result := writeRow s r pgSTP 0x104 (fun _ => true) []

/-- RACK_BUDGET_WRITE. -/
def execRackBudgetWrite (r : RegReq) (s : State) : Result := writeRow s r pgVLD 0x104 (fun _ => true) []

/-- SYNC_INVAL_ENTRY and SYNC_INVAL_ALL. -/
def execSyncInvalEntry (r : RegReq) (s : State) : Result := writeRow s r pgWSH 0x100 (fun w => !(w.testBit 24)) []
def execSyncInvalAll (r : RegReq) (s : State) : Result := writeRow s r pgWSH 0x100 (hasBit 24) []

/-- WFG_START. -/
def execWfgStart (r : RegReq) (s : State) : Result := writeRow s r pgWSH 0x114 (hasBit 0) []

/-- A row of a 64-bit register: the write touches either half of it. -/
def writeRow64 (s : State) (r : RegReq) (p off : Nat) (m : MemView) : Result :=
  match writesWord r p off, writesWord r p (off + 4) with
  | none, none => .next s
  | _, _ => .next (regWrite s r m)

/-- PROBE_SELECT. -/
def execProbeSelect (r : RegReq) (m : MemView) (s : State) : Result := writeRow64 s r pgWSH 0x120 m

/-- CHANNEL_OWNER_CHANGE and FAN_OWNER_CHANGE. -/
def execChannelOwnerChange (r : RegReq) (s : State) : Result := writeRow s r pgSAD 0x104 (fun _ => true) []
def execFanOwnerChange (r : RegReq) (s : State) : Result := writeRow s r pgFAN 0x104 (fun _ => true) []

/-- PACE_BASE_WRITE. -/
def execPaceBaseWrite (r : RegReq) (s : State) : Result := writeRow64 s r pgECP 0x100 []

/-- CTX_SPAD_WRITE. -/
def execCtxSpadWrite (r : RegReq) (s : State) : Result := writeRow64 s r pgSCH 0x148 []

/-- TRACE_START and TRACE_STOP. -/
def execTraceStart (r : RegReq) (s : State) : Result := writeRow s r pgLOE 0x180 (hasBit 0) []
def execTraceStop (r : RegReq) (s : State) : Result := writeRow s r pgLOE 0x180 (hasBit 1) []

/-- SPI_STORE_GO. -/
def execSpiStoreGo (r : RegReq) (s : State) : Result := writeRow s r pgSWB 0x138 (hasBit 0) []

/-- The recovery loader's rows (R384). -/
def execRcvBegin (r : RegReq) (s : State) : Result := writeRow s r pgSWB 0x140 (hasBit 0) []
def execRcvVerify (r : RegReq) (s : State) : Result := writeRow s r pgSWB 0x140 (hasBit 1) []
def execRcvProgram (r : RegReq) (s : State) : Result := writeRow s r pgSWB 0x140 (hasBit 2) []
def execRcvBoot (r : RegReq) (s : State) : Result := writeRow s r pgSWB 0x140 (hasBit 3) []
def execRcvData (r : RegReq) (s : State) : Result := writeRow64 s r pgSWB 0x148 []

/-- AUTH_NEW, AUTH_CHECK and AUTH_CLOSE. -/
def execAuthNew (r : RegReq) (s : State) : Result := writeRow s r pgDBG 0x100 (hasBit 0) []
def execAuthCheck (r : RegReq) (s : State) : Result := writeRow s r pgDBG 0x100 (hasBit 1) []
def execAuthClose (r : RegReq) (s : State) : Result := writeRow s r pgDBG 0x100 (hasBit 2) []

/-! ## Reads that change state -/

/-- A management read: the row of R411, and any other read of the port that counts. -/
def execMgmtLatchRead (a : BitVec 16) (s : State) : Result := if inReset s then .next s else .next (mgmtRead s a.toNat)

/-- MGT_WIN_DATA: the management read of the window. -/
def execMgtWinData (s : State) : Result := if inReset s then .next s else .next (mgmtRead s 0x5104)

/-- REGISTER_ACCESS_INSTRUMENT: one access in the debug view; the next capture shows its result. The TAP's instruction is the
one that selects the network (R65), which until the view is open holds no such instrument (R414). -/
def execRegisterAccessInstrument (dr : BitVec 88) (m : MemView) (s0 : State) : Result :=
  if inReset s0 || !(debugOpen s0) then .next s0
  else
    let s := { s0 with dbg := { s0.dbg with tap := .network } }
    let off := bitsN dr.toNat 19 0
    let wide := dr.getLsbD 21
    let s1 := { s with dbg := { s.dbg with dr := BitVec.ofNat 88 (dr.toNat % 2 ^ 22) } }
    if !(natural off wide) then .next (debugAnswer s1 true 0)
    else if dr.getLsbD 20 then .next (debugWrite s1 off wide (BitVec.ofNat 64 (bitsN dr.toNat 85 22)) m)
    else .next (debugRead s1 off wide)

end Sys2Proof.Machine
end

