-- ==== Sys2Proof/Machine/Mailbox.lean ====
section
/-! DEFINITION. The SPDM mailbox page (R295, Table 11.6), the requests it carries (R293, R294, R306), the vendor-defined
commands (R296, Table 11.7), and the register write that has no row of its own. What an SPDM message is in bytes, the spec
does not say: a request row is the GO write with the request's meaning as operands (log 7, log 34). -/

namespace Sys2Proof.Machine

/-! ## Mailbox writes -/

/-- The strobed bytes of a write to the mailbox page, by offset. -/
def mbxBytes (h : HostReq) (d : Word) : List (Nat × Byte) :=
  (hostBeats h d).flatMap (fun b =>
    ((List.range h.size).filter (fun i => b.2.2.getLsbD i)).map
      (fun i => (b.1 - 0x1101000 + i, BitVec.ofNat 8 (b.2.1.toNat / 2 ^ (8 * i)))))

/-- The byte a write carries for an offset. -/
def mbxByte (bs : List (Nat × Byte)) (o : Nat) : Option Byte := (bs.find? (fun b => b.1 == o)).map (·.2)

/-- Who the requester of an access is: its class and context. -/
def mbxWho (h : HostReq) : Bool × Nat := (h.cls.toNat == 1, h.ctx.toNat)

/-- A write that its requester may make: only the owner writes 0x004 to 0xFFF, but for MBX_CTRL while nobody holds the
mailbox (log 34). -/
def mbxMay (x : Mailbox) (who : Bool × Nat) (bs : List (Nat × Byte)) : Bool :=
  match x.owner with
  | some o => o == who || bs.all (fun b => decide (b.1 < 4))
  | none => bs.all (fun b => decide (b.1 < 8))

/-- CLAIM, and the owner's data and length; the owner's access is its latest. -/
def mbxStore (x : Mailbox) (now : Nat) (who : Bool × Nat) (bs : List (Nat × Byte)) : Mailbox :=
  let claim := (mbxByte bs 4).any (fun b => b.getLsbD 0)
  let y := if claim && x.owner.isNone then { x with owner := some who } else x
  if y.owner ≠ some who then y
  else
    let lo := ((mbxByte bs 0x00C).map (·.toNat)).getD (y.reqLen % 256)
    let hi := ((mbxByte bs 0x00D).map (fun b => b.toNat % 16)).getD (y.reqLen / 256)
    { y with lastAccess := now, reqLen := hi * 256 + lo,
             data := (bs.filter (fun b => decide (0x800 ≤ b.1))).foldl (fun d b => Memory.write d (b.1 - 0x800) b.2) y.data }

/-- A GO by the owner while the mailbox is not BUSY. -/
def mbxGoes (x : Mailbox) (who : Bool × Nat) (bs : List (Nat × Byte)) : Bool :=
  (mbxByte bs 4).any (fun b => b.getLsbD 1) && x.owner == some who && !x.busy

/-- RELEASE by the owner. -/
def mbxReleased (x : Mailbox) (who : Bool × Nat) (bs : List (Nat × Byte)) : Mailbox :=
  if (mbxByte bs 4).any (fun b => b.getLsbD 2) && x.owner == some who then { x with owner := none } else x

def State.setMbx (s : State) (x : Mailbox) : State := { s with ntc := { s.ntc with mbx := x } }

/-- A write to the mailbox page; `go` is what its GO starts, if it starts the request (R295). The order within one write
of MBX_CTRL is CLAIM, GO, RELEASE. -/
def mbxWrite (s0 : State) (h : HostReq) (d : Word) (go : Option (State → State)) : State :=
  let who := mbxWho h
  let bs := mbxBytes h d
  if inRecovery s0 then hostRefuse s0 h true 2 true
  else
    let s := wakeSpine (count s0 pgHFE 5)
    if !(mbxMay s.ntc.mbx who bs) then hostAnswer s h.id 2
    else
      let x := mbxStore s.ntc.mbx s.now who bs
      let s1 := hostAnswer (s.setMbx x) h.id 0
      let s2 : State := match go with
        | some f => if mbxGoes x who bs then f (s1.setMbx { x with busy := true, rspReady := false, error := false }) else s1
        | none => s1
      s2.setMbx (mbxReleased s2.ntc.mbx who bs)

/-! ## Mailbox reads -/

/-- The word at a 4-aligned offset of the mailbox page as a requester reads it (Table 11.6). -/
def mbxWord (x : Mailbox) (who : Bool × Nat) (off : Nat) : Nat :=
  if off = 0x000 then
    match x.owner with
    | some o => 2 ^ 15 + b2n o.1 * 2 ^ 14 + o.2
    | none => 0
  else if off = 0x008 then b2n x.error * 4 + b2n x.rspReady * 2 + b2n x.busy
  else if off = 0x00C then x.rspLen * 2 ^ 16 + x.reqLen
  else if 0x800 ≤ off ∧ x.owner = some who then leNat (Memory.readBytes x.data (off - 0x800) 4)
  else 0

/-- The data of one beat of a mailbox read. -/
def mbxBeat (x : Mailbox) (who : Bool × Nat) (size a : Nat) : Word :=
  let o := a - 0x1101000
  if size = 8 then BitVec.ofNat 64 (mbxWord x who o + mbxWord x who (o + 4) * 2 ^ 32)
  else BitVec.ofNat 64 (mbxWord x who o)

/-- A read of the mailbox page; the owner's is its latest access (R295). -/
def mbxRead (s0 : State) (h : HostReq) : State :=
  let who := mbxWho h
  if inRecovery s0 then hostRefuse s0 h false 2 true
  else
    let s := wakeSpine (count s0 pgHFE 5)
    let x := s.ntc.mbx
    let s1 := if x.owner = some who then s.setMbx { x with lastAccess := s.now } else s
    hostReply s1 h.id ((hostBeats h 0).zipIdx.map (fun b =>
      .hostData h.id 0 (mbxBeat x who h.size b.1.1) (b.2 + 1 == h.beats)))

/-- A host read that R33 and R34 accept. -/
def hostRead (s : State) (h : HostReq) : State :=
  match hostRegion h.addr.toNat with
  | .doorbell => hostReply s h.id (blankOuts h 0)
  | .register => hostRegRead s h
  | .signal => if inRecovery s then hostRefuse s h false 2 true else hostReply s h.id (blankOuts h 0)
  | .mailbox => mbxRead s h
  | .unmapped => s

/-- REFUSED_REGISTER_READ: a read that its view may not make, and any other host read, since the table has no row for those
(log 31). A management read that is not refused has its own row. -/
def execRefusedRegisterRead (r : RegReq) (s : State) : Result :=
  if inReset s then .next s
  else match r with
  | .host h _ =>
    (match hostFault h false with
     | some (resp, pr) => .next (hostRefuse s h false resp pr)
     | none => .next (hostRead s h))
  | .mgmt a _ _ =>
    if a.toNat % 4 ≠ 0 ∨ (mgmtPage (a.toNat / 4096)).isNone then .next (mgmtRead s a.toNat) else .next s
  | .security _ _ _ => .next s
  | .debug off wide _ =>
    if !(natural off.toNat wide) || refusedDebug s off.toNat then .next (debugAnswer s true 0) else .next s

/-! ## The rows of the mailbox -/

/-- A row made by a host write to the mailbox page. -/
def mbxRow (s : State) (r : RegReq) (go : Option (State → State)) : Result :=
  match r with
  | .host h d =>
    if hostRegion h.addr.toNat = .mailbox then .next (judged s h (fun s => mbxWrite s h d go)) else .next s
  | .mgmt _ _ _ => .next s
  | .security _ _ _ => .next s
  | .debug _ _ _ => .next s

/-- A request's row: its GO starts f. -/
def goRow (s : State) (r : RegReq) (f : State → State) : Result := mbxRow s r (some f)

/-- REGISTER_WRITE: the register window, or the mailbox page apart from GO. -/
def execRegisterWrite (r : RegReq) (m : MemView) (s : State) : Result :=
  match r with
  | .host h _ => if hostRegion h.addr.toNat = .mailbox then mbxRow s r none else .next (regWrite s r m)
  | .mgmt _ _ _ => .next (regWrite s r m)
  | .security _ _ _ => .next (regWrite s r m)
  | .debug _ _ _ => .next (regWrite s r m)

/-- MBX_CLAIM and MBX_RELEASE: writes of MBX_CTRL. -/
def execMbxClaim (r : RegReq) (s : State) : Result := mbxRow s r none
def execMbxRelease (r : RegReq) (s : State) : Result := mbxRow s r none

/-- MAILBOX_CLAIM_EXPIRY: 10 ms after the owner's last access (log 17). -/
def execMailboxClaimExpiry (s : State) : Result := .next (s.setMbx { s.ntc.mbx with owner := none })

/-- MAILBOX_REQUEST_NOT_PARSED: ERROR, NTC ERR_STATUS bit 3 with the owner's context, no response. -/
def execMailboxRequestNotParsed (r : RegReq) (s : State) : Result :=
  goRow s r (fun s =>
    let x := s.ntc.mbx
    let c := match x.owner with | some o => o.2 | none => 0
    setErr (s.setMbx { x with busy := false, error := true }) pgNTC 3 c)

/-! ## Sessions (R294) -/

def State.setSessions (s : State) (xs : List Session) : State := { s with ntc := { s.ntc with sessions := xs } }

/-- An open session, and an established one. -/
def openSession (s : State) (sid : Nat) : Option Session := s.ntc.sessions.find? (fun x => x.sid == sid)
def established (s : State) (sid : Nat) : Bool := s.ntc.sessions.any (fun x => x.sid == sid && x.established)

/-- Change a session. -/
def modSession (s : State) (sid : Nat) (f : Session → Session) : State :=
  s.setSessions (s.ntc.sessions.map (fun x => if x.sid = sid then f x else x))

/-- End a session. -/
def endOf (s : State) (sid : Nat) : State := s.setSessions (s.ntc.sessions.filter (fun x => x.sid != sid))

/-- A request outside a session, or in one that is established. -/
def sessionOk (s : State) (x : SessionRef) : Bool :=
  match x with
  | none => true
  | some sid => established s sid.toNat

/-- A request with an effect in an established session; of another it is refused. -/
def inSession (s : State) (sid : Nat) (f : State → State) : State :=
  if established s sid then mbxAnswer (f s) .ack else mbxAnswer s .refused

/-- The size of a message and of a chunk, and the largest message, in bytes; the heartbeat period in seconds (R293,
Table 11.5). -/
def spdmChunk : Nat := 2048
def spdmMax : Nat := 1048576
def spdmBeat : Nat := 10

/-- The signature of a response under the attestation key: its kind, and what it carries (R306). -/
def spdmSign (s : State) (code : Nat) (content : List Byte) : List Byte := attestSign s (Config.spdmSigned code content)

/-! ## Requests (Table 11.5) -/

/-- GET_VERSION: the Notch speaks SPDM 1.3. -/
def execGetVersion (r : RegReq) (s : State) : Result := goRow s r (fun s => mbxAnswer s (.version 0x13))

/-- GET_CAPABILITIES: the sizes of R293. -/
def execGetCapabilities (r : RegReq) (s : State) : Result :=
  goRow s r (fun s => mbxAnswer s (.capabilities spdmChunk spdmMax))

/-- NEGOTIATE_ALGORITHMS: those of Table 11.5. -/
def execNegotiateAlgorithms (r : RegReq) (s : State) : Result :=
  goRow s r (fun s => mbxAnswer s (.algorithms [.ecdsaP384, .sha384, .secp384r1, .aes256Gcm]))

/-- CHALLENGE: the digest of the slot 0 chain, signed. -/
def execChallenge (r : RegReq) (s : State) : Result :=
  goRow s r (fun s =>
    let d := sha384 (certChain s)
    mbxAnswer s (.challengeAuth d (spdmSign s 1 d)))

/-- A request outside Table 11.5: ERROR, code UnsupportedRequest. -/
def execUnsupportedRequest (r : RegReq) (code : Byte) (s : State) : Result :=
  goRow s r (fun s => mbxAnswer s (.unsupported code.toNat))

/-- GET_DIGESTS: the digest of the slot 0 chain. -/
def execGetDigests (r : RegReq) (x : SessionRef) (s : State) : Result :=
  goRow s r (fun s => mbxAnswer s (if sessionOk s x then .digests (sha384 (certChain s)) else .refused))

/-- GET_CERTIFICATE: the slot 0 chain (R305). -/
def execGetCertificate (r : RegReq) (x : SessionRef) (s : State) : Result :=
  goRow s r (fun s => mbxAnswer s (if sessionOk s x then .certificate (certChain s) else .refused))

/-- A measurement block (Table 11.14). -/
def measurement (s : State) (i : Nat) (nonce : List Byte) : List Byte :=
  if i = 1 then blockUid s ++ leBytes 4 idVersion.toNat
  else if i = 2 then fuseDigest s ++ leBytes 2 (reportFlags s)
  else if 3 ≤ i ∧ i ≤ 10 then padBytes 48 (s.slice (i - 3)).fwDigest
  else if i = 11 then padBytes 48 (s.slice 0).libDigest
  else if i = 0xFD then report s nonce
  else []

/-- GET_MEASUREMENTS (R306), signed with the attestation key; a Taderos report counts as one. -/
def execGetMeasurements (r : RegReq) (x : SessionRef) (i : Byte) (nonce : List Byte) (s : State) : Result :=
  if nonce.length ≠ 32 then .fault .portWidth
  else goRow s r (fun s =>
    if !(sessionOk s x) then mbxAnswer s .refused
    else
      let t := if i = 0xFD then count s pgNTC 5 else s
      let b := measurement s i.toNat nonce
      mbxAnswer t (.measurements b (spdmSign s 2 b)))

/-- What mutual authentication asks of the requester (R294). -/
def mutualAuth : List EncapReq := [.getDigests, .getCertificate]

/-- KEY_EXCHANGE: a session opens, of 16 at once, and the Notch asks for mutual authentication through the encapsulated flow
(R294). -/
def execKeyExchange (r : RegReq) (sid : BitVec 16) (s : State) : Result :=
  goRow s r (fun s =>
    if s.ntc.sessions.length < 16 ∧ (openSession s sid.toNat).isNone then
      mbxAnswer (s.setSessions (s.ntc.sessions ++
        [{ sid := sid.toNat, requester := none, established := false, lastBeat := s.now, encap := mutualAuth, keys := 0 }]))
        (.keyExchange spdmBeat mutualAuth (spdmSign s 3 []))
    else mbxAnswer s .refused)

/-- FINISH: the session is established; a requester that has answered the encapsulated requests completes mutual
authentication, and its leaf public key gives REQUESTER_ID. -/
def execFinish (r : RegReq) (sid : BitVec 16) (key : Option (List Byte)) (s : State) : Result :=
  goRow s r (fun s =>
    match openSession s sid.toNat with
    | some x =>
      if x.established then mbxAnswer s .refused
      else mbxAnswer (count (modSession s sid.toNat (fun x =>
        { x with established := true, requester := key.map sha384, lastBeat := s.now, encap := [] })) pgNTC 6) .ack
    | none => mbxAnswer s .refused)

/-- HEARTBEAT, KEY_UPDATE and END_SESSION. -/
def execHeartbeat (r : RegReq) (sid : BitVec 16) (s : State) : Result :=
  goRow s r (fun s => inSession s sid.toNat (fun s => modSession s sid.toNat (fun x => { x with lastBeat := s.now })))
def execKeyUpdate (r : RegReq) (sid : BitVec 16) (s : State) : Result :=
  goRow s r (fun s => inSession s sid.toNat (fun s => modSession s sid.toNat (fun x => { x with keys := x.keys + 1 })))
def execEndSession (r : RegReq) (sid : BitVec 16) (s : State) : Result :=
  goRow s r (fun s => inSession s sid.toNat (fun s => endOf s sid.toNat))

/-- SESSION_TIMEOUT: three missed heartbeat periods (log 17). -/
def execSessionTimeout (sid : BitVec 16) (s : State) : Result := .next (endOf s sid.toNat)

/-- CHUNK_SEND: a chunk of at most 2,048 bytes of a request of at most 1 MiB; the last one ends it. -/
def execChunkSend (r : RegReq) (x : SessionRef) (chunk : List Byte) (last : Bool) (s : State) : Result :=
  goRow s r (fun s =>
    let y := s.ntc.mbx
    if !(sessionOk s x) ∨ spdmChunk < chunk.length ∨ spdmMax < y.chunks.length + chunk.length then mbxAnswer s .refused
    else mbxAnswer (s.setMbx { y with chunks := if last then [] else y.chunks ++ chunk }) .chunkSendAck)

/-- CHUNK_GET: a chunk of the latest large response, which it leaves in place. -/
def execChunkGet (r : RegReq) (x : SessionRef) (index : Nat) (s : State) : Result :=
  goRow s r (fun s =>
    let l := s.ntc.mbx.large
    if !(sessionOk s x) ∨ l.length ≤ spdmChunk * index then mbxAnswer s .refused
    else mbxAnswer s (.chunk index (cut l (spdmChunk * index) spdmChunk) (decide (l.length ≤ spdmChunk * (index + 1)))))

/-! ## Vendor-defined commands (R296, Table 11.7) -/

/-- A command answered without an entry. -/
def vendorAnswer (s : State) (st : Status) : State := mbxAnswer s (.vendor (leBytes 2 st.toNat))

/-- An owner session of a partition (R294). -/
def ownerSession (s : State) (sid p : Nat) : Bool := isSealed s p && requesterOf s sid == (s.part p).sealed

/-- A vendor command: from an established session, with a body of its length; else the answer carries no status of a
command (log 34). -/
def vendorRow (s : State) (r : RegReq) (sid : BitVec 16) (body : List Byte) (n : Nat) (f : State → Nat → State) : Result :=
  goRow s r (fun s => if established s sid.toNat ∧ body.length = n then f s sid.toNat else mbxAnswer s .refused)

/-- A packet header (Table 5.1). -/
def headerWord (op len : Nat) : Word := BitVec.ofNat 64 (op + len * 256)

/-- The lowest FREE key slot from 0x002. -/
def freeKeySlot (s : State) : Option Nat := (List.range 4094).map (· + 2) |>.find? (fun k => (s.slot k).st == .free)

/-- KEY_INSTALL. -/
def execVendorKeyInstall (r : RegReq) (sid : BitVec 16) (body : List Byte) (s : State) : Result :=
  vendorRow s r sid body 228 (fun s sd =>
    let p := leNat (cut body 0 1)
    let c := leNat (cut body 2 2) % 16384
    if !(ownerSession s sd p) then vendorAnswer s ST_KEY_BINDING
    else match freeKeySlot s with
      | none => vendorAnswer s ST_KEY_SLOT
      | some k => secPublish s { words := [headerWord 0xC0 4, BitVec.ofNat 64 (k + c * 2 ^ 16),
                                           BitVec.ofNat 64 (secBuf (secIndex s)), 224],
                                 blob := cut body 4 224, sid := sd, partition := p })

/-- KEY_REVOKE: a FREE slot belongs to no partition, and its entry completes with ST_KEY_SLOT (R284, R288, log 34). -/
def execVendorKeyRevoke (r : RegReq) (sid : BitVec 16) (body : List Byte) (s : State) : Result :=
  vendorRow s r sid body 2 (fun s sd =>
    let k := leNat body % 4096
    let x := s.slot k
    if 2 ≤ k ∧ x.st ≠ .free ∧ !(ownerSession s sd x.part) then vendorAnswer s ST_KEY_BINDING
    else secPublish s { words := [headerWord 0xC1 2, BitVec.ofNat 64 k], blob := [], sid := sd, partition := x.part })

/-- SEAL: any session with a REQUESTER_ID. -/
def execVendorSeal (r : RegReq) (sid : BitVec 16) (body : List Byte) (s : State) : Result :=
  vendorRow s r sid body 1 (fun s sd =>
    let p := leNat body
    if (requesterOf s sd).isNone then vendorAnswer s ST_KEY_BINDING
    else secPublish s { words := [headerWord 0xC2 2, BitVec.ofNat 64 p], blob := [], sid := sd, partition := p })

/-- REPORT. -/
def execVendorReport (r : RegReq) (sid : BitVec 16) (body : List Byte) (s : State) : Result :=
  vendorRow s r sid body 32 (fun s sd =>
    secPublish s { words := [headerWord 0xC3 7, BitVec.ofNat 64 secReportAt, BitVec.ofNat 64 secReportBytes] ++
                            (List.range 4).map (fun i => BitVec.ofNat 64 (leNat (cut body (8 * i) 8))),
                   blob := [], sid := sd, partition := 255 })

/-- LOG_READ: no entry; the answer carries COUNT log entries from FIRST. -/
def execLogRead (r : RegReq) (sid : BitVec 16) (body : List Byte) (s : State) : Result :=
  vendorRow s r sid body 10 (fun s _ =>
    let x := s.part (leNat (cut body 0 1))
    let n := leNat (cut body 8 2)
    if n = 0 ∨ 16 < n ∨ leNat (cut body 1 3) ≠ 0 then mbxAnswer s .refused
    else mbxAnswer s (.vendor (leBytes 2 ST_OK.toNat ++ ((x.log.drop (leNat (cut body 4 4))).take n).flatten)))

end Sys2Proof.Machine
end

