-- ==== Sys2Proof/Machine/Dispatch.lean ====
section
/-! DEFINITION. One arm for each constructor of Instr: a direct call of its meaning. -/

namespace Sys2Proof.Machine

/-- The effect of a command on everything but the queue. -/
def exec (i : Instr) (s : State) : Host.Outcome State Fault Refusal :=
  match i with
  | .doorbellWrite r => Sys2Proof.Machine.execDoorbellWrite r s
  | .sigSet r data m => Sys2Proof.Machine.execSigSet r data m s
  | .sigAdd r data m => Sys2Proof.Machine.execSigAdd r data m s
  | .sigNotify r data m => Sys2Proof.Machine.execSigNotify r data m s
  | .registerWrite r m => Sys2Proof.Machine.execRegisterWrite r m s
  | .notificationTransfer => Sys2Proof.Machine.execNotificationTransfer s
  | .powerOnReset => Sys2Proof.Machine.execPowerOnReset s
  | .powerOnResetRelease => Sys2Proof.Machine.execPowerOnResetRelease s
  | .blockReset => Sys2Proof.Machine.execBlockReset s
  | .blockResetRelease => Sys2Proof.Machine.execBlockResetRelease s
  | .domainWake d m => Sys2Proof.Machine.execDomainWake d m s
  | .sleepEntry d => Sys2Proof.Machine.execSleepEntry d s
  | .pollDue q => Sys2Proof.Machine.execPollDue q s
  | .piReadReturn q data => Sys2Proof.Machine.execPiReadReturn q data s
  | .entryReadReturn q data => Sys2Proof.Machine.execEntryReadReturn q data s
  | .fragmentReadReturn q data => Sys2Proof.Machine.execFragmentReadReturn q data s
  | .fragmentBufferGrant slice => Sys2Proof.Machine.execFragmentBufferGrant slice s
  | .constImageGrant slice => Sys2Proof.Machine.execConstImageGrant slice s
  | .jobCompletion q m => Sys2Proof.Machine.execJobCompletion q m s
  | .fenceAtomicComplete n old m => Sys2Proof.Machine.execFenceAtomicComplete n old m s
  | .completionRecordComplete q ok => Sys2Proof.Machine.execCompletionRecordComplete q ok s
  | .ciWriteComplete q ok => Sys2Proof.Machine.execCiWriteComplete q ok s
  | .pcrdGrant q w => Sys2Proof.Machine.execPcrdGrant q w s
  | .nop q => Sys2Proof.Machine.execNop q s
  | .launch q m => Sys2Proof.Machine.execLaunch q m s
  | .launchIndirect q m => Sys2Proof.Machine.execLaunchIndirect q m s
  | .copy q => Sys2Proof.Machine.execCopy q s
  | .fill q => Sys2Proof.Machine.execFill q s
  | .setConst q m => Sys2Proof.Machine.execSetConst q m s
  | .loadImem q m => Sys2Proof.Machine.execLoadImem q m s
  | .imemLoadIssue m => Sys2Proof.Machine.execImemLoadIssue m s
  | .fanStream q m => Sys2Proof.Machine.execFanStream q m s
  | .fanStreamEmit f m => Sys2Proof.Machine.execFanStreamEmit f m s
  | .fanStreamComplete f => Sys2Proof.Machine.execFanStreamComplete f s
  | .waitFence q m => Sys2Proof.Machine.execWaitFence q m s
  | .signalFence q m => Sys2Proof.Machine.execSignalFence q m s
  | .waitCount q m => Sys2Proof.Machine.execWaitCount q m s
  | .credit q m => Sys2Proof.Machine.execCredit q m s
  | .barrierArm q => Sys2Proof.Machine.execBarrierArm q s
  | .fenceRecheckReturn q die value => Sys2Proof.Machine.execFenceRecheckReturn q die value s
  | .lineRereadReturn line data => Sys2Proof.Machine.execLineRereadReturn line data s
  | .consumeAddReturn n old => Sys2Proof.Machine.execConsumeAddReturn n old s
  | .unlinkedReread q die => Sys2Proof.Machine.execUnlinkedReread q die s
  | .remoteWatchRetry q => Sys2Proof.Machine.execRemoteWatchRetry q s
  | .ifPkt q m => Sys2Proof.Machine.execIfPkt q m s
  | .elsePkt q => Sys2Proof.Machine.execElsePkt q s
  | .endif q => Sys2Proof.Machine.execEndif q s
  | .loop q m => Sys2Proof.Machine.execLoop q m s
  | .endloop q => Sys2Proof.Machine.execEndloop q s
  | .callBuffer q m => Sys2Proof.Machine.execCallBuffer q m s
  | .returnPkt q => Sys2Proof.Machine.execReturnPkt q s
  | .callRoutine q m fw => Sys2Proof.Machine.execCallRoutine q m fw s
  | .graphRun q m fw => Sys2Proof.Machine.execGraphRun q m fw s
  | .graphPatch q m => Sys2Proof.Machine.execGraphPatch q m s
  | .deadline q => Sys2Proof.Machine.execDeadline q s
  | .fallback q => Sys2Proof.Machine.execFallback q s
  | .fallbackSwitch q => Sys2Proof.Machine.execFallbackSwitch q s
  | .tag q => Sys2Proof.Machine.execTag q s
  | .phaseHint q => Sys2Proof.Machine.execPhaseHint q s
  | .hintExpiry p => Sys2Proof.Machine.execHintExpiry p s
  | .timestamp q => Sys2Proof.Machine.execTimestamp q s
  | .watch q => Sys2Proof.Machine.execWatch q s
  | .alloc q => Sys2Proof.Machine.execAlloc q s
  | .allocResume => Sys2Proof.Machine.execAllocResume s
  | .free q => Sys2Proof.Machine.execFree q s
  | .query q => Sys2Proof.Machine.execQuery q s
  | .contextCreate q => Sys2Proof.Machine.execContextCreate q s
  | .contextDestroy q => Sys2Proof.Machine.execContextDestroy q s
  | .teardownComplete c => Sys2Proof.Machine.execTeardownComplete c s
  | .contextRemovalComplete c => Sys2Proof.Machine.execContextRemovalComplete c s
  | .queueCreate q ciWriteOk => Sys2Proof.Machine.execQueueCreate q ciWriteOk s
  | .queueRelease q => Sys2Proof.Machine.execQueueRelease q s
  | .stpQCtrlEnable r => Sys2Proof.Machine.execStpQCtrlEnable r s
  | .stpQCtrlDisable r => Sys2Proof.Machine.execStpQCtrlDisable r s
  | .stpQCtrlHoldSet r => Sys2Proof.Machine.execStpQCtrlHoldSet r s
  | .stpQCtrlHoldClear r => Sys2Proof.Machine.execStpQCtrlHoldClear r s
  | .stpQCtrlWarm r => Sys2Proof.Machine.execStpQCtrlWarm r s
  | .bind q m => Sys2Proof.Machine.execBind q m s
  | .unbind q m => Sys2Proof.Machine.execUnbind q m s
  | .channelMigration p c => Sys2Proof.Machine.execChannelMigration p c s
  | .epochSwap q => Sys2Proof.Machine.execEpochSwap q s
  | .epochSwapTakeEffect p => Sys2Proof.Machine.execEpochSwapTakeEffect p s
  | .swapDeferral p => Sys2Proof.Machine.execSwapDeferral p s
  | .tableWriteTimeout ep => Sys2Proof.Machine.execTableWriteTimeout ep s
  | .setShares q => Sys2Proof.Machine.execSetShares q s
  | .sliceEnd p => Sys2Proof.Machine.execSliceEnd p s
  | .regulatorSet q => Sys2Proof.Machine.execRegulatorSet q s
  | .creditInterval active => Sys2Proof.Machine.execCreditInterval active s
  | .levelReport chan kind value => Sys2Proof.Machine.execLevelReport chan kind value s
  | .channelReportStale chan => Sys2Proof.Machine.execChannelReportStale chan s
  | .selftest q r => Sys2Proof.Machine.execSelftest q r s
  | .boundaryKnownAnswerRun k unit r => Sys2Proof.Machine.execBoundaryKnownAnswerRun k unit r s
  | .unitReset q => Sys2Proof.Machine.execUnitReset q s
  | .abortAbsorb ep => Sys2Proof.Machine.execAbortAbsorb ep s
  | .retrain q => Sys2Proof.Machine.execRetrain q s
  | .fwActivate q image => Sys2Proof.Machine.execFwActivate q image s
  | .fwSliceActivate part => Sys2Proof.Machine.execFwSliceActivate part s
  | .keyInstall q => Sys2Proof.Machine.execKeyInstall q s
  | .keyRevoke q => Sys2Proof.Machine.execKeyRevoke q s
  | .sealPartition q => Sys2Proof.Machine.execSealPartition q s
  | .measureReport q => Sys2Proof.Machine.execMeasureReport q s
  | .scaleUpdate q m => Sys2Proof.Machine.execScaleUpdate q m s
  | .amaxReduce q m => Sys2Proof.Machine.execAmaxReduce q m s
  | .topkRoute q m => Sys2Proof.Machine.execTopkRoute q m s
  | .prefixSum q m => Sys2Proof.Machine.execPrefixSum q m s
  | .histogram q m => Sys2Proof.Machine.execHistogram q m s
  | .sortSmall q m => Sys2Proof.Machine.execSortSmall q m s
  | .shapeEval q m => Sys2Proof.Machine.execShapeEval q m s
  | .lossScaleCheck q m => Sys2Proof.Machine.execLossScaleCheck q m s
  | .specAccept q m => Sys2Proof.Machine.execSpecAccept q m s
  | .routineAlloc q => Sys2Proof.Machine.execRoutineAlloc q s
  | .routineFree q => Sys2Proof.Machine.execRoutineFree q s
  | .copySmall q m => Sys2Proof.Machine.execCopySmall q m s
  | .hashMeasure q m => Sys2Proof.Machine.execHashMeasure q m s
  | .watchDump q m => Sys2Proof.Machine.execWatchDump q m s
  | .slotGrant ep => Sys2Proof.Machine.execSlotGrant ep s
  | .launchRecordGrant lane => Sys2Proof.Machine.execLaunchRecordGrant lane s
  | .engineToken ep tag status cycles stretched => Sys2Proof.Machine.execEngineToken ep tag status cycles stretched s
  | .upstreamAlloc ep beat0 beat1 => Sys2Proof.Machine.execUpstreamAlloc ep beat0 beat1 s
  | .upstreamFree ep beat0 => Sys2Proof.Machine.execUpstreamFree ep beat0 s
  | .engineEvent ep data => Sys2Proof.Machine.execEngineEvent ep data s
  | .syncSignal ep id value m => Sys2Proof.Machine.execSyncSignal ep id value m s
  | .syncAdd ep id value m => Sys2Proof.Machine.execSyncAdd ep id value m s
  | .keyDrainAck src id => Sys2Proof.Machine.execKeyDrainAck src id s
  | .barrierReleaseRaise c => Sys2Proof.Machine.execBarrierReleaseRaise c s
  | .barrierReleaseLower c => Sys2Proof.Machine.execBarrierReleaseLower c s
  | .activityBeat grp data => Sys2Proof.Machine.execActivityBeat grp data s
  | .measurement mw => Sys2Proof.Machine.execMeasurement mw s
  | .activityWindow => Sys2Proof.Machine.execActivityWindow s
  | .frequencyDone hub => Sys2Proof.Machine.execFrequencyDone hub s
  | .railAck rail => Sys2Proof.Machine.execRailAck rail s
  | .alert => Sys2Proof.Machine.execAlert s
  | .alertRelease => Sys2Proof.Machine.execAlertRelease s
  | .rackBudgetWrite r => Sys2Proof.Machine.execRackBudgetWrite r s
  | .rackBudgetStale => Sys2Proof.Machine.execRackBudgetStale s
  | .freqProposeResend p => Sys2Proof.Machine.execFreqProposeResend p s
  | .fenceSignal die beat => Sys2Proof.Machine.execFenceSignal die beat s
  | .fenceWatch die beat => Sys2Proof.Machine.execFenceWatch die beat s
  | .fenceUnwatch die beat => Sys2Proof.Machine.execFenceUnwatch die beat s
  | .fenceWake die beat => Sys2Proof.Machine.execFenceWake die beat s
  | .fenceFault die beat => Sys2Proof.Machine.execFenceFault die beat s
  | .contextAbort die beat => Sys2Proof.Machine.execContextAbort die beat s
  | .abortDone die beat => Sys2Proof.Machine.execAbortDone die beat s
  | .freqPropose die beat => Sys2Proof.Machine.execFreqPropose die beat s
  | .freqSet die beat => Sys2Proof.Machine.execFreqSet die beat s
  | .keyDrain die beat => Sys2Proof.Machine.execKeyDrain die beat s
  | .keyDrained src beat => Sys2Proof.Machine.execKeyDrained src beat s
  | .drainAckTimeout slot dest => Sys2Proof.Machine.execDrainAckTimeout slot dest s
  | .remoteDrainTimeout slot => Sys2Proof.Machine.execRemoteDrainTimeout slot s
  | .keySlotRelease slot => Sys2Proof.Machine.execKeySlotRelease slot s
  | .twinState die beat => Sys2Proof.Machine.execTwinState die beat s
  | .twinStateResend => Sys2Proof.Machine.execTwinStateResend s
  | .doorbellFwd die beat => Sys2Proof.Machine.execDoorbellFwd die beat s
  | .handback die beat => Sys2Proof.Machine.execHandback die beat s
  | .handbackEnd die beat => Sys2Proof.Machine.execHandbackEnd die beat s
  | .heartbeatSeen => Sys2Proof.Machine.execHeartbeatSeen s
  | .heartbeatLost => Sys2Proof.Machine.execHeartbeatLost s
  | .watchdogCheck m => Sys2Proof.Machine.execWatchdogCheck m s
  | .patrolScrub page array word item e => Sys2Proof.Machine.execPatrolScrub page array word item e s
  | .clearCounters r => Sys2Proof.Machine.execClearCounters r s
  | .irqForce r => Sys2Proof.Machine.execIrqForce r s
  | .irqStatusClear r => Sys2Proof.Machine.execIrqStatusClear r s
  | .injectUe r => Sys2Proof.Machine.execInjectUe r s
  | .injectCe r => Sys2Proof.Machine.execInjectCe r s
  | .pageLock r => Sys2Proof.Machine.execPageLock r s
  | .irqTargetEnable r => Sys2Proof.Machine.execIrqTargetEnable r s
  | .sliceAwakeForce r => Sys2Proof.Machine.execSliceAwakeForce r s
  | .syncInvalEntry r => Sys2Proof.Machine.execSyncInvalEntry r s
  | .syncInvalAll r => Sys2Proof.Machine.execSyncInvalAll r s
  | .wfgStart r => Sys2Proof.Machine.execWfgStart r s
  | .wfgDone => Sys2Proof.Machine.execWfgDone s
  | .probeSelect r m => Sys2Proof.Machine.execProbeSelect r m s
  | .channelOwnerChange r => Sys2Proof.Machine.execChannelOwnerChange r s
  | .fanOwnerChange r => Sys2Proof.Machine.execFanOwnerChange r s
  | .paceBaseWrite r => Sys2Proof.Machine.execPaceBaseWrite r s
  | .pacingWindowWrite c line => Sys2Proof.Machine.execPacingWindowWrite c line s
  | .ctxSpadWrite r => Sys2Proof.Machine.execCtxSpadWrite r s
  | .traceStart r => Sys2Proof.Machine.execTraceStart r s
  | .traceStop r => Sys2Proof.Machine.execTraceStop r s
  | .spiStoreGo r => Sys2Proof.Machine.execSpiStoreGo r s
  | .spiStoreDone ok m => Sys2Proof.Machine.execSpiStoreDone ok m s
  | .rcvBegin r => Sys2Proof.Machine.execRcvBegin r s
  | .rcvData r => Sys2Proof.Machine.execRcvData r s
  | .rcvVerify r => Sys2Proof.Machine.execRcvVerify r s
  | .rcvProgram r => Sys2Proof.Machine.execRcvProgram r s
  | .rcvBoot r => Sys2Proof.Machine.execRcvBoot r s
  | .stage0 fuses => Sys2Proof.Machine.execStage0 fuses s
  | .stage1 sfdp flash => Sys2Proof.Machine.execStage1 sfdp flash s
  | .stage2 sramOk => Sys2Proof.Machine.execStage2 sramOk s
  | .stage3 sramOk => Sys2Proof.Machine.execStage3 sramOk s
  | .stage4 found => Sys2Proof.Machine.execStage4 found s
  | .stage5 chans links => Sys2Proof.Machine.execStage5 chans links s
  | .stage6 runs gain karPresent => Sys2Proof.Machine.execStage6 runs gain karPresent s
  | .stage7 => Sys2Proof.Machine.execStage7 s
  | .mbxClaim r => Sys2Proof.Machine.execMbxClaim r s
  | .mbxRelease r => Sys2Proof.Machine.execMbxRelease r s
  | .mailboxClaimExpiry => Sys2Proof.Machine.execMailboxClaimExpiry s
  | .getVersion r => Sys2Proof.Machine.execGetVersion r s
  | .getCapabilities r => Sys2Proof.Machine.execGetCapabilities r s
  | .negotiateAlgorithms r => Sys2Proof.Machine.execNegotiateAlgorithms r s
  | .getDigests r sess => Sys2Proof.Machine.execGetDigests r sess s
  | .getCertificate r sess => Sys2Proof.Machine.execGetCertificate r sess s
  | .challenge r => Sys2Proof.Machine.execChallenge r s
  | .getMeasurements r sess index nonce => Sys2Proof.Machine.execGetMeasurements r sess index nonce s
  | .keyExchange r sid => Sys2Proof.Machine.execKeyExchange r sid s
  | .finish r sid requesterKey => Sys2Proof.Machine.execFinish r sid requesterKey s
  | .heartbeat r sid => Sys2Proof.Machine.execHeartbeat r sid s
  | .keyUpdate r sid => Sys2Proof.Machine.execKeyUpdate r sid s
  | .endSession r sid => Sys2Proof.Machine.execEndSession r sid s
  | .chunkSend r sess chunk last => Sys2Proof.Machine.execChunkSend r sess chunk last s
  | .chunkGet r sess index => Sys2Proof.Machine.execChunkGet r sess index s
  | .unsupportedRequest r code => Sys2Proof.Machine.execUnsupportedRequest r code s
  | .sessionTimeout sid => Sys2Proof.Machine.execSessionTimeout sid s
  | .vendorKeyInstall r sid body => Sys2Proof.Machine.execVendorKeyInstall r sid body s
  | .vendorKeyRevoke r sid body => Sys2Proof.Machine.execVendorKeyRevoke r sid body s
  | .vendorSeal r sid body => Sys2Proof.Machine.execVendorSeal r sid body s
  | .vendorReport r sid body => Sys2Proof.Machine.execVendorReport r sid body s
  | .logRead r sid body => Sys2Proof.Machine.execLogRead r sid body s
  | .authNew r => Sys2Proof.Machine.execAuthNew r s
  | .authCheck r => Sys2Proof.Machine.execAuthCheck r s
  | .authResult => Sys2Proof.Machine.execAuthResult s
  | .authClose r => Sys2Proof.Machine.execAuthClose r s
  | .testReset => Sys2Proof.Machine.execTestReset s
  | .registerAccessInstrument dr m => Sys2Proof.Machine.execRegisterAccessInstrument dr m s
  | .mgtWinData => Sys2Proof.Machine.execMgtWinData s
  | .mgmtLatchRead addr => Sys2Proof.Machine.execMgmtLatchRead addr s
  | .reservedSyncOp ep id op value => Sys2Proof.Machine.execReservedSyncOp ep id op value s
  | .unlistedPeerMessage die beat => Sys2Proof.Machine.execUnlistedPeerMessage die beat s
  | .unknownUpstreamRequest ep beat0 beat1 => Sys2Proof.Machine.execUnknownUpstreamRequest ep beat0 beat1 s
  | .signalPageFormatError r data => Sys2Proof.Machine.execSignalPageFormatError r data s
  | .refusedRegisterRead r => Sys2Proof.Machine.execRefusedRegisterRead r s
  | .knownAnswerRunTimeout k unit => Sys2Proof.Machine.execKnownAnswerRunTimeout k unit s
  | .trainWaitExpiry chan => Sys2Proof.Machine.execTrainWaitExpiry chan s
  | .railAckTimeout rail => Sys2Proof.Machine.execRailAckTimeout rail s
  | .freqProposeMissing p die => Sys2Proof.Machine.execFreqProposeMissing p die s
  | .time30Wrap => Sys2Proof.Machine.execTime30Wrap s
  | .mailboxRequestNotParsed r => Sys2Proof.Machine.execMailboxRequestNotParsed r s

end Sys2Proof.Machine
end

