-- ==== Sys2Proof/Machine/Idle.lean ====
section
/-! DEFINITION. What happens on an empty queue: the timebase advances 10 ns (R360), and peer_hb_out toggles (R61). -/

namespace Sys2Proof.Machine

/-- 10 ns of the reference clock pass (log 1). While rst_por_n is asserted nothing counts. -/
def tick (s : State) : State :=
  if s.bsn.porAsserted then s
  else
    let t := s.timebase + 10
    { s with timebase := t,
             pins := { s.pins with hbOut := if t.toNat % 1000 = 0 then !s.pins.hbOut else s.pins.hbOut } }

end Sys2Proof.Machine
end

