-- ==== Sys2Proof/Safety.lean ====
section
/-! DEFINITION. What the claims speak of: the part of the state that only resets, wakes, sleeps, stages 0 and 2, debug
authentication and time change; the invariant of the power domains; when a packet row executes; and when an access to a
register is accepted at once. -/

namespace Sys2Proof.Machine

/-! ## The steady part -/

/-- What every command but a few leaves alone: the queue of commands, the timebase (R360), the awake domains (R14 to R17),
the fuse words (R367), DEBUG_OPENED (R300) and the digest the attestation key was derived with (R305). -/
structure Steady where
  pending : List Instr
  timebase : Word
  sliceAwake : BitVec 8
  spineAwake : Bool
  fuses : Table W32
  debugOpened : Bool
  bootDigest : List Byte

/-- The steady part of a state. -/
def steady (s : State) : Steady :=
  { pending := s.pending, timebase := s.timebase, sliceAwake := s.bsn.sliceAwake, spineAwake := s.bsn.spineAwake,
    fuses := s.swb.fuses, debugOpened := s.ntc.debugOpened, bootDigest := s.ntc.bootDigest }

/-- The state an outcome leaves, `s` where it stops. -/
def after (s : State) (r : Result) : State :=
  match r with
  | .next t => t
  | .fault _ => s
  | .refused _ => s

/-! ## Power domains (R14 to R17) -/

/-- A slice is awake only while the spine is. -/
def DomainInv (s : State) : Prop := s.bsn.sliceAwake ≠ 0 → s.bsn.spineAwake = true

/-! ## Accesses that are accepted at once -/

/-- A write of the operator to the whole register at `off` of page `p` (8 bytes if `wide`) that passes R33 and R34, that
the view may make (R408), and that neither a sleeping domain nor an earlier access of its ID delays (R18, R36). -/
structure OperatorWrites (s : State) (h : HostReq) (p off : Nat) (wide : Bool) : Prop where
  live : s.bsn.porAsserted = false ∧ s.bsn.blkAsserted = false
  reach : s.swb.boot ≠ .recovery ∨ p = pgID ∨ p = pgSWB
  requester : h.cls = 1#2 ∧ h.bit15 = false ∧ h.ctx = 0#14 ∧ h.twin = false
  plain : h.atomic = false ∧ h.poison = false ∧ h.single = true
  beat : h.size = (if wide then 8 else 4) ∧ h.strobes = (if wide then 0xFF#8 else 0x0F#8)
  place : h.addr.toNat = 0x1000000 + p * 4096 + off ∧ off < 4096 ∧ off % (if wide then 8 else 4) = 0
  page : mapped p = true ∧ p ≠ pgDBG
  width : is64 p (off / 8 * 8) = wide
  awake : pageAwake s p = true
  order : behind s (16 + h.id.toNat) = false

/-- A host write, of `size` bytes at `addr` of the window, of the operator or (`ctx`) of a tenant, that passes R33 and
R34, while the block is out of reset and not in RECOVERY, with no earlier access of its ID held (R36). -/
structure HostWrites (s : State) (h : HostReq) (operator : Bool) (addr size : Nat) : Prop where
  live : s.bsn.porAsserted = false ∧ s.bsn.blkAsserted = false
  reach : s.swb.boot ≠ .recovery
  requester : h.cls = (if operator then 1#2 else 0#2) ∧ h.bit15 = false ∧ h.twin = false ∧ (operator = true → h.ctx = 0#14)
  plain : h.atomic = false ∧ h.poison = false ∧ h.single = true
  beat : h.size = size ∧ h.strobes = (if size = 8 then 0xFF#8 else 0x0F#8)
  place : h.addr.toNat = addr
  order : behind s (16 + h.id.toNat) = false

/-! ## The mailbox (R295) -/

/-- The write of GO alone to MBX_CTRL by the operator, who owns the mailbox, while it is not BUSY and the spine is
awake. -/
structure MailboxGo (s : State) (h : HostReq) (d : Word) : Prop where
  write : HostWrites s h true 0x1101004 4
  bits : d.toNat % 256 = 2
  owner : s.ntc.mbx.owner = some (true, 0)
  idle : s.ntc.mbx.busy = false
  awake : s.bsn.spineAwake = true

/-- The state in which a request begins: the write has been answered OKAY and counted, the owner's access is the latest,
and the mailbox is BUSY without a response. -/
def goState (s : State) (h : HostReq) : State :=
  let x := { s.ntc.mbx with lastAccess := s.now, busy := true, rspReady := false, error := false }
  emit { count s pgHFE 5 with ntc := { s.ntc with mbx := x } } (.hostResp h.id 0)

/-! ## Packets (R124 to R147) -/

/-- The job of queue q stands at the packet `ws` of opcode `op`, and nothing holds it: the block runs, the home slice is
awake and not paused, no version area it is read from fails (R214, R341), the predicate is on (R134), no spilled buffer
is to be restored (R163), the job has no open launch record and no fence atomic in flight (R124, R143), it has not been
held, no swap, run or migration holds it (R264), and for a launch-kind packet its context is the partition's current
one, and the scheduler has taken note of what is eligible (R273). -/
structure AtPacket (s : State) (q op : Nat) (j : Job) (ws : List Word) : Prop where
  job : s.job q = some j
  pkt : curPkt j = some ws
  opcode : opOf (hdrOf ws) = op
  runs : s.halted = false ∧ j.phase = .run ∧ sliceUp s (s.queue q).home = true ∧
    (s.slice (s.queue q).home).paused = false
  pred : predOn j (hdrOf ws) = true
  area : areaFault s q j = none
  whole : j.spillBuf = none ∧ j.spillImg = none
  quiet : openRecs s q = 0 ∧ j.atomics = 0
  unheld : j.holdSince = none ∧ (gridKind op = true → swapHolds s q j = false)
  current : launchKind op = true → (s.part (partQ s q)).cur = some (s.queue q).owner ∧
    ∀ e ∈ s.ctxs, (s.ctx e.1).eligible = eligible s e.1

/-! ## Peer messages (R60, R165) -/

/-- A message of a type from a die of the domain, with every bit that the type does not define at 0. -/
structure PeerMessage (s : State) (die : BitVec 16) (beat : BitVec 256) (type defined : Nat) : Prop where
  type : beat.toNat % 256 = type
  domain : domFirst s ≤ die.toNat ∧ die.toNat ≤ domLast s
  clean : beat.toNat &&& defined = beat.toNat

end Sys2Proof.Machine
end

