-- ==== Sys2Proof/Certificates/Slice0/Obligations.lean ====
section
/-! DEFINITION. The statements for the provers: one for each family of commands and kind of state, and those about the
whole block. `u` in a statement about a packet is the state in which the packet counts as decoded (Table 5.20). -/

open Sys2Proof Sys2Proof.Machine

/-! ## The queue of commands, time and reset -/

/-- A step with a command at the front of the queue is that command's effect on the state with the queue's rest (the
model's queue, log 1).
On an empty queue 10 ns of the reference clock pass, unless rst_por_n holds the timebase at 0 (R360: the timebase
counts ns; the tick is the model's, log 1). -/
def Obligations.StepRunsFront : Prop :=
  (∀ (c : Instr) (s : State), step { s with pending := c :: s.pending } = exec c s) ∧
  (∀ s : State, s.pending = [] →
    ∃ t, step s = .next t ∧
      t.timebase = (if s.bsn.porAsserted then s.timebase else s.timebase + 10) ∧
      (s.bsn.porAsserted = true → t = s) ∧
      { t with timebase := s.timebase, pins := s.pins } = s ∧
      t.pins.hfeAvail = s.pins.hfeAvail ∧ t.pins.pwrFloor = s.pins.pwrFloor ∧ t.pins.pwrWin = s.pins.pwrWin)

/-- The state rst_por_n leaves (R406 and the reset columns): time 0, in reset, with no domain awake, no interrupt target
enabled, every queue and context FREE, every key slot FREE, no partition sealed, every fuse word 0, debug closed, and no
command waiting; the invariant of the domains holds, and the byte buffers are in their canonical form. -/
def Obligations.ResetState : Prop :=
  State.reset.timebase = 0 ∧ State.reset.bsn.porAsserted = true ∧ State.reset.bsn.ctrl = 0x00320000 ∧
  State.reset.idIrqTarget = 0x00000FFF ∧ State.reset.bwrCtrl = 0x320400C0 ∧ State.reset.vld.ctrl = 0x330A0A0F ∧
  State.reset.vld.gain = 0x00010000 ∧ State.reset.vld.fstep = 0x19 ∧ State.reset.vld.vsettle = 0x14 ∧
  State.reset.dl.ctrl = 0x00000320 ∧ State.reset.pins.pwrFloor = true ∧ State.reset.pins.hfeAvail = false ∧
  (∀ q, (State.reset.queue q).st = .free ∧ State.reset.job q = none) ∧ (∀ c, (State.reset.ctx c).st = .free) ∧
  (∀ k, (State.reset.slot k).st = .free) ∧ (∀ p, (State.reset.part p).sealed = none) ∧
  (∀ i, tget 0 State.reset.swb.fuses i = 0) ∧ State.reset.ntc.debugOpened = false ∧ State.reset.dbg.st = .idle ∧
  State.reset.pending = [] ∧ DomainInv State.reset ∧ State.reset.ntc.mbx.data.wf = true ∧ State.reset.dbg.data.wf = true

/-- Resets and domains (R14 to R18, R29, R406): rst_por_n puts every register at its reset value; rst_blk_n keeps the
timebase, the fuses, the results of the stages, the boot count and DEBUG_OPENED, and no
context, queue, job or command of an endpoint is left; the release of the last reset starts bring-up at stage 0; a domain
that wakes accepts work and gets the accesses held for it; a domain without work may sleep, the spine only behind every
slice and never while its hold set holds a bit. -/
def Obligations.ResetsAndDomains : Prop :=
  ∀ s : State,
    (exec .powerOnReset s = .next { State.reset with
      pending := s.pending, freeCtr := s.freeCtr, out := s.out, badLines := s.badLines }) ∧
    (s.bsn.porAsserted = false → ∃ t, exec .blockReset s = .next t ∧ t.bsn.blkAsserted = true ∧ t.timebase = s.timebase ∧
      t.swb.fuses = s.swb.fuses ∧ t.swb.stages = s.swb.stages ∧ t.swb.bootCount = s.swb.bootCount ∧
      t.ntc.debugOpened = s.ntc.debugOpened ∧
      t.ctxs = [] ∧ t.queues = [] ∧ t.jobs = [] ∧ t.eps = [] ∧ t.pins.hfeAvail = false) ∧
    (s.bsn.porAsserted = true → s.bsn.blkAsserted = false →
      exec .powerOnResetRelease s = .next { s with
        bsn := { s.bsn with porAsserted := false },
        swb := { s.swb with boot := .stage 0, warm := false, bootCount := s.swb.bootCount + 1, stageAt := s.now } }) ∧
    (s.bsn.blkAsserted = true → s.bsn.porAsserted = false →
      exec .blockResetRelease s = .next { s with
        bsn := { s.bsn with blkAsserted := false },
        swb := { s.swb with boot := .stage 0, warm := true, bootCount := s.swb.bootCount + 1, stageAt := s.now } }) ∧
    (s.bsn.porAsserted = false → exec .powerOnResetRelease s = .next s) ∧
    (s.bsn.blkAsserted = false → exec .blockResetRelease s = .next s) ∧
    (∀ m, inReset s = false → s.bsn.spineWaking = true → exec (.domainWake 8 m) s =
      .next (deliverAll m s.bsn.held [] { s with bsn := { s.bsn with spineAwake := true, spineWaking := false, held := [] } })) ∧
    (∀ (k : Fin 9) m, k.val < 8 → inReset s = false → s.bsn.sliceWaking.getLsbD k.val = true → s.bsn.spineAwake = true →
      s.bsn.held = [] → ∃ t, exec (.domainWake k m) s = .next (pumpSlice t k.val) ∧
        t.bsn.sliceAwake = s.bsn.sliceAwake ||| BitVec.ofNat 8 (2 ^ k.val) ∧ { t with bsn := s.bsn } = s) ∧
    (∀ k : Fin 9, k.val < 8 → s.swb.boot = .ready → s.bsn.sliceAwake.getLsbD k.val = true → sliceIdle s k.val = true →
      ∃ t, exec (.sleepEntry k) s = .next t ∧ t.bsn.sliceAwake.getLsbD k.val = false ∧
        (∀ i, i < 8 → i ≠ k.val → t.bsn.sliceAwake.getLsbD i = s.bsn.sliceAwake.getLsbD i) ∧ { t with bsn := s.bsn } = s) ∧
    (s.swb.boot = .ready → s.bsn.spineAwake = true → spineIdle s = true →
      exec (.sleepEntry 8) s = .next { s with bsn := { s.bsn with spineAwake := false } }) ∧
    (s.bsn.sliceAwake ≠ 0 ∨ s.per.hold ≠ [] → exec (.sleepEntry 8) s = .next s)

/-- Bring-up (R366 to R375): a stage acts only where bring-up stands at it. Each stage that passes leaves the next to
run, stage 7 READY with hfe_avail high: stage 0 reads the fuses and powers the domains, stage 1 takes the settings and
the defect list, stage 2 loads the firmware and derives the keys, stage 4 discovers the endpoints, stage 5 the channels
and links, stage 6 tests the endpoints and calibrates the gain, stage 7 first binds BIND0 and hands the pools' memory to
zeroing and then, once the granules are at hand, sets up context 0 and queue 0. A failed stage fails the block with
pwr_floor high. -/
def Obligations.Bringup : Prop :=
  ∀ s : State,
    (∀ fuses modes flash found chans links runs windows kar b, ∀ p ∈
      [(0, Instr.stage0 fuses), (1, .stage1 modes flash), (2, .stage2 b), (3, .stage3 b), (4, .stage4 found),
       (5, .stage5 chans links), (6, .stage6 runs windows kar), (7, .stage7)],
      s.swb.boot ≠ .stage p.1 → exec p.2 s = .next s) ∧
    (∀ fuses : List W32, s.swb.boot = .stage 0 → s.swb.warm = false → fuses.length = 1024 →
      ∃ t, exec (.stage0 fuses) s = .next t ∧ t.swb.boot = .stage 1 ∧ t.swb.result = 0 ∧
        (∀ i, i < 1024 → tget 0 t.swb.fuses i = fuses.getD i 0) ∧ t.bsn.sliceAwake = 0xFF ∧ t.bsn.spineAwake = true) ∧
    (∀ fuses : List W32, s.swb.boot = .stage 0 → s.swb.warm = false → fuses.length < 1024 →
      ∃ t, exec (.stage0 fuses) s = .next t ∧ t.swb.boot = .failed ∧ t.swb.result = 0x10 ∧ t.pins.pwrFloor = true) ∧
    (∀ ms flash st cert kar rs r, s.swb.boot = .stage 1 → directoryOk flash = true → regionBytes flash 1 = some st →
      regionBytes flash 4 = some cert → regionBytes flash 5 = some kar → settingsRecords st.length st = some rs →
      settingsOk rs = true → regionOf flash 3 = some r → imgHeaderOk (cut flash r.off r.size) = true →
      imgBytes (cut flash r.off r.size) + 96 ≤ (cut flash r.off r.size).length →
      ∃ t, exec (.stage1 (some ms) flash) s = .next t ∧ t.swb.boot = .stage 2 ∧ t.swb.result = 0 ∧ t.swb.settings = settingsFrom rs ∧
        t.swb.spiMode = fastestMode ms ∧ t.swb.spiDiv = (settingsFrom rs).spiDiv ∧
        t.vld = veldFrom s.vld rs ∧ t.ntc.cert = cert ∧ t.swb.kar = kar ∧ t.swb.fwImage = cut flash r.off r.size) ∧
    (s.swb.boot = .stage 2 → s.swb.warm = false → verifyImage s s.swb.fwImage = 0 →
      ∃ t, exec (.stage2 true) s = .next t ∧ t.swb.boot = .stage 3 ∧ t.swb.result = 0 ∧ t.ntc.attestReady = true ∧
        t.ntc.bootDigest = imgDigest s.swb.fwImage ∧ t.swb.spineDigest = imgDigest s.swb.fwImage ∧
        ∀ k, k < 8 → (t.slice k).fwDigest = imgDigest s.swb.fwImage) ∧
    (s.swb.boot = .stage 3 → ∃ t, exec (.stage3 true) s = .next t ∧ t.swb.boot = .stage 4 ∧ t.swb.result = 0) ∧
    (∀ found s1, s.swb.boot = .stage 4 →
      s1 = fuseLinks (found.foldl foundEp (discovery s ((List.range 512).filter (fun h => !hubFused s h)) false)) →
      ∃ t, exec (.stage4 found) s = .next t ∧ t.eps = s1.eps ∧ t.hubs = s1.hubs ∧
        (t.swb.boot = .stage 5 ↔ ∃ e ∈ s1.eps, e.2.exist = true ∧ e.2.kind = 0)) ∧
    (∀ chans links s1, s.swb.boot = .stage 5 →
      s1 = (linkEps s).foldl (fun t e => if links.any (fun x => x.ep.toNat == e) then t else silentLink t e)
        (links.foldl linkIn (chans.foldl chanIn (discovery s (linkHubs s) true))) →
      (∃ c ∈ bind0Units s1 3, c ∈ (s1.chans.filter (fun c => c.2.state == 1)).map (·.1)) →
      ∃ t, exec (.stage5 chans links) s = .next t ∧ t.swb.boot = .stage 6 ∧ t.chans = s1.chans ∧ t.eps = s1.eps) ∧
    (∀ runs windows, s.swb.boot = .stage 6 →
      ∃ t, exec (.stage6 runs windows true) s = .next t ∧ t.swb.boot = .stage 7 ∧
        t.vld.gain = calibrated (runs.foldl bootRun (releaseFloor s)) windows) ∧
    (s.swb.boot = .stage 7 → s.swb.handbackWait = false → s.swb.poolFill = false → bind0Ok s = true →
      exec .stage7 s = .next (begin7 s)) ∧
    (∀ u, s.swb.boot = .stage 7 → s.swb.handbackWait = false → s.swb.poolFill = true → setup7 s = .done u → hasTwin u = false →
      ∃ t, exec .stage7 s = .next t ∧ t.swb.boot = .ready ∧ t.pins.hfeAvail = true ∧ t.ctxs = u.ctxs ∧ t.queues = u.queues) ∧
    (s.swb.boot = .stage 7 → s.swb.handbackWait = false → s.swb.poolFill = true → setup7 s = .wait → exec .stage7 s = .next s) ∧
    (s.swb.boot = .stage 7 → s.swb.handbackWait = false →
      ((s.swb.poolFill = false ∧ bind0Ok s = false) ∨ (s.swb.poolFill = true ∧ setup7 s = .fail)) →
      ∃ t, exec .stage7 s = .next t ∧ t.swb.boot = .failed ∧ t.pins.pwrFloor = true)

/-! ## The whole block -/

/-- A slice is awake only while the spine is (R14 to R17): every step keeps this, in every state. -/
def Obligations.DomainsKept : Prop :=
  ∀ s t : State, DomainInv s → step s = .next t → DomainInv t

/-- R300: no check of an authentication passes while a partition is sealed, so its end leaves the view closed; DEBUG_OPENED
stands after every step but rst_por_n, the start of the next cold bring-up; and the report carries it. -/
def Obligations.DebugOpenedStands : Prop :=
  (∀ s : State, ∀ b, (∃ p ∈ s.parts, p.2.sealed.isSome = true) → s.dbg.st = .checking b →
    ∃ t, exec .authResult s = .next t ∧ t.dbg.st ≠ .open ∧ t.ntc.debugOpened = s.ntc.debugOpened) ∧
  (∀ s : State, ∀ b, s.dbg.st = .checking b → authReason s b = 0 →
    ∃ t, exec .authResult s = .next t ∧ t.dbg.st = .open ∧ t.ntc.debugOpened = true) ∧
  (∀ s t : State, s.ntc.debugOpened = true → step s = .next t → s.pending.head? ≠ some .powerOnReset →
    t.ntc.debugOpened = true) ∧
  (∀ s : State, (reportFlags s).testBit 0 = s.ntc.debugOpened)

/-- What the commands leave alone (R29, R300, R305, R360, R367): no command touches the queue of commands; rst_por_n and the
idle tick alone change the timebase; rst_por_n and stage 0 alone change the fuse words; and but for the resets, stage 2,
the end of an authentication, stage 0 and the wakes and sleeps of domains, every command keeps the awake domains, the fuse
words, DEBUG_OPENED and the digest of the attestation key. -/
def Obligations.WhatCommandsKeep : Prop :=
  ∀ (i : Instr) (s t : State), exec i s = .next t →
    t.pending = s.pending ∧
    (i ≠ .powerOnReset → t.timebase = s.timebase) ∧
    (i ≠ .powerOnReset → (∀ f, i ≠ .stage0 f) → t.swb.fuses = s.swb.fuses) ∧
    (i ≠ .powerOnReset → i ≠ .blockReset → (∀ q, i ≠ .unitReset q) → i ≠ .authResult → (∀ f, i ≠ .stage0 f) → (∀ b, i ≠ .stage2 b) →
      (∀ d m, i ≠ .domainWake d m) → (∀ d, i ≠ .sleepEntry d) → steady t = steady s)

/-! ## Register writes -/

/-- The writes to the common registers of a page (R401 to R405, Table 16.2): CLEAR_COUNTERS, IRQ_FORCE,
IRQ_STATUS_CLEAR, INJECT_UE, INJECT_CE and PAGE_LOCK. The whole next state is given, so what is not named is unchanged.
A locked page keeps its counters, its interrupts and its injection against the operator's writes, which still answer
OKAY (R405): CLEAR_COUNTERS, IRQ_FORCE, INJECT_UE and INJECT_CE change nothing. -/
def Obligations.CommonRegisterWrites : Prop :=
  (∀ (s : State) (h : HostReq) (d : Word) (p : Nat), p ≠ pgMGT →
    (OperatorWrites s h p 0x008 false → (s.page p).lock = false → d.getLsbD 0 = true →
      exec (.clearCounters (.host h d)) s =
        .next (emit (s.setPage p { s.page p with cnt := List.replicate 8 0 }) (.hostResp h.id 0))) ∧
    (OperatorWrites s h p 0x018 false → (s.page p).lock = false →
      exec (.irqForce (.host h d)) s = .next (emit (raiseIrq s p (d.setWidth 32)) (.hostResp h.id 0))) ∧
    (OperatorWrites s h p 0x010 false →
      exec (.irqStatusClear (.host h d)) s =
        .next (emit (s.setPage p { s.page p with irqStatus := (s.page p).irqStatus &&& ~~~(d.setWidth 32) })
          (.hostResp h.id 0))) ∧
    (OperatorWrites s h p 0x028 false → (s.page p).lock = false → d.getLsbD 31 = true →
      exec (.injectUe (.host h d)) s =
        .next (emit (s.setPage p { s.page p with inject := some true }) (.hostResp h.id 0))) ∧
    (OperatorWrites s h p 0x028 false → (s.page p).lock = false → d.getLsbD 30 = true → d.getLsbD 31 = false →
      exec (.injectCe (.host h d)) s =
        .next (emit (s.setPage p { s.page p with inject := some false }) (.hostResp h.id 0))) ∧
    (OperatorWrites s h p 0x030 false → d.getLsbD 0 = true →
      exec (.pageLock (.host h d)) s =
        .next (emit (s.setPage p { s.page p with lock := true }) (.hostResp h.id 0)))) ∧
  (∀ (s : State) (h : HostReq) (d : Word) (p : Nat), (s.page p).lock = true →
    (OperatorWrites s h p 0x008 false → d.getLsbD 0 = true →
      exec (.clearCounters (.host h d)) s = .next (emit s (.hostResp h.id 0))) ∧
    (OperatorWrites s h p 0x018 false → exec (.irqForce (.host h d)) s = .next (emit s (.hostResp h.id 0))) ∧
    (OperatorWrites s h p 0x028 false → d.getLsbD 31 = true →
      exec (.injectUe (.host h d)) s = .next (emit s (.hostResp h.id 0))) ∧
    (OperatorWrites s h p 0x028 false → d.getLsbD 30 = true →
      exec (.injectCe (.host h d)) s = .next (emit s (.hostResp h.id 0))))

/-- IRQ_TARGET_ENABLE (R403), SLICE_AWAKE_FORCE (R15, Table 2.12), and REGISTER_WRITE, here of a notification target's
address (R118, R122), by the operator. -/
def Obligations.BlockRegisterWrites : Prop :=
  ∀ (s : State) (h : HostReq) (d : Word),
    (OperatorWrites s h pgID 0x138 false → (s.page pgID).lock = false → d.getLsbD 31 = true →
      s.idIrqTarget.getLsbD 31 = false → (∀ p, (s.page p).irqStatus &&& (s.page p).irqEnable = 0) →
      exec (.irqTargetEnable (.host h d)) s =
        .next (emit { s with idIrqTarget := d.setWidth 32 &&& 0x80000FFF } (.hostResp h.id 0))) ∧
    (∀ k : Nat, k < 8 → OperatorWrites s h pgBSN 0x100 false → (s.page pgBSN).lock = false →
      d.toNat % 256 = 2 ^ k → d.getLsbD 31 = false →
      exec (.sliceAwakeForce (.host h d)) s =
        .next (emit (wakeSlice { s with bsn := { s.bsn with ctrl := d.setWidth 32 &&& 0x83FF00FF } } k)
          (.hostResp h.id 0))) ∧
    (∀ m, OperatorWrites s h pgHFE 0x108 true → (s.page pgHFE).lock = false →
      exec (.registerWrite (.host h d) m) s =
        .next (emit { s with ntfTargets := tset 0 s.ntfTargets (selOf s .operator pgHFE 0x100)
                                            (d &&& 0xFFFFFFFFFFFFFFFC) } (.hostResp h.id 0))) ∧
    (∀ m, OperatorWrites s h pgSTP 0x100 false →
      exec (.registerWrite (.host h d) m) s =
        .next (emit { s with sel := tset 0 s.sel (selKey .operator pgSTP 0x100) (BitVec.ofNat 64 (d.toNat % 2 ^ 18)) }
          (.hostResp h.id 0)))

/-- An interrupt bit that sets (R401, R403): IRQ_STATUS takes it, and where (IRQ_STATUS AND IRQ_ENABLE) leaves 0 and
ID_IRQ_TARGET.ENABLE is 1, the page's message is presented with the target's address, context 0 and the page's number; a
message of the page that already waits takes the new one's place. No other page changes but for the count of coalesced
messages.
NOTIFICATION_TRANSFER (R37, R38): the oldest waiting message leaves on hfe_ntf and is counted; with none waiting
nothing changes. -/
def Obligations.InterruptMessages : Prop :=
  (∀ (s : State) (p : Nat) (bits : W32),
    ((raiseIrq s p bits).page p).irqStatus = (s.page p).irqStatus ||| bits ∧
    (raiseIrq s p bits).out = s.out ∧
    ((s.page p).irqStatus &&& (s.page p).irqEnable = 0 →
      ((s.page p).irqStatus ||| bits) &&& (s.page p).irqEnable ≠ 0 → s.idIrqTarget.getLsbD 31 = true →
      s.ntfQueue.any (fun n => n.src == .page p) = false →
      (raiseIrq s p bits).ntfQueue =
        s.ntfQueue ++ [⟨.page p, tget 0 s.ntfTargets (s.idIrqTarget.toNat % 4096), 0, p * 2 ^ 18 + 0x3FFFF⟩]) ∧
    ((s.page p).irqStatus &&& (s.page p).irqEnable ≠ 0 ∨ ((s.page p).irqStatus ||| bits) &&& (s.page p).irqEnable = 0 ∨
      s.idIrqTarget.getLsbD 31 = false → (raiseIrq s p bits).ntfQueue = s.ntfQueue) ∧
    (∀ q, q ≠ p → q ≠ pgHFE → (raiseIrq s p bits).page q = s.page q)) ∧
  (∀ (s : State) (n : Ntf) (rest : List Ntf),
    (s.ntfQueue = n :: rest →
      exec .notificationTransfer s =
        .next (count (emit { s with ntfQueue := rest } (.ntf n.addr n.ctx n.data)) pgHFE 2)) ∧
    (s.ntfQueue = [] → exec .notificationTransfer s = .next s))

/-- STP_Q_CTRL of the queue STP_Q_SEL names (Table 4.9, R109, R111, R115, R119): ENABLE of a DISABLED queue reads the
producer index afresh, its removal disables an idle queue or leaves a busy one DISABLING, HOLD stops the fetching of jobs
and skips a poll that is due, HOLD written 0 owes an ENABLED queue a fresh read of the producer index, which a read in flight
does not count as, and WARM is stored. -/
def Obligations.QueueControlWrites : Prop :=
  ∀ (s : State) (h : HostReq) (d : Word) (q : Nat), OperatorWrites s h pgSTP 0x104 false →
    (s.page pgSTP).lock = false → q = selOf s .operator pgSTP 0x100 → q ≠ 0x3FFFF →
    (∀ ps, d.getLsbD 0 = true → d.getLsbD 1 = false → (s.queue q).st = .disabled → (s.queue q).hold = false →
      (s.queue q).fetched = false → (s.queue q).piRead = .none → (s.ctx (s.queue q).owner).st = .active →
      mayRead s q = true → portRoom s (s.queue q).home = true → qPieces s q (idxVa (s.queue q)) 8 false = .ok ps →
      ∃ t, exec (.stpQCtrlEnable (.host h d)) s = .next t ∧
        t.queue q = { s.queue q with warm := d.getLsbD 2, st := .enabled, freshDue := true, pend := false, pollHeld := false,
                                     piRead := .fresh } ∧
        t.out = s.out ++ readsOf s (s.queue q).home ps ++ [.hostResp h.id 0] ∧ (∀ k, k ≠ q → t.queue k = s.queue k) ∧
        t.flights = s.flights ++ [⟨(s.queue q).home, .queue q .piRead, readsOf s (s.queue q).home ps, true⟩] ∧
        t.jobs = s.jobs ∧ t.wsh = s.wsh) ∧
    (d.getLsbD 0 = false → d.getLsbD 1 = false → (s.queue q).st = .enabled → (s.queue q).cls ≠ 2 →
      (s.queue q).hold = false →
      ∃ t, exec (.stpQCtrlDisable (.host h d)) s = .next t ∧
        t.queue q = { s.queue q with warm := d.getLsbD 2, pollHeld := false,
                                     st := if (s.queue q).fetched then .disabling else .disabled } ∧
        t.out = s.out ++ [.hostResp h.id 0] ∧ { t with queues := s.queues, out := s.out } = s ∧
        (∀ k, k ≠ q → t.queue k = s.queue k)) ∧
    (d.getLsbD 0 = true → d.getLsbD 1 = true → (s.queue q).st = .enabled →
      ∃ t, exec (.stpQCtrlHoldSet (.host h d)) s = .next t ∧
        t.queue q = { s.queue q with warm := d.getLsbD 2, hold := true, pollHeld := false } ∧ t.out = s.out ++ [.hostResp h.id 0] ∧
        { t with queues := s.queues, out := s.out, pages := s.pages } = s ∧ (∀ k, k ≠ q → t.queue k = s.queue k)) ∧
    (d.getLsbD 0 = true → d.getLsbD 1 = false → (s.queue q).st = .enabled → (s.queue q).fetched = true →
      ∃ t, exec (.stpQCtrlHoldClear (.host h d)) s = .next t ∧
        t.queue q = { s.queue q with warm := d.getLsbD 2, hold := false, freshDue := true,
                                     piRead := if (s.queue q).piRead = .fresh then .plain else (s.queue q).piRead } ∧
        t.out = s.out ++ [.hostResp h.id 0] ∧ { t with queues := s.queues, out := s.out } = s ∧
        (∀ k, k ≠ q → t.queue k = s.queue k)) ∧
    (d.getLsbD 0 = false → d.getLsbD 1 = false → (s.queue q).st = .disabled →
      ∃ t, exec (.stpQCtrlWarm (.host h d)) s = .next t ∧
        t.queue q = { s.queue q with warm := d.getLsbD 2, hold := false } ∧ t.out = s.out ++ [.hostResp h.id 0] ∧
        { t with queues := s.queues, out := s.out } = s ∧ (∀ k, k ≠ q → t.queue k = s.queue k))

/-- The Watershed's writes by the operator (R153, R170, R171): WSH_SYNC_INVAL drops one or every sync-table entry that
context 0 has cached, WFG_START begins a snapshot, and WSH_PROBE_SEL shows the probe of a fence of the operator's probe
context. -/
def Obligations.WatershedWrites : Prop :=
  ∀ (s : State) (h : HostReq) (d : Word),
    (OperatorWrites s h pgWSH 0x100 false → d.getLsbD 24 = false →
      exec (.syncInvalEntry (.host h d)) s =
        .next (emit { s with wsh := { s.wsh with syncCache := tdel s.wsh.syncCache (d.toNat % 2 ^ 24) } } (.hostResp h.id 0))) ∧
    (OperatorWrites s h pgWSH 0x100 false → d.getLsbD 24 = true →
      exec (.syncInvalAll (.host h d)) s =
        .next (emit { s with wsh := { s.wsh with syncCache := s.wsh.syncCache.filter (fun e => decide (e.1 / 2 ^ 24 ≠ 0)) } }
          (.hostResp h.id 0))) ∧
    (OperatorWrites s h pgWSH 0x114 false → d.getLsbD 0 = true → d.getLsbD 1 = false → s.wsh.wfgRunning = false →
      exec (.wfgStart (.host h d)) s =
        .next (emit { s with wsh := { s.wsh with wfgRunning := true, wfgDebug := false } } (.hostResp h.id 0))) ∧
    (∀ m, OperatorWrites s h pgWSH 0x120 true →
      exec (.probeSelect (.host h d) m) s =
        (let u := { s with freeCtr := s.freeCtr + 1 }
         let x := probeFence u (probeCtx s) (d &&& 0x81FFFFFFFFFFFFFF) (probeCtx s == 0) s.freeCtr m
         .next (emit { u with wsh := { s.wsh with probes := tset Probe.reset s.wsh.probes 0 x } } (.hostResp h.id 0))))

/-- Owners and shares by the operator (R169, R200, R189, R270, R281): an unowned, quiet barrier channel or Fan takes its
new partition and that partition's recorded owner at once, a Fan that changes its recorded owner with its loop buffer
zeroed, ECP_PACE_BASE of context 0 and the scratchpad share of the selected context are stored. -/
def Obligations.OwnerAndShareWrites : Prop :=
  ∀ (s : State) (h : HostReq) (d : Word),
    (∀ c, c = selOf s .operator pgSAD 0x100 → OperatorWrites s h pgSAD 0x104 false → (s.page pgSAD).lock = false →
      d.getLsbD 8 = true → (s.barrier c).valid = false → (s.barrier c).changing = none → (s.barrier c).armed = [] →
      (s.barrier c).release = false → s.jobs = [] →
      ∃ t, exec (.channelOwnerChange (.host h d)) s = .next t ∧
        t.barrier c = { s.barrier c with valid := true, part := d.toNat % 256, changing := none,
                                         owner := ownerOf s (d.toNat % 256) } ∧
        (∀ k, k ≠ c → t.barrier k = s.barrier k) ∧ t.out = s.out ++ [.hostResp h.id 0] ∧ t.jobs = s.jobs) ∧
    (∀ n, n = selOf s .operator pgFAN 0x100 → OperatorWrites s h pgFAN 0x104 false → (s.page pgFAN).lock = false →
      d.getLsbD 8 = true → (s.fan n).valid = false → (s.fan n).changing = none → (s.fan n).streams = [] → s.jobs = [] →
      ∃ t, exec (.fanOwnerChange (.host h d)) s = .next t ∧
        t.fan n = { s.fan n with valid := true, part := d.toNat % 256, changing := none, owner := ownerOf s (d.toNat % 256),
                                 loop := if ownerOf s (d.toNat % 256) = (s.fan n).owner then (s.fan n).loop else [] } ∧
        (∀ k, k ≠ n → t.fan k = s.fan k) ∧ t.out = s.out ++ [.hostResp h.id 0] ∧ t.jobs = s.jobs) ∧
    (OperatorWrites s h pgECP 0x100 true → (s.page pgECP).lock = false →
      exec (.paceBaseWrite (.host h d)) s =
        .next (emit (s.setCtx 0 { s.ctx 0 with pace := d &&& 0x01FFFFFFFFFFFFC1 }) (.hostResp h.id 0))) ∧
    (∀ c, c = selOf s .operator pgSCH 0x140 → OperatorWrites s h pgSCH 0x148 true → (s.page pgSCH).lock = false →
      (s.ctx c).st = .active → s.ctxs.all (fun e => e.1 == c || e.2.part != (s.ctx c).part || e.2.spadSize == 0) = true →
      exec (.ctxSpadWrite (.host h d)) s =
        .next (emit (s.setCtx c { s.ctx c with spadBase := d.toNat % 2 ^ 16, spadSize := d.toNat / 2 ^ 32 % 2 ^ 16 })
          (.hostResp h.id 0)))

/-- Trace sessions, the serial store and the pacing of the recovery loader by the operator (R356, R365): START with no
session begins the operator's and counts from 0, STOP ends it, and GO of an allowed store makes it busy.
The recovery loader's writes in RECOVERY (R384): BEGIN clears the image, each write of SWB_RCV_DATA appends eight
bytes up to 8 MiB, VERIFY judges the image, PROGRAM stores a verified image at its place in serial memory, and BOOT sends
bring-up to stage 2 with it. -/
def Obligations.TraceStoreAndRecovery : Prop :=
  (∀ (s : State) (h : HostReq) (d : Word),
    (OperatorWrites s h pgLOE 0x180 false → (s.page pgLOE).lock = false → d.getLsbD 0 = true → d.getLsbD 1 = false →
      s.loe.trace.owner = none →
      (let tr := { s.loe.trace with ctrl := d.setWidth 32 &&& 0xFF1C, owner := some .operator, lastOwner := 1, lastCtx := 0,
                                    stoppedFull := false, written := 0, dropped := 0, buf := [], gap := 0, gapAt := 0 }
       exec (.traceStart (.host h d)) s =
        .next (emit (traceTime { s with loe := { s.loe with trace := tr } }) (.hostResp h.id 0)))) ∧
    (OperatorWrites s h pgLOE 0x180 false → (s.page pgLOE).lock = false → d.getLsbD 0 = false → d.getLsbD 1 = true →
      s.loe.trace.owner = some .operator →
      (let tr := { s.loe.trace with ctrl := d.setWidth 32 &&& 0xFF1C, owner := none }
       exec (.traceStop (.host h d)) s = .next (emit { s with loe := { s.loe with trace := tr } } (.hostResp h.id 0)))) ∧
    (OperatorWrites s h pgSWB 0x138 false → d.getLsbD 0 = true → s.swb.spiBusy = false →
      storeAllowed s (s.swb.spiDst.toNat % 2 ^ 26) (s.swb.spiLen.toNat % 2 ^ 27) = true →
      exec (.spiStoreGo (.host h d)) s =
        .next (emit { s with swb := { s.swb with spiBusy := true, spiDone := s.swb.spiDone && !(d.getLsbD 2),
                                                 spiError := s.swb.spiError && !(d.getLsbD 3) } } (.hostResp h.id 0)))) ∧
  (∀ (s : State) (h : HostReq) (d : Word), s.swb.boot = .recovery →
    (OperatorWrites s h pgSWB 0x140 false → d.toNat % 16 = 1 →
      exec (.rcvBegin (.host h d)) s =
        .next (emit { s with swb := { s.swb with fwImage := [], rcvCount := 0, rcvOver := false, verified := false,
                                                 verifyFailed := false } } (.hostResp h.id 0))) ∧
    (OperatorWrites s h pgSWB 0x148 true → s.swb.rcvCount + 8 ≤ 8388608 →
      exec (.rcvData (.host h d)) s =
        .next (emit { s with swb := { s.swb with fwImage := s.swb.fwImage ++ leBytes 8 d.toNat,
                                                 rcvCount := s.swb.rcvCount + 8 } } (.hostResp h.id 0))) ∧
    (OperatorWrites s h pgSWB 0x140 false → d.toNat % 16 = 2 →
      (let ok := !s.swb.rcvOver && fwImageOk s s.swb.fwImage
       exec (.rcvVerify (.host h d)) s =
        .next (emit { s with swb := { s.swb with verified := ok, verifyFailed := !ok } } (.hostResp h.id 0)))) ∧
    (∀ a n, OperatorWrites s h pgSWB 0x140 false → d.toNat % 16 = 4 → s.swb.verified = true → s.swb.fwFlash = some a →
      n = (imgBytes s.swb.fwImage + 96 + 4095) / 4096 * 4096 → storeAllowed s a n = true →
      exec (.rcvProgram (.host h d)) s =
        .next (emit (count (emit { s with swb := { s.swb with spiDone := true } }
          (.spiStore a (padBytes n (s.swb.fwImage.take (imgBytes s.swb.fwImage + 96))))) pgSWB 7 (n / 4096))
          (.hostResp h.id 0))) ∧
    (OperatorWrites s h pgSWB 0x140 false → d.toNat % 16 = 8 → s.swb.verified = true →
      exec (.rcvBoot (.host h d)) s =
        .next (emit { s with pins := { s.pins with hfeAvail := false },
                             swb := { s.swb with boot := .stage 2, stageAt := s.now } } (.hostResp h.id 0))))

/-- The management port and the debug side (R63, R313, R335, R411, R412, R414, R415): a write of VLD_RACK_BUDGET waits
for the next window, which takes the budget and ends its staleness; a read of the lower half of a 64-bit register
latches its upper half; the window reads a register word with the operator's read rights in HALTED, FAILED and RECOVERY,
0 from a page that is not mapped or from the debug page beyond DBG_AUTH_STATUS, and 0 with WIN_REFUSED while the block
runs; every read of it counts. A host view's read of the debug page is answered SLVERR with data 0 and counts as refused
for privilege. -/
def Obligations.ManagementAccesses : Prop :=
  ∀ s : State, s.bsn.porAsserted = false → s.bsn.blkAsserted = false → s.bsn.held = [] → s.bsn.spineAwake = true →
    (∀ d : W32,
      exec (.rackBudgetWrite (.mgmt 0x1104 d 0xF)) s =
        .next (emit { count s pgMGT 1 with
          vld := { s.vld with
            lastRack := s.now,
            late := s.vld.late ++ [{ off := 0x104, sel := 0, data := BitVec.ofNat 64 d.toNat, cover := 0xFFFFFFFF }] } }
          (.mgmtResp false 0))) ∧
    (∀ d : Word, s.vld.late = [{ off := 0x104, sel := 0, data := d, cover := 0xFFFFFFFF }] →
      (applyWrites s).vld = { s.vld with rackW := d.toNat % 2 ^ 16, rackStale := false, late := [] }) ∧
    (exec (.mgmtLatchRead 0x3108) s =
      .next (emit { count s pgMGT 0 with
          freeCtr := s.freeCtr + 1,
          mgt := { s.mgt with latch := some (0x26108, (s.timebase >>> 32).setWidth 32) } }
        (.mgmtResp false (s.timebase.setWidth 32)))) ∧
    (∀ q o, s.swb.boot = .halted ∨ s.swb.boot = .failed ∨ s.swb.boot = .recovery → q = s.mgt.winSel.toNat / 4096 →
      o = s.mgt.winSel.toNat % 4096 → mapped q = true → (q = pgDBG → o = 0x104) → pageAwake s q = true →
      exec .mgtWinData s =
        .next (emit { count (count s pgMGT 0) pgMGT 3 with freeCtr := s.freeCtr + 1 }
          (.mgmtResp false (BitVec.ofNat 32 (read32 (count (count s pgMGT 0) pgMGT 3) .operator q o s.freeCtr))))) ∧
    (∀ q o, s.swb.boot = .halted ∨ s.swb.boot = .failed ∨ s.swb.boot = .recovery → q = s.mgt.winSel.toNat / 4096 →
      o = s.mgt.winSel.toNat % 4096 → mapped q = false ∨ (q = pgDBG ∧ o ≠ 0x104) →
      exec .mgtWinData s = .next (emit (count (count s pgMGT 0) pgMGT 3) (.mgmtResp false 0))) ∧
    (s.swb.boot ≠ .halted → s.swb.boot ≠ .failed → s.swb.boot ≠ .recovery →
      exec .mgtWinData s =
        .next (emit { count (count s pgMGT 0) pgMGT 3 with mgt := { s.mgt with winRefused := true } }
          (.mgmtResp false 0))) ∧
    (∀ (h : HostReq) (d : Word), h.cls = 0#2 → h.bit15 = false → h.twin = false → h.single = true → h.size = 4 →
      h.addr.toNat = 0x1029100 →
      exec (.refusedRegisterRead (.host h d)) s =
        .next (emit { count s pgHFE 7 with freeCtr := s.freeCtr + 1 } (.hostData h.id 2 0 true)))

/-- Debug authentication (R414, R415, Tables 16.7 and 16.8): NEW takes a fresh nonce of 48 free bytes, CHECK starts the
checks, their end opens the debug view where every check passes and otherwise counts the failure and locks after eight,
CLOSE and jtag_trst_n end the view, jtag_trst_n leaves the TAP at IDCODE, and an access of the open view through the
instrument shows its result. -/
def Obligations.DebugAuthentication : Prop :=
  ∀ s : State, s.bsn.porAsserted = false → s.bsn.blkAsserted = false → s.bsn.held = [] →
    (s.dbg.st = .idle ∨ s.dbg.st = .challenged →
      exec (.authNew (.debug 0x29100 false 1)) s =
        .next { s with freeCtr := s.freeCtr + 1,
                       dbg := { s.dbg with st := .challenged, nonce := freeBytes s.freeCtr 48 } }) ∧
    (s.dbg.st = .challenged →
      exec (.authCheck (.debug 0x29100 false 2)) s = .next { s with dbg := { s.dbg with st := .checking true } }) ∧
    (∀ b, s.dbg.st = .checking b → authReason s b = 0 →
      exec .authResult s = .next { s with dbg := { s.dbg with st := .open, fails := 0, reason := 0, nonce := [] },
                                          ntc := { s.ntc with debugOpened := true } }) ∧
    (∀ b, s.dbg.st = .checking b → authReason s b ≠ 0 →
      exec .authResult s = .next { s with dbg := { s.dbg with
        st := if 8 ≤ s.dbg.fails + 1 then .lockedOut else .idle, fails := s.dbg.fails + 1, reason := authReason s b,
        nonce := [] } }) ∧
    (s.dbg.st = .open →
      exec (.authClose (.debug 0x29100 false 4)) s = .next { s with dbg := { s.dbg with st := .idle } }) ∧
    (exec .testReset s = .next { s with dbg := { s.dbg with st := if s.dbg.st = .open then .idle else s.dbg.st, dr := 0, tap := .idcode } }) ∧
    (∀ m, s.dbg.st = .open →
      ∃ t r, exec (.registerAccessInstrument (BitVec.ofNat 88 (2 ^ 21 + 0x26108)) m) s = .next t ∧
        t.dbg.dr = r ∧ t.dbg.tap = .network ∧ t.out = s.out ++ [.jtagResult r] ∧ r.getLsbD 86 = true ∧ r.getLsbD 87 = false ∧
        bitsN r.toNat 85 22 = s.timebase.toNat)

/-! ## Host window, mailbox, sessions -/

/-- DOORBELL_WRITE (R35, R109, R112): a doorbell of a queue's owner for an ENABLED queue of an ACTIVE context marks it
pending and is answered OKAY; one of another requester, or for a FREE queue, is counted and answered SLVERR, and nothing
else changes. A pending bit that sets while a job is in flight waits for the job's end. -/
def Obligations.DoorbellWrites : Prop :=
  ∀ (s : State) (h : HostReq) (q : Nat) (operator : Bool), q < 2 ^ 18 →
    HostWrites s h operator (q * 64) 4 →
    ((doorbellOwner s q h.cls.toNat h.ctx.toNat = true → (s.queue q).st = .enabled →
      (s.ctx (s.queue q).owner).st = .active →
      exec (.doorbellWrite h) s = .next (emit (ringDoorbell s q) (.hostResp h.id 0))) ∧
     (doorbellOwner s q h.cls.toNat h.ctx.toNat = false →
      exec (.doorbellWrite h) s = .next (emit (count s pgHFE 0) (.hostResp h.id 2))) ∧
     ((s.queue q).fetched = true → (s.queue q).pend = false → sliceUp s (s.queue q).home = true →
      ringDoorbell s q = (count s pgDBL 0).setQueue q { s.queue q with pend := true }))

/-- The signal page, by the operator with the spine awake (R149, R150, R155, R156): SIG_SET and SIG_ADD send a UMAX or an
ADD of the value to the fence the sync ID resolves to, on the spine port of its address; SIG_NOTIFY reads the fence's
line again; a reserved offset is counted and sets WSH ERR_STATUS bit 1. `u` is the state once the write has been answered
and counted; the port has room (R58), and the key is not being revoked (R290). -/
def Obligations.SignalPageWrites : Prop :=
  ∀ (s : State) (h : HostReq) (d : Word) (m : MemView) (u : State), s.bsn.spineAwake = true →
    u = count (emit s (.hostResp h.id 0)) pgHFE 4 →
    (∀ s1 f v, HostWrites s h true 0x1100000 8 → v = BitVec.ofNat 64 (d.toNat % 2 ^ 40) →
      resolveFence u 0 (d >>> 40) (some false) true m = .ok (s1, f) → f.home = dieId s1 → findLine s1 f = none →
      keyStopped s1 f.key = false → portRoom s1 (f.pa / 64 % 8) = true →
      (let a := sigAtomic f v 0 (lastHost 0 true) none false none none
       let o := Out.chiAtomic (f.pa / 64 % 8) f.pa f.key false v
       exec (.sigSet h d m) s =
        .next (emit { s1 with wsh := { s1.wsh with atomics := s1.wsh.atomics ++ [{ a with issued := true }] },
                              flights := s1.flights ++ [⟨f.pa / 64 % 8, .atomic f.pa, [o], true⟩] } o))) ∧
    (∀ s1 f v, HostWrites s h true 0x1100008 8 → v = BitVec.ofNat 64 (d.toNat % 2 ^ 40) →
      resolveFence u 0 (d >>> 40) (some true) true m = .ok (s1, f) → f.home = dieId s1 → findLine s1 f = none →
      keyStopped s1 f.key = false → orderHeld s1 f.pa = false → portRoom s1 (f.pa / 64 % 8) = true →
      (let a := sigAtomic f v 0 (lastHost 0 true) none false none none
       let o := Out.chiAtomic (f.pa / 64 % 8) f.pa f.key true v
       exec (.sigAdd h d m) s =
        .next (emit { s1 with wsh := { s1.wsh with atomics := s1.wsh.atomics ++ [{ a with issued := true }] },
                              flights := s1.flights ++ [⟨f.pa / 64 % 8, .atomic f.pa, [o], true⟩] } o))) ∧
    (∀ s1 f l, HostWrites s h true 0x1100010 8 → d.toNat < 2 ^ 24 →
      resolveFence u 0 d none false m = .ok (s1, f) → f.home = dieId s1 → findLine s1 f = some l → (s1.line l).reread = false →
      keyStopped s1 (s1.line l).key = false → lineBusy s1 (s1.line l).pa = false → portRoom s1 ((s1.line l).pa / 64 % 8) = true →
      (let x := s1.line l
       let k := x.pa / 64 % 8
       let o := Out.chiRead k x.pa 64 x.key (hostVisible s1 x.pa)
       let t := s1.setLine l { x with reread := true }
       exec (.sigNotify h d m) s =
        .next (count (emit { t with flights := t.flights ++ [⟨k, .line l, [o], true⟩] } o) pgWSH 4))) ∧
    (∀ off, HostWrites s h true (0x1100000 + off) 8 → 0x10 < off → off < 4096 → off % 8 = 0 →
      exec (.signalPageFormatError h d) s = .next (setErr u pgWSH 1 off))

/-- Ownership of the mailbox (R295, Table 11.6): CLAIM takes a mailbox nobody holds, RELEASE by its owner gives it back,
and so does the expiry of the claim. The owner alone is named with its access time; MBX_DATA stays.
A response in the mailbox (R295, Table 11.6): BUSY clears, RSP_READY sets, ERROR is 0, RSP_LEN is 1 to 2,048, the
response carries `rsp`, and the mailbox keeps its owner; nothing outside the mailbox changes but the model's own counter of
free values. -/
def Obligations.Mailbox : Prop :=
  (∀ (s : State) (h : HostReq) (d : Word),
    (HostWrites s h true 0x1101004 4 → s.bsn.spineAwake = true → d.toNat % 256 = 1 → s.ntc.mbx.owner = none →
      (let x := { s.ntc.mbx with owner := some (true, 0), lastAccess := s.now }
       exec (.mbxClaim (.host h d)) s =
        .next (emit { count s pgHFE 5 with ntc := { s.ntc with mbx := x } } (.hostResp h.id 0)))) ∧
    (HostWrites s h true 0x1101004 4 → s.bsn.spineAwake = true → d.toNat % 256 = 4 → s.ntc.mbx.owner = some (true, 0) →
      (let x := { s.ntc.mbx with owner := none, lastAccess := s.now }
       exec (.mbxRelease (.host h d)) s =
        .next (emit { count s pgHFE 5 with ntc := { s.ntc with mbx := x } } (.hostResp h.id 0)))) ∧
    exec .mailboxClaimExpiry s = .next { s with ntc := { s.ntc with mbx := { s.ntc.mbx with owner := none } } }) ∧
  (∀ (s : State) (rsp : SpdmRsp),
    (mbxAnswer s rsp).ntc.mbx.busy = false ∧ (mbxAnswer s rsp).ntc.mbx.rspReady = true ∧
    (mbxAnswer s rsp).ntc.mbx.error = false ∧ (mbxAnswer s rsp).ntc.mbx.rsp = rsp ∧
    (mbxAnswer s rsp).ntc.mbx.large = keptLarge s.ntc.mbx rsp ∧
    1 ≤ (mbxAnswer s rsp).ntc.mbx.rspLen ∧ (mbxAnswer s rsp).ntc.mbx.rspLen ≤ 2048 ∧
    (mbxAnswer s rsp).ntc.mbx.owner = s.ntc.mbx.owner ∧
    { mbxAnswer s rsp with freeCtr := s.freeCtr, ntc := { (mbxAnswer s rsp).ntc with mbx := s.ntc.mbx } } = s ∧
    (s.ntc.mbx.data.wf = true → (mbxAnswer s rsp).ntc.mbx.data.wf = true))

/-- The requests that a GO starts and that change nothing but the mailbox (R293, R305, R306): each is answered; the version,
the sizes and the algorithms of Table 11.5, the digest of slot 0's chain, signed where it answers CHALLENGE, the chain, a
signed measurement block, and a chunk of the latest large response are what the responses carry; a request that does not
parse clears BUSY, sets ERROR and NTC ERR_STATUS bit 3, and gets no response.
Sessions (R293, R294): KEY_EXCHANGE opens one of at most 16 and asks for mutual authentication, FINISH establishes it
with the requester's identity, HEARTBEAT and KEY_UPDATE touch it, END_SESSION and a timeout close it, and CHUNK_SEND
assembles a large request. Each request is answered, and `sessions` is all it changes outside the mailbox but for FINISH's
count. -/
def Obligations.MailboxRequests : Prop :=
  (∀ (s : State) (h : HostReq) (d : Word) (g : State), MailboxGo s h d → g = goState s h →
    exec (.getVersion (.host h d)) s = .next (mbxAnswer g (.version 0x13)) ∧
    exec (.getCapabilities (.host h d)) s = .next (mbxAnswer g (.capabilities 2048 1048576)) ∧
    exec (.negotiateAlgorithms (.host h d)) s =
      .next (mbxAnswer g (.algorithms [.ecdsaP384, .sha384, .secp384r1, .aes256Gcm])) ∧
    exec (.challenge (.host h d)) s =
      .next (mbxAnswer g (.challengeAuth (sha384 (certChain g)) (spdmSign g 1 (sha384 (certChain g))))) ∧
    (∀ code, exec (.unsupportedRequest (.host h d) code) s = .next (mbxAnswer g (.unsupported code.toNat))) ∧
    exec (.getDigests (.host h d) none) s = .next (mbxAnswer g (.digests (sha384 (certChain g)))) ∧
    exec (.getCertificate (.host h d) none) s = .next (mbxAnswer g (.certificate (certChain g))) ∧
    (∀ (i : Byte) (nonce : List Byte), nonce.length = 32 → i ≠ 0xFD →
      exec (.getMeasurements (.host h d) none i nonce) s =
        .next (mbxAnswer g (.measurements (measurement g i.toNat nonce) (spdmSign g 2 (measurement g i.toNat nonce))))) ∧
    (∀ i, 2048 * i < s.ntc.mbx.large.length →
      exec (.chunkGet (.host h d) none i) s = .next (mbxAnswer g (.chunk i ((s.ntc.mbx.large.drop (2048 * i)).take 2048)
        (decide (s.ntc.mbx.large.length ≤ 2048 * (i + 1)))))) ∧
    (∀ i, s.ntc.mbx.large.length ≤ 2048 * i → exec (.chunkGet (.host h d) none i) s = .next (mbxAnswer g .refused)) ∧
    exec (.mailboxRequestNotParsed (.host h d)) s =
      .next (setErr { g with ntc := { s.ntc with mbx :=
        { s.ntc.mbx with lastAccess := s.now, busy := false, rspReady := false, error := true } } } pgNTC 3 0)) ∧
  (∀ (s : State) (h : HostReq) (d : Word) (g : State), MailboxGo s h d → g = goState s h →
    (∀ sid : BitVec 16, s.ntc.sessions.length < 16 → s.ntc.sessions.all (fun x => x.sid != sid.toNat) = true →
      (let t := g.setSessions (s.ntc.sessions ++ [{ sid := sid.toNat, requester := none, established := false, lastBeat := s.now,
                                                    encap := [.getDigests, .getCertificate], keys := 0 }])
       exec (.keyExchange (.host h d) sid) s =
        .next (mbxAnswer t (.keyExchange 10 [.getDigests, .getCertificate] (spdmSign g 3 []))))) ∧
    (∀ (sid : BitVec 16) key x, s.ntc.sessions.find? (fun x => x.sid == sid.toNat) = some x → x.established = false →
      exec (.finish (.host h d) sid key) s =
        .next (mbxAnswer (count (g.setSessions (s.ntc.sessions.map (fun x => if x.sid = sid.toNat then
          { x with established := true, requester := key.map sha384, lastBeat := s.now, encap := [] } else x))) pgNTC 6) .ack)) ∧
    (∀ sid : BitVec 16, established s sid.toNat = true →
      exec (.heartbeat (.host h d) sid) s =
        .next (mbxAnswer (g.setSessions (s.ntc.sessions.map (fun x => if x.sid = sid.toNat then
          { x with lastBeat := s.now } else x))) .ack) ∧
      exec (.keyUpdate (.host h d) sid) s =
        .next (mbxAnswer (g.setSessions (s.ntc.sessions.map (fun x => if x.sid = sid.toNat then
          { x with keys := x.keys + 1 } else x))) .ack) ∧
      exec (.endSession (.host h d) sid) s =
        .next (mbxAnswer (g.setSessions (s.ntc.sessions.filter (fun x => x.sid != sid.toNat))) .ack)) ∧
    (∀ sid : BitVec 16, exec (.sessionTimeout sid) s =
      .next (s.setSessions (s.ntc.sessions.filter (fun x => x.sid != sid.toNat)))) ∧
    (∀ chunk, chunk.length ≤ 2048 → s.ntc.mbx.chunks.length + chunk.length ≤ 1048576 →
      exec (.chunkSend (.host h d) none chunk false) s =
        .next (mbxAnswer (g.setMbx { g.ntc.mbx with chunks := s.ntc.mbx.chunks ++ chunk }) .chunkSendAck)))

/-- The vendor-defined commands from an established session (R294, R296): each publishes its entry of the security queue,
the partition's owner alone where the command names a partition; a session that is not the owner's gets the status
ST_KEY_BINDING at once; LOG_READ answers with the entries themselves. -/
def Obligations.VendorCommands : Prop :=
  ∀ (s : State) (h : HostReq) (d : Word) (sid : BitVec 16), MailboxGo s h d → established s sid.toNat = true →
    (∀ body k, body.length = 228 → ownerSession s sid.toNat (leNat (body.take 1)) = true → freeKeySlot s = some k →
      exec (.vendorKeyInstall (.host h d) sid body) s =
        .next (secPublish (goState s h) ⟨[headerWord 0xC0 4, BitVec.ofNat 64 (k + leNat ((body.drop 2).take 2) % 16384 * 2 ^ 16),
          BitVec.ofNat 64 (secBuf (secIndex s)), 224], body.drop 4, sid.toNat, leNat (body.take 1)⟩)) ∧
    (∀ body, body.length = 228 → ownerSession s sid.toNat (leNat (body.take 1)) = false →
      exec (.vendorKeyInstall (.host h d) sid body) s = .next (mbxAnswer (goState s h) (.vendor (leBytes 2 ST_KEY_BINDING.toNat)))) ∧
    (∀ body k, body.length = 2 → k = leNat body % 4096 → 2 ≤ k → ownerSession s sid.toNat (s.slot k).part = true →
      exec (.vendorKeyRevoke (.host h d) sid body) s =
        .next (secPublish (goState s h) ⟨[headerWord 0xC1 2, BitVec.ofNat 64 k], [], sid.toNat, (s.slot k).part⟩)) ∧
    (∀ body, body.length = 1 → (requesterOf s sid.toNat).isSome = true →
      exec (.vendorSeal (.host h d) sid body) s =
        .next (secPublish (goState s h) ⟨[headerWord 0xC2 2, BitVec.ofNat 64 (leNat body)], [], sid.toNat, leNat body⟩)) ∧
    (∀ body, body.length = 32 →
      ∃ ws, exec (.vendorReport (.host h d) sid body) s = .next (secPublish (goState s h) ⟨ws, [], sid.toNat, 255⟩) ∧
        ws.length = 7 ∧ opOf (hdrOf ws) = 0xC3 ∧ lenOf (hdrOf ws) = 7 ∧ bytesOfWords (ws.drop 3) = body) ∧
    (∀ body n, body.length = 10 → n = leNat (body.drop 8) → 1 ≤ n → n ≤ 16 → leNat ((body.drop 1).take 3) = 0 →
      exec (.logRead (.host h d) sid body) s =
        .next (mbxAnswer (goState s h) (.vendor ([0, 0] ++
          (((s.part (leNat (body.take 1))).log.drop (leNat ((body.drop 4).take 4))).take n).flatten))))

/-! ## Queues and jobs -/

/-- The producer index (R102, R109, R113): a poll that falls due and a returned index, whose access has then completed (`u`).
A poll of an idle queue reads the index; an index that shows no new entry is recorded; one that shows an entry has the entry
at CI read, and the fetch is in the queue's history. Each read leaves on the port of the queue's home slice (R43), which has
room for it (R58). -/
def Obligations.ProducerIndex : Prop :=
  ∀ (s : State) (q : BitVec 18) (r : Queue) (u : State), r = s.queue q.toNat → r.st = .enabled → r.hold = false →
    r.fetched = false → r.pollHeld = false → r.freshDue = false → mayRead s q.toNat = true →
    u = landed s (.queue q.toNat .piRead) →
    (∀ ps, 1 ≤ r.poll → s.timebase.toNat % (2 ^ (r.poll - 1) * 1000) = 0 → r.piRead = .none → r.wait = false →
      portRoom s r.home = true → qPieces s q.toNat (r.idxLine * 64) 8 false = .ok ps →
      ∃ t, exec (.pollDue q) s = .next t ∧ t.queue q.toNat = { r with pend := false, piRead := .plain } ∧
        t.out = s.out ++ readsOf s r.home ps ∧
        t.flights = s.flights ++ [⟨r.home, .queue q.toNat .piRead, readsOf s r.home ps, true⟩] ∧
        { t with queues := s.queues, out := s.out, flights := s.flights, pages := s.pages } = s ∧
        (∀ k, k ≠ q.toNat → t.queue k = s.queue k)) ∧
    (r.piRead = .plain → r.pend = false →
      ∃ t, exec (.piReadReturn q (some (BitVec.ofNat 64 r.ci.toNat))) s = .next t ∧
        t.queue q.toNat = { r with piRead := .none, piSeen := r.ci } ∧ { t with queues := u.queues } = u ∧
        (∀ k, k ≠ q.toNat → t.queue k = s.queue k)) ∧
    (∀ (w : Word) ps, r.piRead = .plain → (w.setWidth 32 - r.ci : W32) ≠ 0 →
      (w.setWidth 32 - r.ci : W32).toNat ≤ 2 ^ r.log2 → portRoom u r.home = true →
      qPieces s q.toNat (r.ringBase * 4096 + r.ci.toNat % 2 ^ r.log2 * 64) 64 false = .ok ps →
      ∃ t, exec (.piReadReturn q (some w)) s = .next t ∧
        t.queue q.toNat = { r with piRead := .none, piSeen := w.setWidth 32, fetched := true, entryRead := true,
                                   history := r.history.set r.histNext (r.ci.toNat % 2 ^ r.log2),
                                   histNext := (r.histNext + 1) % 8 } ∧
        t.out = u.out ++ readsOf s r.home ps ∧
        t.flights = u.flights ++ [⟨r.home, .queue q.toNat .entryRead, readsOf s r.home ps, true⟩] ∧
        { t with queues := s.queues, out := s.out, flights := s.flights, pages := s.pages, ctxs := s.ctxs } = s ∧
        (∀ k, k ≠ q.toNat → t.queue k = s.queue k) ∧ (∀ c, { t.ctx c with lastAdv := (s.ctx c).lastAdv } = s.ctx c))

/-- The entry and its fragments (R104 to R106, R110, R129): a well-formed inline entry makes a job that stands at its
first packet with all registers 0; a fragment-list entry has the first line of its table read, and a line that returns
has the fragment it names read into the job's buffer; a fragment that passes its CRC and its checks becomes the job's
next buffer. The scheduler then takes note of what the job stands at (R273). `u` and `v` are the state with the access
completed.
Shared buffers (R106, R135, R163): the queue that has waited longest for a fragment buffer or a constant image of a
slice takes a free one and leaves the list. -/
def Obligations.EntriesAndBuffers : Prop :=
  (∀ (s : State) (q : BitVec 18) (ws : List Word) (r : Queue) (u v : State), r = s.queue q.toNat → s.halted = false →
    q.toNat ≠ 0x3FFFF → u = landed s (.queue q.toNat .entryRead) → v = landed s (.queue q.toNat .fragRead) →
    (∀ pk, r.entryRead = true → r.hold = false → (r.cls = 0 → (s.ctx r.owner).st ≠ .lost ∧ (s.ctx r.owner).lastStatus = ST_OK ∧
        (s.ctx r.owner).aborting = false) → ws.length = 8 → entryStatus r.ci ws = ST_OK →
      fld (wordAt ws 0) 31 30 = 1 → pk = (ws.drop 2).take (fld (wordAt ws 0) 29 27) → checkBuffer r.cls 0 0 pk = ST_OK →
      ∃ t j, exec (.entryReadReturn q (some ws)) s = .next (schedUpdate t (partQ s q.toNat)) ∧ t.job q.toNat = some j ∧
        t.queue q.toNat = { r with entryRead := false, step := r.step + 1 } ∧
        j.entry = ws ∧ j.userTag = wordAt ws 1 ∧ j.phase = .run ∧ j.rank = .none ∧ j.status = ST_OK ∧ j.preds = 0 ∧
        j.d = List.replicate 14 0 ∧ j.d15 = 0 ∧ j.idx = 0 ∧ j.tFetch = s.timebase.toNat ∧
        j.stack = [⟨.inlined, pktsOf pk, 0, [], 0, j.entryVa + 16⟩] ∧
        { t with queues := u.queues, jobs := u.jobs } = u ∧ (∀ k, k ≠ q.toNat → t.job k = s.job k ∧ t.queue k = s.queue k)) ∧
    (∀ ps, r.entryRead = true → r.hold = false → (r.cls = 0 → (s.ctx r.owner).st ≠ .lost ∧ (s.ctx r.owner).lastStatus = ST_OK ∧
        (s.ctx r.owner).aborting = false) → ws.length = 8 → entryStatus r.ci ws = ST_OK →
      fld (wordAt ws 0) 31 30 = 2 → portRoom u r.home = true → qPieces s q.toNat (wordAt ws 2).toNat 64 false = .ok ps →
      ∃ t j, exec (.entryReadReturn q (some ws)) s = .next t ∧ t.job q.toNat = some j ∧
        t.queue q.toNat = { r with entryRead := false, step := r.step + 1 } ∧
        j.entry = ws ∧ j.userTag = wordAt ws 1 ∧ j.phase = .fragTable ∧ j.fragTable = (wordAt ws 2).toNat ∧
        j.fragCount = fld (wordAt ws 3) 15 0 ∧ j.fragNext = 0 ∧ t.out = u.out ++ readsOf s r.home ps ∧
        t.flights = u.flights ++ [⟨r.home, .queue q.toNat .fragRead, readsOf s r.home ps, true⟩] ∧
        (∀ k, k ≠ q.toNat → t.job k = s.job k ∧ t.queue k = s.queue k)) ∧
    (∀ j a n crc ps, s.job q.toNat = some j → j.phase = .fragTable → ws.length = 8 → j.hasBuf = true → j.waitSince = none →
      fragEntry { j with fragLine := ws } = (a, n, crc) → fragOk (a, n, crc) = true →
      portRoom v r.home = true → qPieces s q.toNat a n false = .ok ps →
      ∃ t, exec (.fragmentReadReturn q (some ws)) s = .next t ∧
        t.job q.toNat = some { j with fragLine := ws, phase := .fragRead } ∧ t.out = v.out ++ readsOf s r.home ps ∧
        t.flights = v.flights ++ [⟨r.home, .queue q.toNat .fragRead, readsOf s r.home ps, true⟩] ∧
        { t with jobs := v.jobs, out := v.out, flights := v.flights } = v ∧ (∀ k, k ≠ q.toNat → t.job k = s.job k)) ∧
    (∀ j a n crc, s.job q.toNat = some j → j.phase = .fragRead → fragEntry j = (a, n, crc) → fragOk (a, n, crc) = true →
      ws.length * 8 = n → (r.crc = false ∨ crc32c (bytesOfWords ws) = crc) → checkBuffer r.cls 0 0 ws = ST_OK →
      pktsOf ws ≠ [] →
      ∃ t, exec (.fragmentReadReturn q (some ws)) s = .next (schedUpdate t (partQ s q.toNat)) ∧
        t.job q.toNat = some { j with phase := .run, fragNext := j.fragNext + 1,
                                      stack := [⟨.fragment, pktsOf ws, 0, [], n, a⟩] } ∧
        { t with jobs := v.jobs, pages := v.pages } = v ∧ (∀ k, k ≠ q.toNat → t.job k = s.job k))) ∧
  (∀ (s : State) (k : BitVec 3) (q : Nat) (rest : List Nat) (j : Job), s.halted = false → s.job q = some j →
    (s.queue q).home = k.toNat → j.waitSince = none → j.spillBuf = none → j.spillImg = none →
    ((s.slice k.toNat).fragWait = q :: rest → rest.all (· != q) = true → 0 < (s.slice k.toNat).fragFree → j.phase = .bufWait true →
      ∃ t, exec (.fragmentBufferGrant k) s = .next t ∧
        t.job q = some { j with phase := .run, hasBuf := true } ∧
        t.slice k.toNat = { s.slice k.toNat with fragFree := (s.slice k.toNat).fragFree - 1, fragWait := rest } ∧
        { t with jobs := s.jobs, slices := s.slices } = s ∧ (∀ i, i ≠ q → t.job i = s.job i) ∧
        (∀ i, i ≠ k.toNat → t.slice i = s.slice i)) ∧
    ((s.slice k.toNat).imgWait = q :: rest → rest.all (· != q) = true → 0 < (s.slice k.toNat).imgFree → j.phase = .imgWait →
      j.image = none →
      ∃ t, exec (.constImageGrant k) s = .next t ∧
        t.job q = some { j with phase := .run, image := some [] } ∧
        t.slice k.toNat = { s.slice k.toNat with imgFree := (s.slice k.toNat).imgFree - 1, imgWait := rest } ∧
        { t with jobs := s.jobs, slices := s.slices } = s ∧ (∀ i, i ≠ q → t.job i = s.job i) ∧
        (∀ i, i ≠ k.toNat → t.slice i = s.slice i)))

/-- The end of a job (R44, R110, R116, R119): with its packets ended, its tokens returned, its atomics complete, and no
deferred signal or watch left, its completion record of 64 bytes is written over its entry; then CI is written; then CI
and the count of completed entries advance, the queue is free to fetch, and the job is gone. Each write leaves on the home
slice's port, which has room for it; `u` and `v` are the state with the record's and the CI's write completed. A request
that received RetryAck is made again when its credit comes (R45). -/
def Obligations.JobEnd : Prop :=
  ∀ (s : State) (q : BitVec 18) (j : Job) (r : Queue) (u v : State), r = s.queue q.toNat → s.job q.toNat = some j →
    s.halted = false → u = landed s (.queue q.toNat .recordWrite) → v = landed s (.queue q.toNat .ciWrite) →
    (∀ m ps, j.phase = .drained → openRecs s q.toNat = 0 → j.atomics = 0 → j.deferred = [] → j.layers = [] →
      s.loe.watches = [] → portRoom s r.home = true → qPieces s q.toNat j.entryVa 64 true = .ok ps →
      (let j1 := { j with tDone := s.timebase.toNat, phase := .record }
       let os := writesOf s r.home ps (recordBytes r j1)
       ∃ t, exec (.jobCompletion q m) s = .next t ∧ t.job q.toNat = some j1 ∧ t.out = s.out ++ os ∧
        t.flights = s.flights ++ [⟨r.home, .queue q.toNat .recordWrite, os, true⟩] ∧
        { t with jobs := s.jobs, out := s.out, flights := s.flights } = s ∧ (∀ k, k ≠ q.toNat → t.job k = s.job k))) ∧
    (∀ ps, j.phase = .record → portRoom u r.home = true → qPieces s q.toNat (r.idxLine * 64 + 8) 8 true = .ok ps →
      (let os := writesOf s r.home ps (leBytes 8 ((r.ci + 1).toNat))
       ∃ t, exec (.completionRecordComplete q true) s = .next t ∧ t.job q.toNat = some { j with phase := .ciWrite } ∧
        t.out = u.out ++ os ∧ t.flights = u.flights ++ [⟨r.home, .queue q.toNat .ciWrite, os, true⟩] ∧
        { t with jobs := s.jobs, out := s.out, flights := s.flights } = s ∧ (∀ k, k ≠ q.toNat → t.job k = s.job k))) ∧
    (j.phase = .ciWrite → q.toNat ≠ 0x3FFFF → j.image = none → j.spillImg = none → r.ntfEn = false → jobStatus j = ST_OK →
      (r.hold = true ∨ (r.piSeen = r.ci + 1 ∧ r.pend = false ∧ r.freshDue = false ∧ r.pollHeld = false)) →
      ∃ t, exec (.ciWriteComplete q true) s = .next t ∧ t.job q.toNat = none ∧
        t.queue q.toNat = { r with ci := r.ci + 1, completed := r.completed + 1, fetched := false,
                                   st := if r.st = .disabling then .disabled else r.st } ∧
        { t with jobs := v.jobs, queues := v.queues, pages := v.pages } = v ∧
        (∀ k, k ≠ q.toNat → t.queue k = s.queue k ∧ t.job k = s.job k)) ∧
    (∀ f, s.flights.find? (fun f => f.who == .queue q.toNat .piRead && f.sent) = some f →
      exec (.pcrdGrant q .piRead) s = .next (emits s f.outs))

/-! ## Packets -/

/-- Retirement (R125, R273, R343): a packet that holds no handle retires by moving the job's call stack as the packet says
(`g`; `retire` moves past the packet); the context's PACKETS counts it and LAST_ADV takes the time, and the job stands at
the next packet with its waits ended; behind the last packet of an inlined stream the stream has ended. The scheduler then
takes note of what the partition's jobs stand at: it changes the contexts' eligibility and credit, and what is current in
that partition. Nothing else changes. -/
def Obligations.Retirement : Prop :=
  ∀ (s : State) (q : Nat) (j : Job) (g : List Frame → List Frame) (f : Frame) (fs : List Frame),
    s.job q = some j → j.held = [] → g j.stack = f :: fs →
    let j1 := { j with
      idx := j.idx + 1, phase := .run, decoded := false, priorCounted := false, schedCounted := false, fanReady := none,
      holdSince := none, waitSince := none, stack := f :: fs }
    let c := (s.queue q).owner
    let t := retireStack s q g
    (f.pc < f.pkts.length → t.job q = some j1) ∧
    (f.pkts.length ≤ f.pc → f.kind = .inlined → j.hasBuf = false → j.spillBuf = none →
      t.job q = some { j1 with phase := .drained }) ∧
    (f.pc < f.pkts.length ∨ (f.kind = .inlined ∧ j.hasBuf = false ∧ j.spillBuf = none) →
      (∀ i, i ≠ q → t.job i = s.job i) ∧
      (t.ctx c).packets = (s.ctx c).packets + 1 ∧ (t.ctx c).lastAdv = s.now ∧
      (∀ i, i ≠ c → { t.ctx i with eligible := (s.ctx i).eligible, deficit := (s.ctx i).deficit } = s.ctx i) ∧
      { t.ctx c with eligible := (s.ctx c).eligible, deficit := (s.ctx c).deficit, packets := (s.ctx c).packets,
                     lastAdv := (s.ctx c).lastAdv } = s.ctx c ∧
      (∀ p, p ≠ partQ s q → t.part p = s.part p) ∧
      { t.part (partQ s q) with cur := (s.part (partQ s q)).cur, sliceEnd := (s.part (partQ s q)).sliceEnd } =
        s.part (partQ s q) ∧
      (∀ p, p ≠ pgSCH → t.page p = s.page p) ∧
      { t with jobs := s.jobs, ctxs := s.ctxs, parts := s.parts, pages := s.pages } = s) ∧
    retire s q = retireStack s q bumpTop

/-- Predication (R134): with PE = 1 a packet executes when P[PIDX] XOR PINV is 1; otherwise it retires at once without
effect, whatever its opcode (a read of a version area that fails apart, R341): it counts in PACKET_INDEX, the job stands
behind it with its registers and predicates as they were, and nothing leaves a port. -/
def Obligations.PredicatedOff : Prop :=
  ∀ (s : State) (q : BitVec 18) (j : Job) (ws : List Word) (m : MemView) (fw : FwRun) (r : RunResult) (im : List Byte),
    s.job q.toNat = some j → curPkt j = some ws → s.halted = false → j.phase = .run →
    sliceUp s (s.queue q.toNat).home = true → (s.slice (s.queue q.toNat).home).paused = false → areaFault s q.toNat j = none →
    (bitAt (hdrOf ws) 39 = true →
      (predOn j (hdrOf ws) = true ↔ (j.preds.getLsbD (fld (hdrOf ws) 34 32) ^^ bitAt (hdrOf ws) 38) = true)) ∧
    (bitAt (hdrOf ws) 39 = false → predOn j (hdrOf ws) = true) ∧
    (predOn j (hdrOf ws) = false →
      (let k := pgPKD (s.queue q.toNat).home
       let off (u : State) := retire (count (count u k 0) k 1) q.toNat
       let t := off s
       (∀ p ∈ [(0x00, Instr.nop q), (0x01, .launch q m), (0x02, .launchIndirect q m), (0x03, .copy q), (0x04, .fill q),
          (0x05, .setConst q m), (0x06, .loadImem q m), (0x07, .fanStream q m), (0x10, .waitFence q m),
          (0x11, .signalFence q m), (0x12, .waitCount q m), (0x13, .credit q m), (0x14, .barrierArm q),
          (0x20, .ifPkt q m), (0x21, .elsePkt q), (0x22, .endif q), (0x23, .loop q m), (0x24, .endloop q),
          (0x25, .callBuffer q m), (0x26, .returnPkt q), (0x30, .graphRun q m fw),
          (0x31, .graphPatch q m), (0x32, .deadline q), (0x33, .fallback q), (0x40, .tag q), (0x41, .phaseHint q),
          (0x42, .timestamp q), (0x43, .watch q), (0x50, .alloc q), (0x51, .free q), (0x52, .query q),
          (0x80, .contextCreate q), (0x81, .contextDestroy q), (0x83, .bind q m), (0x84, .unbind q m),
          (0x85, .epochSwap q), (0x86, .setShares q), (0x87, .regulatorSet q), (0x88, .selftest q r),
          (0x89, .unitReset q), (0x8A, .retrain q), (0x8B, .fwActivate q im), (0xC0, .keyInstall q),
          (0xC1, .keyRevoke q), (0xC2, .sealPartition q), (0xC3, .measureReport q)],
          opOf (hdrOf ws) = p.1 → exec p.2 s = .next t) ∧
       (∀ b, opOf (hdrOf ws) = 0x82 →
          exec (if pktFlag s q.toNat 0 then .queueRelease q else .queueCreate q b) s = .next t) ∧
       (opOf (hdrOf ws) = 0x27 → exec (.callRoutine q m fw) s = .next (off (routineTurn s q.toNat))) ∧
       (∀ f fs, j.stack = f :: fs → f.pc + 1 < f.pkts.length → j.held = [] →
         ∃ j', t.job q.toNat = some j' ∧ j'.idx = j.idx + 1 ∧ j'.stack = { f with pc := f.pc + 1 } :: fs ∧
           j'.d = j.d ∧ j'.d15 = j.d15 ∧ j'.preds = j.preds ∧ t.out = s.out)))

/-- NOP and the block packets (R134, R136, R137), at their packet: NOP retires. IF reads a register or 8 bytes, applies
the mask and the comparison, and opens a block whose branch is not taken by moving to its ELSE or ENDIF, or writes a
predicate; ELSE after a taken branch moves to its ENDIF; ENDIF closes the block; LOOP latches its count, and with 0 moves
to its ENDLOOP; ENDLOOP begins the body again while iterations are left, else closes the loop. Each then retires. -/
def Obligations.ControlPackets : Prop :=
  ∀ (s : State) (q : BitVec 18) (j : Job) (ws : List Word) (m : MemView) (u : State), u = countDecoded s q.toNat →
    (AtPacket s q.toNat 0x00 j ws → exec (.nop q) s = .next (retire u q.toNat)) ∧
    (∀ v c : _, AtPacket s q.toNat 0x20 j ws →
      (if flagsOf (hdrOf ws) % 4 = 1 then v = dreg j (fld (wordAt ws 1) 3 0)
       else readWordOp u q.toNat (wordAt ws 1) (wordAt ws 2) m = .ok v) →
      c = compare (flagsOf (hdrOf ws) / 4 % 8) (v &&& wordAt ws 4) (wordAt ws 3) →
      ((flagsOf (hdrOf ws)).testBit 8 = false → (flagsOf (hdrOf ws)).testBit 9 = false →
        exec (.ifPkt q m) s = .next (retireStack u q.toNat (onTop (fun f =>
          { f with blocks := .ifb c :: f.blocks,
                   pc := if c then f.pc + 1 else findElse true (f.pkts.drop (f.pc + 1)) (f.pc + 1) 0 })))) ∧
      ((flagsOf (hdrOf ws)).testBit 8 = true → (flagsOf (hdrOf ws)).testBit 9 = true →
        exec (.ifPkt q m) s = .next (retireWith u q.toNat (fun j =>
          { j with preds := if c then j.preds ||| BitVec.ofNat 8 (2 ^ (flagsOf (hdrOf ws) / 32 % 8))
                            else j.preds &&& ~~~(BitVec.ofNat 8 (2 ^ (flagsOf (hdrOf ws) / 32 % 8))) })))) ∧
    (AtPacket s q.toNat 0x21 j ws →
      exec (.elsePkt q) s = .next (retireStack u q.toNat (onTop (fun f =>
        { f with pc := (if (match f.blocks with | .ifb b :: _ => b | _ => false) = true
                        then findElse false (f.pkts.drop (f.pc + 1)) (f.pc + 1) 0 else f.pc + 1) })))) ∧
    (AtPacket s q.toNat 0x22 j ws →
      exec (.endif q) s = .next (retireStack u q.toNat (onTop (fun f =>
        { f with blocks := f.blocks.drop 1, pc := f.pc + 1 })))) ∧
    (∀ n, AtPacket s q.toNat 0x23 j ws →
      (if flagsOf (hdrOf ws) % 4 = 0 then n = fld (wordAt ws 1) 31 0
       else if flagsOf (hdrOf ws) % 4 = 1 then n = (dreg j (fld (wordAt ws 1) 3 0)).toNat
       else (readWordOp u q.toNat (wordAt ws 1) (wordAt ws 2) m).map (·.toNat) = .ok n) →
      exec (.loop q m) s = .next (retireStack u q.toNat (onTop (fun f =>
        { f with blocks := .loopb (f.pc + 1) 0 (min n 0xFFFFFFFF) :: f.blocks,
                 pc := if n = 0 then findEndloop (f.pkts.drop (f.pc + 1)) (f.pc + 1) 0 else f.pc + 1 })))) ∧
    (∀ f fs body i n bs, AtPacket s q.toNat 0x24 j ws → j.stack = f :: fs → f.blocks = .loopb body i n :: bs →
      ∃ g, exec (.endloop q) s = .next (retireStack u q.toNat g) ∧
        g (f :: fs) = (if i + 1 < n then { f with blocks := .loopb body (i + 1) n :: bs, pc := body }
                       else { f with blocks := bs, pc := f.pc + 1 }) :: fs)

/-- CALL_BUFFER and RETURN (R138, R139): a buffer within the depth and the space, with its CRC right where the queue
checks it and its packets right, is read and executes one level down; RETURN one level down goes on behind its call, and
at level 0 it ends the stream. -/
def Obligations.CallPackets : Prop :=
  ∀ (s : State) (q : BitVec 18) (j : Job) (ws : List Word) (m : MemView) (u : State), u = countDecoded s q.toNat →
    (∀ bs va h, AtPacket s q.toNat 0x25 j ws → j.stack.length ≤ 16 → j.hasBuf = true →
      (j.stack.map (·.bytes)).sum + fld (wordAt ws 3) 16 0 ≤ 65536 →
      readOp u q.toNat (wordAt ws 1) (wordAt ws 2) (fld (wordAt ws 3) 16 0) m = .ok bs →
      resolveMref (u.ctx (u.queue q.toNat).owner) (wordAt ws 1) (wordAt ws 2) (fld (wordAt ws 3) 16 0) false = .ok (va, h) →
      ((s.queue q.toNat).crc = true → crc32c bs = fld (wordAt ws 3) 63 32) →
      checkBuffer (s.queue q.toNat).cls (openIfs j) (openLoops j) (wordsOfBytes bs) = ST_OK →
      exec (.callBuffer q m) s =
        .next (retireStack (count (count u (pgPKD (s.queue q.toNat).home) 5) pgFET 7 (fld (wordAt ws 3) 16 0)) q.toNat
          (fun st => { kind := .called, pkts := pktsOf (wordsOfBytes bs), pc := 0, blocks := [],
                       bytes := fld (wordAt ws 3) 16 0, va := va } :: bumpTop st))) ∧
    (∀ f fs, AtPacket s q.toNat 0x26 j ws → j.stack = f :: fs → fs ≠ [] → f.kind = .called →
      ∃ g, exec (.returnPkt q) s = .next (retireStack u q.toNat g) ∧ g (f :: fs) = fs) ∧
    (∀ f, AtPacket s q.toNat 0x26 j ws → j.stack = [f] →
      exec (.returnPkt q) s = .next (endStream (retireStack u q.toNat (fun _ => [])) q.toNat))

/-- SET_CONST, TIMESTAMP, TAG, WATCH and PHASE_HINT at their packet (R135, R142, R144, R217, R325, R358). SET_CONST
writes its words into the job's image from its offset; a job without an image takes a free one of its slice. TIMESTAMP
writes the time to a register or to 8 bytes of memory. TAG puts its identifiers into the job; a TAG of another layer makes
that layer the partition's current one and begins a new epoch of the job. WATCH arms the sixteenth watch of a context or an
earlier one. A hint for a layer without a learner entry leaves its duration. Each packet retires. -/
def Obligations.DataPackets : Prop :=
  ∀ (s : State) (q : BitVec 18) (j : Job) (ws : List Word) (m : MemView) (u : State), u = countDecoded s q.toNat →
    let c := (s.queue q.toNat).owner
    (∀ ds im, AtPacket s q.toNat 0x05 j ws → j.image = some im →
      (if flagsOf (hdrOf ws) % 2 = 1 then
         (readOp u q.toNat (wordAt ws 2) (wordAt ws 3) (fld (wordAt ws 1) 28 16) m).map wordsOfBytes = .ok ds
       else ds = ws.drop 2) →
      exec (.setConst q m) s = .next (retireWith u q.toNat (fun j =>
        { j with image := j.image.map (fun im => setConstWords im (fld (wordAt ws 1) 11 0 / 8) ds) }))) ∧
    (AtPacket s q.toNat 0x42 j ws → flagsOf (hdrOf ws) % 2 = 1 →
      exec (.timestamp q) s = .next (retireWith u q.toNat (fun j => setD j (immOf (hdrOf ws) % 16) s.timebase))) ∧
    (∀ t, AtPacket s q.toNat 0x42 j ws → flagsOf (hdrOf ws) % 2 = 0 →
      writeOp u q.toNat (wordAt ws 1) (wordAt ws 2) (leBytes 8 s.now) = .ok t →
      exec (.timestamp q) s = .next (retire t q.toNat)) ∧
    (∀ layer operator, AtPacket s q.toNat 0x40 j ws → layer = BitVec.ofNat 32 (fld (wordAt ws 1) 31 0) →
      operator = BitVec.ofNat 32 (fld (wordAt ws 1) 63 32) → s.loe.trace.owner = none → layer = j.layer →
      exec (.tag q) s = .next (retireWith u q.toNat (fun j => { j with operator := operator }))) ∧
    (∀ layer operator t, AtPacket s q.toNat 0x40 j ws → layer = BitVec.ofNat 32 (fld (wordAt ws 1) 31 0) →
      operator = BitVec.ofNat 32 (fld (wordAt ws 1) 63 32) → s.loe.trace.owner = none → layer ≠ j.layer →
      outerGraph j = none → t = veldLayer u (partQ u q.toNat) layer →
      exec (.tag q) s = .next (retire (endLayers (modJob t q.toNat (fun j =>
        { j with layer := layer, operator := operator, epochOpen := false, deferralPass := false })) q.toNat) q.toNat)) ∧
    (∀ a b, AtPacket s q.toNat 0x43 j ws →
      resolveMref (u.ctx c) (wordAt ws 1) (wordAt ws 2) (fld (wordAt ws 5) 31 0) false = .ok a →
      resolveMref (u.ctx c) (wordAt ws 3) (wordAt ws 4) (64 + fld (wordAt ws 5) 31 0) true = .ok b →
      (u.loe.watches.filter (fun w => w.ctx == c)).length < 16 →
      exec (.watch q) s = .next (retire { u with loe := { u.loe with watches := u.loe.watches ++
        [{ ctx := c, q := q.toNat, tensor := (wordAt ws 1, wordAt ws 2), dump := (wordAt ws 3, wordAt ws 4),
           size := fld (wordAt ws 5) 31 0, base := (u.queue q.toNat).step, step := fld (wordAt ws 5) 63 32 }] } } q.toNat)) ∧
    (AtPacket s q.toNat 0x41 j ws →
      exec (.phaseHint q) s = .next (retire (takeHint u (partQ u q.toNat) (BitVec.ofNat 32 (fld (wordAt ws 1) 31 0))
        (fld (wordAt ws 1) 55 32)) q.toNat)) ∧
    (∀ p layer us, learnFind u p layer = none → us ≠ 0 →
      takeHint u p layer us = u.setPart p { u.part p with hintDur := some (layer, us * 1000) }) ∧
    (∀ p : BitVec 8, ∃ t, exec (.hintExpiry p) s = .next t ∧ t.part p.toNat = { s.part p.toNat with target6 := none } ∧
      { t with parts := s.parts } = s ∧ ∀ i, i ≠ p.toNat → t.part i = s.part i)

/-- DEADLINE, FALLBACK and the switch (R219 to R222): DEADLINE records an absolute time or one from now, FALLBACK a stored
graph, unless the job's deadline has been judged already. At a layer boundary of a watched run a prediction within the
deadline changes nothing but the account of checks; a predicted miss without a fallback is recorded with outcome 2 and the
TAG executes. A switch, once every token is in, goes on at the fallback's segment and packet of the layer, or at its start
where the fallback does not list the layer, under the fallback's newest version. -/
def Obligations.DeadlinePackets : Prop :=
  ∀ (s : State) (q : BitVec 18) (j : Job) (ws : List Word) (u : State), u = countDecoded s q.toNat →
    let c := (s.queue q.toNat).owner
    (AtPacket s q.toNat 0x32 j ws → j.dlDone = false →
      exec (.deadline q) s = .next (retireWith u q.toNat (fun j =>
        { j with deadline := some (if flagsOf (hdrOf ws) % 2 = 1 then (wordAt ws 1).toNat + s.now else (wordAt ws 1).toNat) }))) ∧
    (AtPacket s q.toNat 0x32 j ws → j.dlDone = true → exec (.deadline q) s = .next (retire u q.toNat)) ∧
    (∀ i g, AtPacket s q.toNat 0x33 j ws → j.dlDone = false →
      resolveHandle (u.ctx c) (fld (wordAt ws 1) 31 0) = .ok i → u.graph (graphKey c i) = some g →
      exec (.fallback q) s =
        .next (retireWith u q.toNat (fun j => { j with fallback := some (fld (wordAt ws 1) 31 0) }))) ∧
    (AtPacket s q.toNat 0x33 j ws → j.dlDone = true → exec (.fallback q) s = .next (retire u q.toNat)) ∧
    (∀ layer r h f fs g slot g0 i0 sg h0 img, s.job q.toNat = some j → j.phase = .switchWait layer → j.run = some r →
      j.fallback = some h → j.stack = f :: fs → f.kind = .graph g0 i0 sg h0 → s.graph (graphKey c (hIdx h)) = some g →
      newestSlot g = some slot → s.halted = false → tokensDone s q.toNat = true → sliceUp s (s.queue q.toNat).home = true →
      img = (gslot s (graphKey c (hIdx h)) slot).image →
      let key := graphKey c (hIdx h)
      let t := pinSlot (pinSlot s key slot (· + 1)) g0 i0 (· - 1)
      let go (seg pc : Nat) := settle (modJob t q.toNat (fun j =>
        { j with phase := .run, decoded := false, stack := graphFrame img key slot seg (hIdx h) pc :: fs,
                 run := some { r with gkey := key, slot := slot, index := 0 } })) q.toNat
      ((∀ i, i < imgLayers img → (imgLayer img i).1 ≠ layer) → exec (.fallbackSwitch q) s = .next (go 0 0)) ∧
      (∀ i seg word est pc p, (List.range (imgLayers img)).find? (fun k => (imgLayer img k).1 == layer) = some i →
        imgLayer img i = (layer, seg, word, est) → pktAt (imgSegPkts img seg) 0 word = some (pc, p) →
        exec (.fallbackSwitch q) s = .next (go seg pc)))

/-- GRAPH_RUN and GRAPH_PATCH (R211 to R214). GRAPH_RUN pins the version it names, holds the handles of the graph and of
its arguments, puts the arguments into D0 upward and goes on in segment 0 one level down; the outermost run of a job is
the one the deadline watches; an exception of the processor halts the block with cause 5 (R351, log 39). GRAPH_PATCH of
an object that is not yet stored takes a record and a slot; the new version is the source with the patches applied, is
the newest, takes the next number, and its number goes to the register the packet names. -/
def Obligations.GraphPackets : Prop :=
  ∀ (s : State) (q : BitVec 18) (j : Job) (ws : List Word) (m : MemView) (u : State), u = countDecoded s q.toNat →
    let c := (s.queue q.toNat).owner
    (∀ fw w i r slot vs img ah, AtPacket s q.toNat 0x30 j ws →
      w = traceInstructions u (s.queue q.toNat).home fw.proc.toNat c fw → fw.exception = false →
      resolveHandle (w.ctx c) (fld (wordAt ws 1) 31 0) = .ok i →
      w.graph (graphKey c i) = some r → runSlot r (fld (wordAt ws 1) 39 32) = some slot →
      j.stack.length ≤ 16 → img = (gslot w (graphKey c i) slot).image → ah = (argsHandle img j.stack).toList →
      (if imgArgs img = 0 then vs = []
       else if noneOp (wordAt ws 2) (wordAt ws 3) = true then vs = List.replicate (imgArgs img) 0
       else (readOp w q.toNat (wordAt ws 2) (wordAt ws 3) (8 * imgArgs img) m).map wordsOfBytes = .ok vs) →
      exec (.graphRun q m fw) s = .next (settle (modJob (pinSlot ((i :: ah).foldl (fun t x => holdHandle t c x) w) (graphKey c i) slot (· + 1))
          q.toNat (fun x =>
        let k := setArgs 0 vs x
        { k with idx := k.idx + 1, heldKeep := i :: ah ++ k.heldKeep, decoded := false, priorCounted := false, schedCounted := false,
                 stack := graphFrame img (graphKey c i) slot 0 i 0 :: k.stack,
                 run := if k.stack.any isGraph then k.run
                        else some ⟨graphKey c i, slot, 0, k.stack.length, fw.proc.toNat⟩ })) q.toNat)) ∧
    (∀ fw, AtPacket s q.toNat 0x30 j ws → fw.exception = true →
      exec (.graphRun q m fw) s =
        .next (haltBlock (traceInstructions u (s.queue q.toNat).home fw.proc.toNat c fw) 5 ST_OK q.toNat)) ∧
    (∀ i h src s0 s1, AtPacket s q.toNat 0x31 j ws → j.held = [] →
      resolveHandle (u.ctx c) (fld (wordAt ws 1) 31 0) = .ok i →
      (if noneOp (wordAt ws 2) (wordAt ws 3) = true then h = none
       else (resolveMref (u.ctx c) (wordAt ws 2) (wordAt ws 3) 16 false).map (·.2) = .ok h) →
      s0 = holdPacket (holdPacket u q.toNat (some i)) q.toNat h → patchFree s0 (graphKey c i) q.toNat = true →
      s1 = { s0 with patchLine := s0.patchLine.filter (·.2 != q.toNat) } →
      s1.graph (graphKey c i) = none → patchSource s1 c i (graphKey c i) (fld (wordAt ws 1) 39 32) m = .ok src →
      graphCount s1 < 16384 →
      exec (.graphPatch q m) s = .next (finishPatch (s1.setGraph (graphKey c i) (some
        { slots := [{ GSlot.reset with st := .storing }, GSlot.reset, GSlot.reset, GSlot.reset], last := 0,
          patching := some q.toNat })) q.toNat i (graphKey c i) 0 src ws m)) ∧
    (∀ i key slot src tb s1 s2 k bs img r v ps key',
      let h := handleAt (u.ctx c) i
      let bytes := imgNat src 24 4
      let n := ceilDiv bytes 65536
      let pool := poolOf u (u.ctx c).part c
      (u.ctx c).used + n ≤ (u.ctx c).quota → n ≤ poolFree pool → tb = takeTables n pool →
      s1 = putPool (u.setCtx c { u.ctx c with used := (u.ctx c).used + n }) (u.ctx c).part tb.2 →
      readPatches s1 q.toNat (heldOf u q.toNat) (wordAt ws 2) (wordAt ws 3) m = .ok (some (k, bs)) → applyPatches k bs src = some img →
      imageOk s1 c h.size img = true → s1.graph key = some r →
      v = nextVersion 8 ((r.slots.filter (fun y => y.st == .newest || y.st == .superseded)).map (·.version)) r.last →
      key' = (match pageOf (u.ctx c) h.base with | some p => p.key | none => 0) →
      ps = (List.range n).map (fun g => (tb.1.getD g 0 * 65536, key', min 65536 (bytes - 65536 * g))) →
      s2 = s1.setGraph key (some { r with
        slots := (r.slots.map (fun y => if y.st == .newest then { y with st := .superseded } else y)).set slot
          { version := v, st := .newest, pins := 0, image := img, bytes := bytes, grans := tb.1, key := key',
            order := (r.slots.map (·.order)).foldl max 0 + 1 },
        last := v }) → badPiece s2 ps = none →
      finishPatch u q.toNat i key slot src ws m =
        retireWith (dropPatch (emits s2 (writesOf s2 (portQ u q.toNat) ps ((bytesOfWords img).take bytes))) q.toNat) q.toNat
          (fun j => setD j (fld (wordAt ws 1) 51 48) (BitVec.ofNat 64 v)))

/-- LAUNCH, LAUNCH_INDIRECT, COPY and FILL with their operands right (R180 to R185, Table 7.6): a launch whose
descriptor is valid, runs over no empty loop, does not decrypt, stays in the scratchpad share and in 256 segments and
names no DEFECT unit becomes one command; LAUNCH_INDIRECT reads its GRID word from memory first and holds that operand's
handle too; COPY and FILL become the commands that the engine's limits ask for. A command with a free record and free
slots leaves at once, and the packet retires after the last. An empty rectangle, a loop of 0 iterations and a size of 0
only retire. -/
def Obligations.LaunchPackets : Prop :=
  ∀ (s : State) (q : BitVec 18) (j : Job) (ws : List Word) (m : MemView) (u : State),
    u = count (countDecoded s q.toNat) pgLCH 0 →
    let c := (s.queue q.toNat).owner
    let good (u : State) (target : Nat) (grid a b tail : Word) (t : State) : Prop :=
      ∃ es va dh bytes bl, rectEps (membersQ u q.toNat) target grid = some es ∧ es ≠ [] ∧ target ≤ 2 ∧
        resolveMref (u.ctx c) a b (8 * fld tail 15 0) false = .ok (va, dh) ∧
        vRead u c va (8 * fld tail 15 0) m = .ok bytes ∧
        (let d := wordsOfBytes bytes
         descOk (membersQ u q.toNat) d = true ∧ (loopCounts d).contains 0 = false ∧
         ¬ (target = 1 ∧ 1 ≤ descArgs d ∧ bitAt (wordAt d (argBase d)) 63 = true) ∧
         (∀ i, i < descRegs d → (regionAt d (regBase d) i).kind = 0 →
           spadOk (u.ctx c) (loopCounts d) (regionAt d (regBase d) i) = true) ∧
         buildRegions (u.ctx c) (loopCounts d) (regBase d) (List.range (descRegs d)) { desc := d, segs := [], handles := [] } =
           .ok bl ∧ bl.segs.length ≤ 256 ∧ splitDefect u es = (es, none) ∧
         t = startPlan u q.toNat
           { ecmd := if target = 0 then 1 else if target = 1 then 2 else 4, targets := es,
             cmds := [{ desc := bl.desc, segs := bl.segs }], imemGen := fld tail 31 16, constWords := fld tail 41 32,
             depEp := (depOf (membersQ u q.toNat) (wordAt d 0)).getD none, depWait := fld (wordAt d 0) 23 16, record := none,
             need := [], handles := [] } (dh.toList ++ bl.handles))
    (∀ t, AtPacket s q.toNat 0x01 j ws →
      good u (flagsOf (hdrOf ws) % 4) (wordAt ws 1) (wordAt ws 2) (wordAt ws 3) (wordAt ws 4) t →
      exec (.launch q m) s = .next t) ∧
    (AtPacket s q.toNat 0x01 j ws → rectEps (membersQ u q.toNat) (flagsOf (hdrOf ws) % 4) (wordAt ws 1) = some [] →
      exec (.launch q m) s = .next (retire u q.toNat)) ∧
    (∀ t g, AtPacket s q.toNat 0x02 j ws → readWordOp u q.toNat (wordAt ws 1) (wordAt ws 2) m = .ok g →
      good (holdPacket u q.toNat (mrefIdx (wordAt ws 1))) (flagsOf (hdrOf ws) % 4) g (wordAt ws 3) (wordAt ws 4) (wordAt ws 5) t →
      exec (.launchIndirect q m) s = .next t) ∧
    (∀ e a ha b hb, AtPacket s q.toNat 0x03 j ws → copyEp (membersQ u q.toNat) (fld (wordAt ws 5) 63 48) = some e →
      resolveMref (u.ctx c) (wordAt ws 1) (wordAt ws 2) (fld (wordAt ws 5) 47 0) false = .ok (a, ha) →
      resolveMref (u.ctx c) (wordAt ws 3) (wordAt ws 4) (fld (wordAt ws 5) 47 0) true = .ok (b, hb) →
      exec (.copy q) s = .next (moveRegions u q.toNat 2 e (fld (wordAt ws 5) 47 0) [(1, a, ha), (2, b, hb)] [])) ∧
    (∀ e a ha, AtPacket s q.toNat 0x04 j ws → copyEp (membersQ u q.toNat) (fld (wordAt ws 3) 63 48) = some e →
      resolveMref (u.ctx c) (wordAt ws 1) (wordAt ws 2) (fld (wordAt ws 3) 47 0) true = .ok (a, ha) →
      exec (.fill q) s = .next (moveRegions u q.toNat 3 e (fld (wordAt ws 3) 47 0) [(2, a, ha)] [wordAt ws 4])) ∧
    (∀ ecmd e size regs args, (size = 0 → moveRegions u q.toNat ecmd e size regs args = retire u q.toNat) ∧
      (∀ rs, size ≠ 0 → (u.ep e).unit.st ≠ .defect → rs = regs.map (fun r => (r.1, segsOf (u.ctx (u.queue q.toNat).owner) r.2.1 size)) →
        moveRegions u q.toNat ecmd e size regs args = startPlan u q.toNat
          { ecmd := ecmd, targets := [e],
            cmds := splitCmds ((rs.map (fun r => r.2.length)).sum + size / 2 ^ 30 + 1) rs args size,
            imemGen := 0, constWords := 0, depEp := none, depWait := 0, record := none, need := [], handles := [] }
          (regs.flatMap (fun r => r.2.2.toList)))) ∧
    (∀ n p cmd r s1 s2, p.cmds = [cmd] → p.record = none → (u.lane (u.queue q.toNat).home).recWait = [] →
      freeRec u (u.queue q.toNat).home = some r →
      s1 = putRec u (u.queue q.toNat).home r {
        purpose := .job q.toNat, ctx := (u.queue q.toNat).owner, layer := 0,
        operator := 0, pidx := 0, await := [], held := [], since := u.now } →
      reserveSlots p.targets s1 = (s2, []) →
      runPlan (n + 2) u q.toNat p = retire (issueCmd s2 q.toNat { p with record := some r, need := [] } cmd r) q.toNat)

/-- The engine command that a launch sends (R178, Table 7.2): one message for each hub run of its targets, with the
descriptor, the constants and the segments behind the first beat; each target holds one more unretired command, with the
command's TAG and context.
The grants of a launch (R186, R187): a slot goes to the launch that has waited longest among those that need it, which
leaves once it needs no further one; a free record goes to the launch that has waited longest for one. With nobody waiting
nothing changes. -/
def Obligations.EngineCommands : Prop :=
  (∀ (s : State) (lane : Nat) (h : CmdHead) (es : List Nat) (desc consts : List Word) (segs : List (Nat × Nat × Nat)),
    es.Nodup → h.depEp = none →
    let t := sendCommand s lane h es desc consts segs
    (∀ e, (t.ep e).cmds = if e ∈ es then (s.ep e).cmds ++ [(h.tag, h.ctx)] else (s.ep e).cmds) ∧
    t.out = s.out ++ (hubRuns es).map (fun r => Out.ecp lane 0 r.1 r.2.1 r.2.2
      (beatWords (cmdBeat h desc.length consts.length (segs.flatMap segWords).length ||| (r.2.1 <<< 128)) ++
       padBeats (padBeats desc ++ padBeats consts ++ padBeats (segs.flatMap segWords)))) ∧
    (∀ e, { t.ep e with cmds := (s.ep e).cmds } = s.ep e) ∧
    { t with eps := s.eps, out := s.out, pages := s.pages } = s) ∧
  (∀ (s : State) (q : Nat) (j : Job) (p : Plan), s.job q = some j → s.halted = false →
    (∀ e : BitVec 14, s.slotWait.find? (fun x => (needOf s x).contains e.toNat) = some q → j.phase = .slotWait p →
      slotFree s e.toNat = true →
      (let need := p.need.filter (· != e.toNat)
       let s1 := s.setEp e.toNat { s.ep e.toNat with reserved := (s.ep e.toNat).reserved + 1 }
       (need ≠ [] → exec (.slotGrant e) s = .next (modJob s1 q (fun j => { j with phase := .slotWait { p with need := need } }))) ∧
       (need = [] → exec (.slotGrant e) s = .next (runPlan (2 * p.cmds.length + 1)
         (modJob (chargeWait { s1 with slotWait := s1.slotWait.filter (· != q) } q) q (fun j => { j with phase := .run })) q
         { p with need := [] })))) ∧
    (∀ (k : BitVec 3) rest r, (s.lane k.toNat).recWait = q :: rest → freeRec s k.toNat = some r → j.phase = .recWait p →
      (let s1 := s.setLane k.toNat { s.lane k.toNat with recWait := [] }
       let s2 := runPlan (2 * p.cmds.length + 1) (chargeWait (modJob s1 q (fun j => { j with phase := .run })) q) q p
       exec (.launchRecordGrant k) s =
         .next (s2.setLane k.toNat { s2.lane k.toNat with recWait := rest ++ (s2.lane k.toNat).recWait }))) ∧
    (∀ k : BitVec 3, (s.lane k.toNat).recWait = [] → exec (.launchRecordGrant k) s = .next s))

/-- LOAD_IMEM and its issue (R195, R197, R198): a container that passes every check is queued as a load and its targets
are held, so that launches which wait at step 7 give up what they reserved there; the issue of a load whose targets have
retired their commands fetches its body on the home slice's port, sends it with its GENERATION where the body's digest is
the header's, lets its targets go and retires the packet. -/
def Obligations.ImemLoads : Prop :=
  ∀ (s : State) (q : BitVec 18) (j : Job) (ws : List Word) (m : MemView) (u : State), u = countDecoded s q.toNat →
    let c := (s.queue q.toNat).owner
    (∀ es h va hd x, AtPacket s q.toNat 0x06 j ws → rectEps (membersQ u q.toNat) 0 (wordAt ws 1) = some es → es ≠ [] →
      readContainer u q.toNat (wordAt ws 2) (wordAt ws 3) m = .ok (h, va, hd) →
      loadStatus u c (fld (wordAt ws 4) 15 0) es h = ST_OK →
      resolveMref (u.ctx c) (wordAt ws 2) (wordAt ws 3) (128 + bodyBytes h) false = .ok x →
      (flagsOf (hdrOf ws) % 2 = 1 → ∀ e ∈ es, (u.ep e).held = false ∧ (u.ep e).cmds = []) →
      (let s2 := holdTargets (holdPacket u q.toNat hd) es
       let s3 := if es.any (fun e => !(u.ep e).cmds.isEmpty) then count s2 pgIMX 5 else s2
       exec (.loadImem q m) s = .next (modJob { s3 with loads := s3.loads ++
         [{ q := q.toNat, ctx := c, lane := (s.queue q.toNat).home, targets := es, generation := fld (wordAt ws 4) 15 0,
            segs := segsOf (u.ctx c) va (bodyBytes h), bodyBytes := bodyBytes h, digest := hdrDigest h,
            layer := hdrNat h 32 4, operator := hdrNat h 36 4 }] } q.toNat (fun j =>
         { j with phase := .load, epochOpen := true, priorCounted := false })))) ∧
    (∀ es (v : State), (∀ k, v.slotWait = [] → (holdTargets v es).ep k =
      (if k ∈ es then { v.ep k with held := true } else v.ep k)) ∧ (holdTargets v es).slotWait = v.slotWait) ∧
    (∀ l body, s.halted = false → readyLoad s s.loads [] = some l → portRoom s l.lane = true →
      (∀ g ∈ l.segs, keyStopped s g.2.1 = false) → readPieces s m l.segs = some body →
      isSealed s (s.ctx l.ctx).part = false → sha384 body = l.digest →
      exec (.imemLoadIssue m) s = .next (retire (count (dropLoads (count (sendLoad
        (count (appendLog (emits s (readsOf s l.lane l.segs)) (s.ctx l.ctx).part 1 l.ctx l.generation l.layer l.operator l.bodyBytes l.digest) pgIMX 7)
        l body l.generation) pgIMX 3 (l.bodyBytes * l.targets.length)) l.q) pgIMX 0) l.q)) ∧
    (s.loads = [] → exec (.imemLoadIssue m) s = .next s)

/-- Fans (R200 to R204): a stream whose container and segment table are right enters the lowest free slot of a Fan its
partition owns, with a header message to its targets, and the packet retires; one that has waited for a slot needs no
second check; the head stream then has its body fetched with ReadNoSnp on port 8 + (n mod 4) and leaves as a header beat and
its segments, each as often as its REPEAT says, and the repeated ones pass the loop buffer; at its end the slot frees, the
group is cleared and the stream is logged, and a digest that is not the header's loses the context. -/
def Obligations.FanStreams : Prop :=
  ∀ (s : State) (q : BitVec 18) (j : Job) (ws : List Word) (m : MemView) (u : State), u = countDecoded s q.toNat →
    let c := (s.queue q.toNat).owner
    (∀ f es h va hd x tb segs slot gen, AtPacket s q.toNat 0x07 j ws → f = fld (wordAt ws 4) 20 16 →
      gen = fld (wordAt ws 4) 15 0 → j.fanReady = none →
      (u.fan f).changing = none → (u.fan f).valid = true → (u.fan f).part = partQ u q.toNat →
      rectEps (membersQ u q.toNat) 0 (wordAt ws 1) = some es → es ≠ [] → es.length ≤ 4096 →
      readContainer u q.toNat (wordAt ws 2) (wordAt ws 3) m = .ok (h, va, hd) → mayLoad u c = true →
      headerOk h true = true →
      resolveMref (u.ctx c) (wordAt ws 2) (wordAt ws 3) (128 + bodyBytes h) false = .ok x →
      16 * segCount h ≤ bodyBytes h → vRead u c va (16 * segCount h) m = .ok tb →
      segTable (bodyBytes h) (segCount h) tb = some segs → hdrGen h = gen → gen ≠ 0 →
      (isSealed u (u.ctx c).part = true → logRoom u (u.ctx c).part 1 = true) → freeSlot (u.fan f) = some slot →
      (let y := streamOf u q.toNat gen es h va segs
       exec (.fanStream q m) s = .next (queueStream (modJob (holdPacket u q.toNat hd) q.toNat
         (fun j => { j with fanReady := some y })) q.toNat f slot y))) ∧
    (∀ f y slot, AtPacket s q.toNat 0x07 j ws → f = fld (wordAt ws 4) 20 16 → j.fanReady = some y →
      (u.fan f).changing = none → (u.fan f).valid = true → (u.fan f).part = partQ u q.toNat → freeSlot (u.fan f) = some slot →
      exec (.fanStream q m) s = .next (queueStream u q.toNat f slot y)) ∧
    (∀ (f : BitVec 5) (x : Stream) (rest : List Stream) (body : List Byte) (k : Nat), (s.fan f.toNat).streams = x :: rest →
      x.emitted = false → sliceUp s (f.toNat / 4) = true → k = 8 + f.toNat % 4 → portRoom s k = true →
      (∀ g ∈ x.segs, keyStopped s g.2.1 = false) → readPieces s m x.segs = some body →
      ∃ t, exec (.fanStreamEmit f m) s = .next t ∧
        t.out = s.out ++ (x.segs.map (fun p => .chiRead k p.1 p.2.2 p.2.1 false) ++
          fanOuts f.toNat (128 * f.toNat + x.slot)
          (beatWords (x.generation + (128 * f.toNat + x.slot) * 2 ^ 16) :: emissions body x.segTable)) ∧
        (t.fan f.toNat).streams = { x with emitted := true, computed := sha384 body } :: rest ∧
        (t.fan f.toNat).loop = lastN 262144 ((s.fan f.toNat).loop ++ loopBytes body x.segTable) ∧
        { t.fan f.toNat with streams := (s.fan f.toNat).streams, loop := (s.fan f.toNat).loop,
                             bytes := (s.fan f.toNat).bytes } = s.fan f.toNat ∧
        (∀ i, i ≠ f.toNat → t.fan i = s.fan i) ∧ { t with out := s.out, fans := s.fans, pages := s.pages } = s) ∧
    (∀ (f : BitVec 5) (x : Stream) (rest : List Stream), (s.fan f.toNat).streams = x :: rest → x.emitted = true →
      (let s1 := groupClear (s.setFan f.toNat { s.fan f.toNat with streams := rest }) f.toNat x
       let s2 := count (appendLog s1 (s1.ctx x.ctx).part 2 x.ctx x.generation x.layer x.operator x.bodyBytes x.computed) pgFAN 0
       let s3 := if x.computed = x.digest then s2 else loseContext s2 x.ctx ST_CONTAINER_DIGEST none
       exec (.fanStreamComplete f) s = .next (fanSettle (wakeFan s3 f.toNat) f.toNat))) ∧
    (∀ f : BitVec 5, (s.fan f.toNat).streams = [] → exec (.fanStreamComplete f) s = .next s ∧
      exec (.fanStreamEmit f m) s = .next s)

/-- CALL_ROUTINE (R140, R226): the packet's parameter block is read once and the lowest idle processor of the home slice
runs the routine, its instructions traced where a session records them, and the call enters the order of calls (R229); an
exception of the processor halts the block with cause 5 (R351, log 39); without an idle processor, or behind an earlier one,
the job waits its turn. A routine that finishes frees its processor, its status is D15, its result the register the packet
names if it names one, it counts by its status, and the packet retires. -/
def Obligations.CallRoutine : Prop :=
  ∀ (s : State) (q : BitVec 18) (j : Job) (ws : List Word) (m : MemView) (u : State),
    AtPacket (routineTurn s q.toNat) q.toNat 0x27 j ws → u = countDecoded (routineTurn s q.toNat) q.toNat →
    let c := (u.queue q.toNat).owner
    let k := (u.queue q.toNat).home
    let id := fld (wordAt ws 1) 15 0
    let n := fld (wordAt ws 1) 47 32
    (∀ fw w i va h bs, idleProc u k q.toNat = some i → firstInLine u q.toNat = true →
      w = traceInstructions u k i c fw → fw.exception = false →
      resolveMref (w.ctx c) (wordAt ws 2) (wordAt ws 3) n false = .ok (va, h) → vRead w c va n m = .ok bs →
      (let s1 := w.setSlice k { w.slice k with
         procs := (w.slice k).procs.set i (some (q.toNat, id)), routineWait := (w.slice k).routineWait.filter (· != q.toNat) }
       let s2 := match h with | some x => holdHandle s1 c x | none => s1
       exec (.callRoutine q m fw) s = .next (enterCall (count (modJob (chargeWait s2 q.toNat) q.toNat (fun j =>
         { j with phase := .routine id bs, held := match h with | some x => x :: j.held | none => j.held })) (pgDSP k) 0)
           q.toNat))) ∧
    (∀ fw i, idleProc u k q.toNat = some i → firstInLine u q.toNat = true → fw.exception = true →
      exec (.callRoutine q m fw) s = .next (haltBlock (traceInstructions u k i c fw) 5 ST_OK q.toNat)) ∧
    (∀ fw, (idleProc u k q.toNat = none ∨ firstInLine u q.toNat = false) →
      exec (.callRoutine q m fw) s = .next (waitProc u q.toNat id)) ∧
    (∀ v st, endRoutine s q.toNat v st =
      retireWith (count (freeProc s q.toNat) (pgDSP (s.queue q.toNat).home) (if st = ST_OK then 1 else 2)) q.toNat
        (fun j => setRdst { j with d15 := BitVec.ofNat 64 st.toNat } v)) ∧
    (∀ v, curPkt j = some ws → (bitAt (wordAt ws 1) 20 = true → setRdst j v = setD j (fld (wordAt ws 1) 19 16) v) ∧
      (bitAt (wordAt ws 1) 20 = false → setRdst j v = j))

/-- The routines over tensors and tables (R241 to R251) with a parameter block in form and operands that resolve: each
reads its operands, writes its results and ends with status ST_OK and the result its table names: AMAX_REDUCE the
largest magnitudes, TOPK_ROUTE the assignments and the counts, SPEC_ACCEPT the accepted positions (here with MODE 0),
SCALE_UPDATE and LOSS_SCALE_CHECK the updated records (here the per-tensor update, and a check that clears no flags),
SHAPE_EVAL the entries' values. A block out of form, or an operand that does not resolve, ends the job with that status.
The routines over integers and bytes (R247, R248, R252, R253, R359): PREFIX_SUM writes the running sums and answers
the last, SORT_SMALL permutes keys and values into the order of the keys, HISTOGRAM counts into its bins and answers how
many elements fell outside, COPY_SMALL copies, HASH_MEASURE writes a SHA-384 digest, WATCH_DUMP writes a dump, and the
routines ALLOC and FREE allocate and free. -/
def Obligations.Routines : Prop :=
  (∀ (s : State) (q : BitVec 18) (j : Job) (p : List Byte) (m : MemView), s.job q.toNat = some j → s.halted = false →
    sliceUp s (s.queue q.toNat).home = true → recordBusy s q.toNat = false →
    let ok (t : State) (v : Word) : Result := .next (endRoutine t q.toNat v ST_OK)
    (∀ va sva len h r a hist, j.phase = .routine 1 p → pf p 70 1 % 2 = 0 →
      (reserved0 p [(71, 1)] && decide (pf p 70 1 < 32) && within (pf p 69 1) 3 7 && absent (pm p 32) && absent (pm p 48)) = true →
      present (pm p 0) = .ok () → present (pm p 16) = .ok () →
      resolve s q.toNat (pm p 0) 64 true = .ok va → resolve s q.toNat (pm p 16) 4 false = .ok sva →
      rd s q.toNat va 64 m = .ok h → len = pf h 0 2 → (within len 1 64 && decide (pf h 2 2 < len) && decide (pf h 4 2 ≤ len) &&
        (cut h 24 40).all (· == 0)) = true →
      resolve s q.toNat (pm p 0) (64 + 4 * len) true = .ok va → rd s q.toNat va (64 + 4 * len) m = .ok r →
      rd s q.toNat sva 4 m = .ok a →
      (∀ t, isFin (val32 (leNat a)) = false →
        wr s q.toNat va (cut r 0 16 ++ leBytes 4 (leNat a) ++ leBytes 4 (pf r 20 4 + 1) ++ cut r 24 40) = .ok t →
        exec (.scaleUpdate q m) s = ok t 1) ∧
      (∀ top sc t1 t, isFin (val32 (leNat a)) = true → hist = (units 4 (pf r 0 2) (r.drop 64)).set (pf r 2 2) (leNat a % 2 ^ 31) →
        top = (if pf r 6 1 ≠ 0 then fabs (val32 (leNat a))
               else ((hist.take (min (pf r 4 2 + 1) (pf r 0 2))).map val32).foldl fpMax (.fin true 0 0)) →
        badAmax ((pf p 70 1).testBit 4) top = false →
        (pf r 6 1 = 0 → ((hist.take (min (pf r 4 2 + 1) (pf r 0 2))).map val32).any (· == .nan) = false) →
        sc = scaleFor ((fmtOf (pf p 69 1)).getD fp32) (signedN 8 (pf r 7 1)) ((pf p 70 1).testBit 4) top →
        wr s q.toNat (va + 64 + 4 * pf r 2 2) (leBytes 4 (leNat a % 2 ^ 31)) = .ok t1 →
        wr t1 q.toNat va (cut r 0 2 ++ leBytes 2 ((pf r 2 2 + 1) % pf r 0 2) ++ leBytes 2 (min (pf r 4 2 + 1) (pf r 0 2)) ++ cut r 6 2 ++
          leBytes 4 (bits32 sc) ++ leBytes 4 (bits32 (fdiv (.fin false 1 0) sc)) ++ leBytes 4 (leNat a) ++ cut r 20 44) = .ok t →
        exec (.scaleUpdate q m) s = ok t 0)) ∧
    (∀ n code sva dva bs t xs, j.phase = .routine 2 p → n = pf p 32 4 → code = pf p 36 1 → pf p 37 1 = 0 →
      (reserved0 p [(38, 10)] && within n 1 (2 ^ 28) && (within code 0 7 || within code 9 12)) = true →
      present (pm p 0) = .ok () → present (pm p 16) = .ok () →
      resolve s q.toNat (pm p 0) (tensorBytes code n) false = .ok sva → resolve s q.toNat (pm p 16) 4 true = .ok dva →
      rd s q.toNat sva (tensorBytes code n) m = .ok bs → xs = (List.range n).map (fun i => elemVal code (elemAt code bs i)) →
      wr s q.toNat dva (leBytes 4 (amaxBits xs)) = .ok t →
      exec (.amaxReduce q m) s = ok t (BitVec.ofNat 64 (xs.filter (fun x => !(isFin x))).length)) ∧
    (∀ n ne k code mode lva ava cva bs r t1 t, j.phase = .routine 3 p → n = pf p 48 4 → ne = pf p 52 2 → k = pf p 54 1 →
      code = pf p 55 1 → mode = pf p 56 1 →
      (reserved0 p [(57, 3)] && within n 1 65536 && within ne 2 1024 && within k 1 8 && decide (k ≤ ne) && within code 0 2 &&
        decide (mode ≤ 3)) = true → present (pm p 0) = .ok () → present (pm p 16) = .ok () → present (pm p 32) = .ok () →
      resolve s q.toNat (pm p 0) (tensorBytes code (n * ne)) false = .ok lva → resolve s q.toNat (pm p 16) (8 * n * k) true = .ok ava →
      resolve s q.toNat (pm p 32) (4 * ne) true = .ok cva → rd s q.toNat lva (tensorBytes code (n * ne)) m = .ok bs →
      r = (List.range n).foldl (fun a x =>
        let logits := (List.range ne).map (fun e => elemVal code (elemAt code bs (x * ne + e)))
        placeToken mode (pf p 60 4) logits (topK logits k) (topK logits k) a) (s, [], List.replicate ne 0, 0) →
      wr r.1 q.toNat ava (bytesOfWords r.2.1) = .ok t1 → wr t1 q.toNat cva (r.2.2.1.flatMap (leBytes 4)) = .ok t →
      exec (.topkRoute q m) s = ok t (BitVec.ofNat 64 r.2.2.2)) ∧
    (∀ n tva x y tb es dva sva t v, j.phase = .routine 7 p → n = pf p 48 2 → (reserved0 p [(50, 14)] && within n 1 4096) = true →
      present (pm p 0) = .ok () → present (pm p 16) = .ok () → present (pm p 32) = .ok () →
      resolve s q.toNat (pm p 32) (32 * n) false = .ok tva → resolve s q.toNat (pm p 0) 4 false = .ok x →
      resolve s q.toNat (pm p 16) 2 true = .ok y → rd s q.toNat tva (32 * n) m = .ok tb → (List.range n).all (shapeOk tb) = true →
      es = (List.range n).map (shapeEntry tb) → resolve s q.toNat (pm p 16) (shapeReach es).1 true = .ok dva →
      resolve s q.toNat (pm p 0) (shapeReach es).2 false = .ok sva →
      shapeRun s q.toNat dva (fun i => (rd s q.toNat (sva + 4 * i) 4 m).map leNat) es 0 = (t, v, none) →
      exec (.shapeEval q m) s = ok t (BitVec.ofNat 64 v)) ∧
    (∀ n fva sva fs r u t, j.phase = .routine 8 p → n = pf p 32 4 → pf p 36 1 = 0 →
      (reserved0 p [(37, 11)] && within n 1 65536) = true → present (pm p 0) = .ok () → present (pm p 16) = .ok () →
      resolve s q.toNat (pm p 0) (4 * n) false = .ok fva → resolve s q.toNat (pm p 16) 32 true = .ok sva →
      rd s q.toNat fva (4 * n) m = .ok fs → rd s q.toNat sva 32 m = .ok r → u = lossUpdate s r (fs.any (· != 0)) →
      wr u.1 q.toNat sva (leBytes 4 u.2.1 ++ leBytes 4 u.2.2.1 ++ cut r 8 20 ++ leBytes 4 u.2.2.2) = .ok t →
      exec (.lossScaleCheck q m) s = ok t (BitVec.ofNat 64 (b2n (fs.any (· != 0))))) ∧
    (∀ ns l dva tva ova ds ts as t, j.phase = .routine 9 p → ns = pf p 64 2 → l = pf p 66 1 → pf p 67 1 = 0 →
      (reserved0 p [(68, 4)] && within ns 1 4096 && within l 1 32 && absent (pm p 32)) = true →
      present (pm p 0) = .ok () → present (pm p 16) = .ok () → present (pm p 48) = .ok () →
      resolve s q.toNat (pm p 0) (4 * ns * l) false = .ok dva → resolve s q.toNat (pm p 16) (4 * ns * (l + 1)) false = .ok tva →
      resolve s q.toNat (pm p 48) (8 * ns) true = .ok ova → rd s q.toNat dva (4 * ns * l) m = .ok ds →
      rd s q.toNat tva (4 * ns * (l + 1)) m = .ok ts →
      as = (List.range ns).map (fun x => leading ((List.range l).map (fun i =>
        leNat (cut ds (4 * (x * l + i)) 4) == leNat (cut ts (4 * (x * (l + 1) + i)) 4)))) →
      wr s q.toNat ova ((as.zipIdx.map (fun e => e.1 + leNat (cut ts (4 * (e.2 * (l + 1) + e.1)) 4) * 2 ^ 32)).flatMap (leBytes 8)) =
        .ok t →
      exec (.specAccept q m) s = ok t (BitVec.ofNat 64 (as.foldl min l + as.foldl max 0 * 2 ^ 16 +
        (as.filter (· == l)).length * 2 ^ 32))) ∧
    (∀ e, j.phase = .routine 2 p → amaxReduce s q.toNat m p = .error e →
      exec (.amaxReduce q m) s = .next (failRoutine s q.toNat e))) ∧
  (∀ (s : State) (q : BitVec 18) (j : Job) (p : List Byte) (m : MemView), s.job q.toNat = some j → s.halted = false →
    sliceUp s (s.queue q.toNat).home = true → recordBusy s q.toNat = false →
    let ok (t : State) (v : Word) : Result := .next (endRoutine t q.toNat v ST_OK)
    (∀ n w sva dva bs t, j.phase = .routine 4 p → n = pf p 32 4 → w = (if pf p 36 1 = 0 then 4 else 8) →
      (reserved0 p [(38, 10)] && within n 1 (2 ^ 24) && decide (pf p 36 1 ≤ 1) && decide (pf p 37 1 ≤ 1)) = true →
      present (pm p 0) = .ok () → present (pm p 16) = .ok () →
      resolve s q.toNat (pm p 0) (w * n) false = .ok sva → resolve s q.toNat (pm p 16) (w * n) true = .ok dva →
      rd s q.toNat sva (w * n) m = .ok bs →
      wr s q.toNat dva ((prefixes (8 * w) (pf p 37 1 == 1) (units w n bs) 0).1.flatMap (leBytes w)) = .ok t →
      exec (.prefixSum q m) s = ok t (BitVec.ofNat 64 (prefixes (8 * w) (pf p 37 1 == 1) (units w n bs) 0).2)) ∧
    (∀ n b type sva bva bs old r t, j.phase = .routine 5 p → n = pf p 32 4 → b = pf p 36 4 → type = pf p 40 1 →
      (reserved0 p [(42, 6), (56, 8)] && within n 1 (2 ^ 28) && within b 1 16384 && decide (type ≤ 2) &&
        decide (pf p 41 1 ≤ 1) && (type == 2 || pf p 52 4 == 0)) = true → present (pm p 0) = .ok () → present (pm p 16) = .ok () →
      resolve s q.toNat (pm p 0) (4 * n) false = .ok sva → resolve s q.toNat (pm p 16) (4 * b) true = .ok bva →
      rd s q.toNat sva (4 * n) m = .ok bs →
      (if pf p 41 1 = 1 then (rd s q.toNat bva (4 * b) m).map (units 4 b) = .ok old else old = List.replicate b 0) →
      r = (units 4 n bs).foldl (fun (a : List Nat × Nat) v =>
        match binOf type b (pf p 48 4) (pf p 52 4) v with
        | some i => (a.1.modify i (fun x => satAdd (2 ^ 32 - 1) x 1), a.2)
        | none => (a.1, a.2 + 1)) (old, 0) →
      wr s q.toNat bva (r.1.flatMap (leBytes 4)) = .ok t →
      exec (.histogram q m) s = ok t (BitVec.ofNat 64 r.2)) ∧
    (∀ n kva sva ks ps t, j.phase = .routine 6 p → n = pf p 48 4 → pf p 53 1 = 0 → absent (pm p 16) = true →
      (reserved0 p [(54, 10)] && within n 1 65536 && decide (pf p 52 1 ≤ 2)) = true →
      present (pm p 0) = .ok () → present (pm p 32) = .ok () →
      resolve s q.toNat (pm p 0) (4 * n) true = .ok kva → resolve s q.toNat (pm p 32) (8 * n) true = .ok sva →
      rd s q.toNat kva (4 * n) m = .ok ks →
      ps = sortBy (fun a b => decide (sortKey (pf p 52 1) a.1 ≤ sortKey (pf p 52 1) b.1))
        ((List.range n).map (fun i => (leNat (cut ks (4 * i) 4), leNat (cut ([] : List Byte) (4 * i) 4)))) →
      wr s q.toNat kva (ps.flatMap (fun e => leBytes 4 e.1)) = .ok t → exec (.sortSmall q m) s = ok t 0) ∧
    (∀ d, j.phase = .routine 6 p → sortSmall s q.toNat m p = .ok d → exec (.sortSmall q m) s =
      .next (match d.failed with | none => endRoutine d.st q.toNat d.result d.d15 | some e => failRoutine d.st q.toNat e)) ∧
    (∀ n sva dva bs t, j.phase = .routine 12 p → n = pf p 32 4 → (reserved0 p [(36, 4)] && within n 1 65536) = true →
      present (pm p 0) = .ok () → present (pm p 16) = .ok () →
      resolve s q.toNat (pm p 0) n false = .ok sva → resolve s q.toNat (pm p 16) n true = .ok dva →
      rd s q.toNat sva n m = .ok bs → wr s q.toNat dva bs = .ok t →
      exec (.copySmall q m) s = ok t 0) ∧
    (∀ n sva dva bs t, j.phase = .routine 13 p → n = pf p 32 8 → (reserved0 p [(41, 7)] && within n 1 (2 ^ 36)) = true →
      pf p 40 1 ≤ 1 → (pf p 40 1 = 1 → isSealed s (partQ s q.toNat) = false) →
      present (pm p 0) = .ok () → present (pm p 16) = .ok () →
      resolve s q.toNat (pm p 0) n false = .ok sva → resolve s q.toNat (pm p 16) 48 true = .ok dva →
      rd s q.toNat sva n m = .ok bs → wr s q.toNat dva (sha384 bs) = .ok t →
      exec (.hashMeasure q m) s = ok t 0) ∧
    (∀ n sva dva bs t, j.phase = .routine 14 p → n = pf p 32 4 → reserved0 p [(40, 8)] = true →
      present (pm p 0) = .ok () → present (pm p 16) = .ok () →
      resolve s q.toNat (pm p 0) n false = .ok sva → resolve s q.toNat (pm p 16) (64 + n) true = .ok dva →
      rd s q.toNat sva n m = .ok bs → dumpTensor s q.toNat j (pm p 0) (pm p 16) n 0 m = .ok t →
      exec (.watchDump q m) s = ok t (BitVec.ofNat 64 n)) ∧
    (∀ rva t h va, j.phase = .routine 10 p → reserved0 p [(17, 15)] = true → absent (pm p 32) = false →
      mrefFixed (pm p 32) = true → pf p 16 1 < 8 → resolve s q.toNat (pm p 32) 16 true = .ok rva →
      allocObject s (s.queue q.toNat).owner (pf p 0 8) (pf p 8 8) (pf p 16 1) = .done t h va →
      exec (.routineAlloc q) s = .next (endAlloc t q.toNat p h ST_OK va)) ∧
    (∀ t i, j.phase = .routine 11 p → reserved0 p [(4, 12)] = true →
      freeObject s (s.queue q.toNat).owner (pf p 0 4) = .ok (t, i) → (t.ctx (s.queue q.toNat).owner).abortMode = false →
      exec (.routineFree q) s = .next (resumeFrees (endRoutine (count t pgOBJ 2) q.toNat 0 ST_OK))))

/-! ## Fences and barriers -/

/-- Wait packets (R152, R157, R159, Table 6.8) over a fence that resolves: a wait for 0 that consumes nothing retires at
once; over a fence of this die whose cached value satisfies a wait that consumes nothing it retires on the fast path; over
one that is not cached, or whose cached value does not satisfy the wait, the waiter is linked to the fence's line and the
fence is read again; over a fence of another die that die is told to watch it. -/
def Obligations.WaitPackets : Prop :=
  ∀ (s : State) (q : BitVec 18) (j : Job) (ws : List Word) (m : MemView) (u : State) (kind : Nat) (i : Instr),
    u = countDecoded s q.toNat →
    ((kind = 0 ∧ i = .waitFence q m ∧ AtPacket s q.toNat 0x10 j ws) ∨
     (kind = 1 ∧ i = .waitCount q m ∧ AtPacket s q.toNat 0x12 j ws ∧ flagsOf (hdrOf ws) % 2 = 0) ∨
     (kind = 2 ∧ i = .waitCount q m ∧ AtPacket s q.toNat 0x12 j ws ∧ flagsOf (hdrOf ws) % 2 = 1)) →
    ∀ s1 f, resolveFence u (s.queue q.toNat).owner (wordAt ws 1) (some (kind != 0)) (kind == 2) m = .ok (s1, f) →
      let target := wordAt ws 2
      let s0 := modJob s1 q.toNat (fun j => { j with phase := .fence })
      let w : Waiter := { st := .idle, kind := kind, target := target, fence := f, line := 0, since := s1.now, busy := none,
                          seen := 0 }
      (target = 0 → kind ≠ 2 → exec i s = .next (retire s1 q.toNat)) ∧
      (∀ l, target ≠ 0 → f.home = dieId s1 → findLine s1 f = some l → lineHit (s1.line l) f kind target = true →
        kind ≠ 2 → exec i s = .next (wakeQueue s0 q.toNat 2)) ∧
      (∀ l t, (target ≠ 0 ∨ kind = 2) → f.home = dieId s1 →
        (∀ x, findLine s1 f = some x → lineHit (s1.line x) f kind target = false) → takeLine s0 f = some (l, t) →
        (let t1 := t.setQueue q.toNat { t.queue q.toNat with wait := true }
         exec i s = .next (readFence ((linkWaiter t1 l (.queue q.toNat)).setWaiter q.toNat { w with st := .arming, line := l })
           (.queue q.toNat) f))) ∧
      (∀ l t, (target ≠ 0 ∨ kind = 2) → f.home ≠ dieId s1 → takeLine s0 f = some (l, t) →
        (let t1 := t.setQueue q.toNat { t.queue q.toNat with wait := true }
         exec i s = .next (sendFence ((linkWaiter t1 l (.queue q.toNat)).setWaiter q.toNat { w with st := .remote, line := l })
           f.home (watchBeat t1 q.toNat w))))

/-- SIGNAL_FENCE and CREDIT (R132, R143, R149, R150): one that is not deferred is not issued while an engine command that
the job issued before it, or an earlier signal of the job, is outstanding (R143: WAIT_PRIOR is implied). A deferred signal
joins the job's list; another one, over a fence of this die that no line caches, issues its atomic, UMAX or ADD, on the home
slice's port, and the packet retires. A signal of another die's fence goes there as FENCE_SIGNAL. An access leaves at once
where its port has room, and waits in order where it has none (R58). -/
def Obligations.SignalPackets : Prop :=
  ∀ (s : State) (q : BitVec 18) (j : Job) (ws : List Word) (m : MemView) (u : State), u = countDecoded s q.toNat →
    let c := (s.queue q.toNat).owner
    (∀ counting : Bool, s.job q.toNat = some j → curPkt j = some ws → predOn j (hdrOf ws) = true →
      opOf (hdrOf ws) = (if counting then 0x13 else 0x11) → (counting = false → flagsOf (hdrOf ws) % 2 = 0) →
      areaFault s q.toNat j = none → j.spillBuf = none → j.spillImg = none → openRecs s q.toNat ≠ 0 ∨ j.atomics ≠ 0 →
      ∃ t j', exec (if counting then .credit q m else .signalFence q m) s = .next t ∧ t.out = s.out ∧ t.wsh = s.wsh ∧
        t.flights = s.flights ∧ t.job q.toNat = some j' ∧ j'.stack = j.stack ∧ j'.idx = j.idx) ∧
    (AtPacket s q.toNat 0x11 j ws → flagsOf (hdrOf ws) % 2 = 1 →
      exec (.signalFence q m) s = .next (retireWith u q.toNat (fun x => { x with deferred := x.deferred ++
        [{ fence := wordAt ws 1, value := wordAt ws 2, pidx := packetIndex j }] }))) ∧
    (∀ counting s1 f j1, (if counting = true then AtPacket s q.toNat 0x13 j ws
        else AtPacket s q.toNat 0x11 j ws ∧ flagsOf (hdrOf ws) % 2 = 0) →
      resolveFence u c (wordAt ws 1) (some counting) true m = .ok (s1, f) → s1.job q.toNat = some j1 →
      (let i := if counting = true then Instr.credit q m else .signalFence q m
       let a := sigAtomic f (wordAt ws 2) c (lastQueue q.toNat) (some q.toNat) false none (some (packetIndex j1))
       let s2 := modJob s1 q.toNat (fun j => { j with atomics := j.atomics + 1 })
       (f.home = dieId s1 → findLine s1 f = none → keyStopped s1 f.key = false →
         (counting = true → orderHeld s1 f.pa = false) →
         exec i s = .next (retire (issue { s2 with wsh := { s2.wsh with atomics := s2.wsh.atomics ++ [{ a with issued := true }] } }
           (portQ s2 q.toNat) (.atomic f.pa) [.chiAtomic (portQ s2 q.toNat) f.pa f.key f.counting (wordAt ws 2)]) q.toNat)) ∧
       (f.home ≠ dieId s1 →
         exec i s = .next (retire (sendFence s1 f.home (fenceBeat 1 (b2n f.counting + 2 * b2n f.checked + 4 * b2n f.counting) 0 c 0
           f.pa f.key (wordAt ws 2).toNat (if f.counting then f.ceiling else 0))) q.toNat)))) ∧
    (∀ k who outs, (portRoom s k = true → issue s k who outs =
        emits { s with flights := s.flights ++ [⟨k, who, outs, true⟩] } outs) ∧
      (portRoom s k = false → issue s k who outs = { s with flights := s.flights ++ [⟨k, who, outs, false⟩] }))

/-- FENCE_ATOMIC_COMPLETE and CONSUME_ADD_RETURN (R149, R150, R154, R162), over fences that no line caches: a signal's
UMAX that raised the value counts in WSH counter 0, one below it in counter 1, and a REGRESS check that fails loses the
signalling context; a count that stays between 0 and its ceiling counts in counter 0, and one that leaves them is
compensated and loses the context. A consuming wait whose count sufficed retires; one whose count did not is compensated
and recorded, and from the fast path it is armed. Where no such request is in flight nothing changes. -/
def Obligations.AtomicReturns : Prop :=
  ∀ (s : State) (n : Nat) (a : Atomic) (m : MemView) (d : State),
    (atomicAt s n = none → ∀ old, exec (.fenceAtomicComplete n old m) s = .next s ∧ exec (.consumeAddReturn n old) s = .next s) ∧
    (atomicAt s n = some a → findLine s a.fence = none → a.deferred = false →
      d = dropAtomic (landed s (.atomic a.fence.pa)) n →
    (∀ old s1, a.use = .signal → a.remote = none →
      s1 = (match a.job with | some q => modJob d q (fun j => { j with atomics := j.atomics - 1 }) | none => d) →
      (a.add = false → old.toNat ≤ a.operand.toNat →
        exec (.fenceAtomicComplete n (some old) m) s = .next (nextAtomic (count s1 pgWSH 0) a.fence.pa)) ∧
      (a.add = false → a.operand.toNat < old.toNat → a.fence.checked = false →
        exec (.fenceAtomicComplete n (some old) m) s = .next (nextAtomic (count s1 pgWSH 1) a.fence.pa)) ∧
      (a.add = false → a.operand.toNat < old.toNat → a.fence.checked = true →
        exec (.fenceAtomicComplete n (some old) m) s = .next (nextAtomic (loseContext (count s1 pgWSH 1) a.ctx ST_FENCE_REGRESS
          (a.job.map (fun q => (q, a.pidx)))) a.fence.pa)) ∧
      (a.add = true → 0 ≤ old.toInt + a.operand.toInt → old.toInt + a.operand.toInt ≤ a.fence.ceiling →
        exec (.fenceAtomicComplete n (some old) m) s = .next (nextAtomic (count s1 pgWSH 0) a.fence.pa)) ∧
      (a.add = true → 0 ≤ old.toInt + a.operand.toInt → a.fence.ceiling < old.toInt + a.operand.toInt →
        exec (.fenceAtomicComplete n (some old) m) s = .next (nextAtomic (loseContext (compensate s1 a) a.ctx ST_FENCE_OVERFLOW
          (a.job.map (fun q => (q, a.pidx)))) a.fence.pa)) ∧
      (a.add = true → old.toInt + a.operand.toInt < 0 →
        exec (.fenceAtomicComplete n (some old) m) s = .next (nextAtomic (loseContext (compensate s1 a) a.ctx ST_FENCE_UNDERFLOW
          (a.job.map (fun q => (q, a.pidx)))) a.fence.pa))) ∧
    (∀ old q path t, a.use = .consume (.queue q) path → consumeStands d a (.queue q) path = true → s.halted = false →
      (-a.operand).toInt ≤ old.toInt → old.toInt + a.operand.toInt ≤ ceilingOf a.fence.ceiling →
      t = wakeQueue d q (if path = .pipeline then 3 else 2) → findLine t a.fence = none →
      exec (.consumeAddReturn n (some old)) s = .next (nextAtomic (t.setWaiter q Waiter.reset) a.fence.pa)) ∧
    (∀ old q path, a.use = .consume (.queue q) path → path = .pipeline ∨ path = .recheck → old.toInt < (-a.operand).toInt →
      exec (.consumeAddReturn n (some old)) s =
        .next (nextAtomic (setErr (compensate d a) pgWSH 3 a.fence.pa) a.fence.pa)) ∧
    (∀ old q t, a.use = .consume (.queue q) .fast → old.toInt < (-a.operand).toInt →
      t = setErr (compensate d a) pgWSH 3 a.fence.pa → consumeStands d a (.queue q) .fast = true →
      exec (.consumeAddReturn n (some old)) s = .next (nextAtomic (armWait t q (t.waiter q)) a.fence.pa)))

/-- Reads of fences return (R156, R158, R159, R161, R341): the recheck of an arming waiter puts the word into its line and
arms the waiter, which stays where the value does not satisfy it and whose wait ends where it does; the read of a whole line
evaluates every waiter on its word; a read for an UNLINKED waiter that a plain value satisfies ends its wait, and its
interval issues the next read; a BUSY answer of another die is followed 10 µs later by another FENCE_WATCH. With no read in
flight nothing changes; a read whose waiter has gone returns to nobody.
WFG_DONE (R170): the snapshot's bytes are written to its buffer, where memory takes them, and the snapshot is done. -/
def Obligations.FenceReads : Prop :=
  (∀ (s : State) (q : BitVec 18) (v : Word),
    let reads (w : LineWaiter) : Option Flight :=
      s.flights.find? (fun f => f.sent && (f.who == .waiter w false || f.who == .waiter w true))
    (∀ w l u u1, reads (.queue q.toNat) = some u1 → u1.who = .waiter (.queue q.toNat) false → u = landed s u1.who →
      s.waiter q.toNat = w → s.halted = false →
      (w.st = .arming → w.line = l →
        (let t := (cacheWord u l (wordOf w.fence.pa) v).setWaiter q.toNat { w with st := .armed, seen := v }
         (findLine s w.fence = some l → (s.line l).used = true → (s.line l).pa = lineAddr w.fence.pa → (s.line l).home = w.fence.home →
           (s.line l).waiters = [.queue q.toNat] → satisfies w.kind v w.target = false → w.kind ≤ 2 →
           exec (.fenceRecheckReturn q none (some v)) s = .next t) ∧
         (satisfies w.kind v w.target = true → w.kind ≠ 2 →
           exec (.fenceRecheckReturn q none (some v)) s =
             .next (evaluate (wakeQueue t q.toNat 2) w.fence v true (some (.queue q.toNat)))))) ∧
      (w.st = .unlinked → satisfies w.kind v w.target = true → w.kind ≠ 2 →
        exec (.fenceRecheckReturn q none (some v)) s = .next (wakeQueue (u.setWaiter q.toNat { w with seen := v }) q.toNat 2)) ∧
      exec (.fenceRecheckReturn q none none) s = .next (faultJob u q.toNat ST_MEMORY_ERROR)) ∧
    (∀ (d : BitVec 16) x l u u1, reads (.watch d.toNat q.toNat) = some u1 → u1.who = .waiter (.watch d.toNat q.toNat) false →
      u = landed s u1.who → watchOf s d.toNat q.toNat = some x → x.line = some l →
      exec (.fenceRecheckReturn q (some d) (some v)) s =
        .next (evaluate (cacheWord u l (wordOf x.fence.pa) v) x.fence v true (some (.watch d.toNat q.toNat)))) ∧
    (reads (.queue q.toNat) = none → ∀ r, exec (.fenceRecheckReturn q none r) s = .next s) ∧
    (∀ u1, reads (.queue q.toNat) = some u1 → u1.who = .waiter (.queue q.toNat) true →
      ∀ r, exec (.fenceRecheckReturn q none r) s = .next (landed s u1.who)) ∧
    (∀ (l : BitVec 16) (ws : List Word) (u s2 : State), inFlight s (.line l.toNat) = true → u = landed s (.line l.toNat) →
      (s.line l.toNat).again = false → ws.length = 8 →
      s2 = u.setLine l.toNat { s.line l.toNat with reread := false, again := false } →
      exec (.lineRereadReturn l (some ws)) s =
        .next (evalWords l.toNat ws 0 (noteWords (s2.setLine l.toNat
          { s2.line l.toNat with value := some (wordAt ws (s.line l.toNat).word) }) ws (s.line l.toNat).waiters))) ∧
    (∀ l : BitVec 16, inFlight s (.line l.toNat) = false → ∀ r, exec (.lineRereadReturn l r) s = .next s) ∧
    (∀ w, s.waiter q.toNat = w → w.st = .unlinked → w.fence.home = dieId s → lineBusy s w.fence.pa = false →
      s.flights.any (fun f => f.who == .waiter (.queue q.toNat) false) = false →
      s.wsh.heldReads.any (fun r => r.who == .waiter (.queue q.toNat) false) = false →
      consuming s (.queue q.toNat) = false →
      exec (.unlinkedReread q none) s = .next (issue s (portSpine w.fence.pa) (.waiter (.queue q.toNat) false)
        [.chiRead (portSpine w.fence.pa) w.fence.pa 8 w.fence.key (hostVisible s w.fence.pa)])) ∧
    ((s.waiter q.toNat).st ≠ .unlinked → exec (.unlinkedReread q none) s = .next s) ∧
    (∀ t, (s.waiter q.toNat).st = .remote → (s.waiter q.toNat).busy = some t → t + 10000 ≤ s.now →
      exec (.remoteWatchRetry q) s =
        .next (sendFence (s.setWaiter q.toNat { s.waiter q.toNat with busy := none }) (s.waiter q.toNat).fence.home
          (watchBeat s q.toNat (s.waiter q.toNat))))) ∧
  (∀ s : State,
    (s.wsh.wfgRunning = true → writeFails s s.wsh.wfgBase.toNat (wfgBytes s).length = false →
      exec .wfgDone s = .next { emits s (writesOf s 8 [(s.wsh.wfgBase.toNat, 0, (wfgBytes s).length)] (wfgBytes s)) with
        wsh := { s.wsh with wfgRunning := false, wfgDone := true } }) ∧
    (s.wsh.wfgRunning = false → exec .wfgDone s = .next s))

/-- Engine signals (R50, R155, R175): a sync-channel signal or count of an endpoint that works for a context becomes an
atomic on the fence that its ID names there; a reserved operation is discarded, recorded in WSH and loses that context; an
endpoint that works for none is recorded in ECP. -/
def Obligations.EngineSignals : Prop :=
  ∀ (s : State) (e : BitVec 14) (id : BitVec 24) (v : Word) (m : MemView),
    (epCtx s e.toNat = none →
      exec (.syncSignal e id v m) s = .next (setErr s pgECP 2 e.toNat) ∧
      exec (.syncAdd e id v m) s = .next (setErr s pgECP 2 e.toNat)) ∧
    (∀ c s1 f (counting : Bool), epCtx s e.toNat = some c →
      resolveFence s c (BitVec.ofNat 64 id.toNat) (some counting) true m = .ok (s1, f) → f.home = dieId s1 →
      findLine s1 f = none → keyStopped s1 f.key = false → (counting = true → orderHeld s1 f.pa = false) →
      (let a := sigAtomic f v c (lastEp e.toNat) none false none none
       exec (if counting = true then .syncAdd e id v m else .syncSignal e id v m) s =
         .next (issue { s1 with wsh := { s1.wsh with atomics := s1.wsh.atomics ++ [{ a with issued := true }] } }
           (portSpine f.pa) (.atomic f.pa) [.chiAtomic (portSpine f.pa) f.pa f.key f.counting v]))) ∧
    (∀ (op : BitVec 2) c x, 2 ≤ op.toNat → epCtx s e.toNat = some c → x = syncWordAddr s c id.toNat →
      exec (.reservedSyncOp e id op v) s = .next (loseContext (setErr x.2 pgWSH 0 x.1) c ST_SYNC_OP_RESERVED none)) ∧
    (∀ c s1 f, s.wsh.syncCache.any (fun e => e.1 == c * 2 ^ 24 + id.toNat) = true →
      resolveFence s c (BitVec.ofNat 64 id.toNat) none false [] = .ok (s1, f) → syncWordAddr s c id.toNat = (f.pa, s)) ∧
    (∀ op : BitVec 2, 2 ≤ op.toNat → epCtx s e.toNat = none →
      exec (.reservedSyncOp e id op v) s = .next (setErr (setErr s pgWSH 0 0) pgECP 2 e.toNat))

/-- Barriers (R52, R167, R168): BARRIER_ARM of a channel its partition owns and whose release is low arms its cores, or
disarms them, and retires; a released channel holds the packet; a channel of another partition loses the context. The
all-high input raises release while a core is armed, and the any-low input ends the episode. -/
def Obligations.Barriers : Prop :=
  ∀ (s : State) (q : BitVec 18) (j : Job) (ws : List Word) (u : State) (x : Chan), u = countDecoded s q.toNat →
    (∀ c, c = fld (wordAt ws 2) 5 0 → x = s.barrier c → AtPacket s q.toNat 0x14 j ws → x.changing = none →
      (∀ es, x.valid = true → x.part = partQ u q.toNat → rectEps (membersQ u q.toNat) 0 (wordAt ws 1) = some es → es ≠ [] →
        (let arm := flagsOf (hdrOf ws) % 2 = 0
         let s1 := armWrites u (s.queue q.toNat).home c es arm
         (x.release = false →
           exec (.barrierArm q) s = .next (retireWith (s1.setBarrier c (armSet x q.toNat (u.queue q.toNat).step es arm)) q.toNat
             (fun j => { j with epochOpen := true }))) ∧
         (x.release = true →
           exec (.barrierArm q) s = .next (modJob (count u pgSAD 3) q.toNat (fun j => { j with phase := .armWait }))))) ∧
      ((x.valid = false ∨ x.part ≠ partQ u q.toNat) →
        exec (.barrierArm q) s = .next (faultJob (count u pgSAD 4) q.toNat ST_BARRIER_CHANNEL))) ∧
    (∀ c : BitVec 6, x = s.barrier c.toNat →
      exec (.barrierReleaseRaise c) s = .next (s.setBarrier c.toNat { x with
        all := true, any := x.any || !x.armed.isEmpty, release := x.release || !x.armed.isEmpty }) ∧
      (x.release = false → exec (.barrierReleaseLower c) s = .next (s.setBarrier c.toNat { x with all := false, any := false })) ∧
      (x.release = true → exec (.barrierReleaseLower c) s = .next (chanSettle (wakeArms (count (s.setBarrier c.toNat { x with
        all := false, any := false, release := false, episodes := x.episodes + 1 }) pgSAD 0) c.toNat) c.toNat)))

/-- Messages about fences between dies (R159, R165, R166): a signal is performed here; a watch of a fence that no line
caches takes a watch and a line and reads the fence, and one that finds every watch taken is answered BUSY; an unwatch
removes its watch; a wake ends the remote wait it names, or asks it to try again; a fault loses the named context. A
message of a type that is not listed is discarded and counted. -/
def Obligations.FenceMessages : Prop :=
  ∀ (s : State) (die : BitVec 16) (beat : BitVec 256) (u : State) (b : Nat), u = count s pgPER 1 → b = beat.toNat →
    (PeerMessage s die beat 1 (fenceMask false false true (beat.getLsbD 10)) →
      exec (.fenceSignal die beat) s = .next (signalRemote u { beatFence u b with counting := b.testBit 10 || b.testBit 8 }
        (BitVec.ofNat 64 (bitsN b 191 128)) (bitsN b 47 34) die.toNat)) ∧
    (PeerMessage s die beat 2 (fenceMask true false true false) →
      (8192 ≤ s.wsh.watches.length → exec (.fenceWatch die beat) s = .next (busyWake u die.toNat b)) ∧
      (∀ l t x w, s.wsh.watches.length < 8192 →
        x = { die := die.toNat, queue := bitsN b 33 16, ctx := bitsN b 47 34,
              kind := if b.testBit 11 then 2 else if b.testBit 10 then 1 else 0,
              target := BitVec.ofNat 64 (bitsN b 191 128), fence := beatFence u b, line := none, since := s.now } →
        w = LineWaiter.watch die.toNat (bitsN b 33 16) → findLine s x.fence = none →
        takeLine { u with wsh := { u.wsh with watches := u.wsh.watches ++ [x] } } x.fence = some (l, t) →
        exec (.fenceWatch die beat) s =
          .next (readFence (linkWaiter (putWatch t { x with line := some l }) l w) w x.fence))) ∧
    (PeerMessage s die beat 3 (fenceMask true false false false) →
      (watchOf s die.toNat (bitsN b 33 16) = none → exec (.fenceUnwatch die beat) s = .next u) ∧
      (∀ x, watchOf s die.toNat (bitsN b 33 16) = some x → exec (.fenceUnwatch die beat) s = .next (relink (dropWatch u x)) ∧
        (dropWatch u x).wsh.watches = s.wsh.watches.filter (fun y => !(y.die == x.die && y.queue == x.queue)))) ∧
    (∀ q w, PeerMessage s die beat 4 (fenceMask true false (beat.getLsbD 11) true) → q = bitsN b 33 16 → w = s.waiter q →
      w.st = .remote → w.fence.pa = bitsN b 115 64 → w.fence.home = die.toNat →
      (b.testBit 12 = true → exec (.fenceWake die beat) s = .next (u.setWaiter q { w with busy := some s.now })) ∧
      (b.testBit 12 = false → s.halted = false → exec (.fenceWake die beat) s =
        .next (wakeQueue (cacheWord u w.line (wordOf w.fence.pa) (BitVec.ofNat 64 (bitsN b 255 192))) q 8))) ∧
    (PeerMessage s die beat 5 (fenceMask false true false false) →
      exec (.fenceFault die beat) s = .next (loseContext u (bitsN b 47 34) (BitVec.ofNat 16 (bitsN b 63 48)) none)) ∧
    (b % 256 ∉ peerTypes → exec (.unlistedPeerMessage die beat) s =
      .next (count (setErr u pgPER (if die.toNat < domFirst s ∨ domLast s < die.toNat then 0 else 1) die.toNat) pgPER 2))

/-! ## Objects, contexts, partitions -/

/-- ALLOC, FREE and QUERY (R80, R81, R83, R93, R131): an allocation that succeeds, or fails by an operation status, writes
its result block and puts the status into D15; one that zeroing can still supply waits; FREE in flow mode retires at once;
QUERY writes as much of a section of its view as the buffer takes, and the section's size goes to the named register.
ALLOC_RESUME runs the packet of the job that has waited longest again. -/
def Obligations.ObjectPackets : Prop :=
  ∀ (s : State) (q : BitVec 18) (j : Job) (ws : List Word) (u : State), u = countDecoded s q.toNat →
    let c := (s.queue q.toNat).owner
    let alloc := allocObject u c (fld (wordAt ws 1) 47 0) (wordAt ws 2).toNat (flagsOf (hdrOf ws) % 8)
    (∀ t h va v, AtPacket s q.toNat 0x50 j ws → alloc = .done t h va →
      writeOp t q.toNat (wordAt ws 3) (wordAt ws 4) (resultBlock h ST_OK va) = .ok v →
      exec (.alloc q) s = .next (retireWith v q.toNat (fun j => { j with d15 := 0 }))) ∧
    (∀ st v, AtPacket s q.toNat 0x50 j ws → alloc = .fail st →
      writeOp (count u pgOBJ 1) q.toNat (wordAt ws 3) (wordAt ws 4) (resultBlock 0 st 0) = .ok v →
      exec (.alloc q) s = .next (retireWith v q.toNat (fun j => { j with d15 := BitVec.ofNat 64 st.toNat }))) ∧
    (AtPacket s q.toNat 0x50 j ws → alloc = .wait →
      exec (.alloc q) s =
        .next (modJob { u with allocWait := u.allocWait ++ [.queue q.toNat] } q.toNat (fun j => { j with phase := .allocWait }))) ∧
    (∀ t i, AtPacket s q.toNat 0x51 j ws → freeObject u c (fld (wordAt ws 1) 31 0) = .ok (t, i) → (t.ctx c).abortMode = false →
      exec (.free q) s = .next (resumeFrees (retire (count t pgOBJ 2) q.toNat))) ∧
    (∀ e, AtPacket s q.toNat 0x51 j ws → freeObject u c (fld (wordAt ws 1) 31 0) = .error e →
      exec (.free q) s = .next (faultJob u q.toNat e)) ∧
    (∀ n bs v, AtPacket s q.toNat 0x52 j ws → n = fld (wordAt ws 1) 15 0 → 1 ≤ n → n ≤ 9 → (c ≠ 0 → n ≠ 3 ∧ n ≠ 9) →
      bs = querySection u c n →
      writeOp u q.toNat (wordAt ws 2) (wordAt ws 3) (bs.take (fld (wordAt ws 1) 63 32)) = .ok v →
      exec (.query q) s = .next (retireWith v q.toNat (fun j =>
        { setD j (immOf (hdrOf ws) % 16) (BitVec.ofNat 64 bs.length) with d15 := 0 }))) ∧
    (∀ n, c ≠ 0 → querySection u c n = capSection u n (some (u.ctx c).part)) ∧
    (∀ n, c = 0 → removingCtxs u = [] → querySection u c n = capSection u n none) ∧
    (s.allocWait = [] → exec .allocResume s = .next s) ∧
    (∀ rest, s.halted = false → s.allocWait = .queue q.toNat :: rest → s.job q.toNat = some j → j.phase = .allocWait →
      curPkt j = some ws → opOf (hdrOf ws) = 0x50 →
      (let t := allocPacket (modJob { s with allocWait := [] } q.toNat (fun j => { j with phase := .run })) q.toNat ws
       exec .allocResume s = .next { t with allocWait := t.allocWait ++ rest }))

/-- What an allocation that succeeds leaves (R77, R80): the handle names a live entry with the object's size, attributes and
address, a size of 0 does not succeed, USED rises and stays within the quota, and no other context changes. -/
def Obligations.AllocatedObject : Prop :=
  ∀ (s t : State) (c size hint attr h va : Nat), allocObject s c size hint attr = .done t h va →
    (∃ i, h = (handleAt (s.ctx c) i).gen * 2 ^ 24 + i ∧
      handleAt (t.ctx c) i = { handleAt (s.ctx c) i with live := true, base := va, size := size, attr := attr, holders := 0 }) ∧
    0 < size ∧ (s.ctx c).used < (t.ctx c).used ∧ (t.ctx c).used ≤ (t.ctx c).quota ∧ (t.ctx c).quota = (s.ctx c).quota ∧
    va % 65536 = 0 ∧ ∀ d, d ≠ c → t.ctx d = s.ctx d

/-- A context's life (R68, R69, R85 to R87, Table 3.3): CONTEXT_CREATE of a FREE context whose tables its quota and its
partition's pool hold makes it ACTIVE; CONTEXT_DESTROY of a flow-mode context without FORCE puts it into TEARDOWN and stops
its queues, one of a context that is not there ends the job; a context whose work has ended enters REMOVING, and once its
keys and clears are done it is removed. Another die's CONTEXT_ABORT aborts the context's work here, and ABORT_DONE is one
answer less to wait for. -/
def Obligations.ContextLives : Prop :=
  ∀ (s : State) (q : BitVec 18) (j : Job) (ws : List Word) (u : State), u = countDecoded s q.toNat →
    (∀ c p t n r pool, AtPacket s q.toNat 0x80 j ws → c = fld (wordAt ws 1) 13 0 → p = fld (wordAt ws 1) 23 16 → c ≠ 0 →
      (u.ctx c).st = .free → p ≠ 255 →
      t = ctxTables (fld (wordAt ws 1) 27 24) (fld (wordAt ws 1) 36 32) (fld (wordAt ws 1) 44 40) →
      n = t.1 + t.2.1 + t.2.2 + 2 → n ≤ fld (wordAt ws 2) 25 0 →
      pool = poolFrom u p (rotation u p) →
      n ≤ poolFree pool → isSealed u p = false → r = takeTables n pool →
      ∃ x : Context, x.st = .active ∧ x.part = p ∧ x.quota = fld (wordAt ws 2) 25 0 ∧ x.used = n ∧ x.tables = r.1 ∧
        x.abortMode = bitAt (wordAt ws 1) 14 ∧ x.vaBits = fld (wordAt ws 1) 27 24 ∧ x.syncBits = fld (wordAt ws 1) 36 32 ∧
        x.handleBits = fld (wordAt ws 1) 44 40 ∧ x.handles = [] ∧ x.inflight = 0 ∧ x.lastStatus = 0 ∧ x.weight = 256 ∧
        exec (.contextCreate q) s = .next (retire (count (putPool ((clearTenant u c).setCtx c x) p r.2) pgOBJ 4) q.toNat)) ∧
    (∀ c, AtPacket s q.toNat 0x81 j ws → c = fld (wordAt ws 1) 13 0 → c ≠ 0 → (u.ctx c).st = .active → (u.ctx c).abortMode = false →
      flagsOf (hdrOf ws) % 2 = 0 →
      exec (.contextDestroy q) s = .next (modJob (disableQueues (u.setCtx c { u.ctx c with
        st := .teardown, destroyedBy := some q.toNat, forced := false }) c) q.toNat (fun j => { j with phase := .destroyWait c }))) ∧
    (∀ c, AtPacket s q.toNat 0x81 j ws → c = fld (wordAt ws 1) 13 0 → (c = 0 ∨ (u.ctx c).st = .free) →
      exec (.contextDestroy q) s = .next (opStatus u q.toNat ST_CONTEXT_INVALID)) ∧
    (∀ c : BitVec 14, s.per.abortFrom.filter (fun a => a.2 == c.toNat) = [] → workDone s c.toNat = true →
      (s.ctx c.toNat).st = .teardown → inflightOf s c.toNat = 0 → (s.ctx c.toNat).peerAborts = [] →
      exec (.teardownComplete c) s = .next (startRemoval s c.toNat)) ∧
    (∀ c : BitVec 14, (s.ctx c.toNat).st = .removing → (s.ctx c.toNat).cleared = true → (s.ctx c.toNat).clearTags = 0 →
      slotsFree s c.toNat = true → exec (.contextRemovalComplete c) s = .next (removeContext s c.toNat)) ∧
    (∀ c : BitVec 14, (s.ctx c.toNat).st ≠ .removing → exec (.contextRemovalComplete c) s = .next s) ∧
    (∀ (die : BitVec 16) (beat : BitVec 256) c, PeerMessage s die beat 0x10 (0xFF + mask 47 34) → c = bitsN beat.toNat 47 34 →
      (s.ctx c).st = .active →
      (let s1 := count s pgPER 1
       let s2 := { s1 with per := { s1.per with abortFrom := s1.per.abortFrom ++ [(die.toNat, c)] } }
       exec (.contextAbort die beat) s =
         .next (answerAborts (abortWork (disableQueues (s2.setCtx c { s2.ctx c with aborting := true }) c) c) c))) ∧
    (∀ (die : BitVec 16) (beat : BitVec 256) c, PeerMessage s die beat 0x11 (0xFF + mask 47 34) → c = bitsN beat.toNat 47 34 →
      exec (.abortDone die beat) s =
        .next ((count s pgPER 1).setCtx c { s.ctx c with peerAborts := (s.ctx c).peerAborts.erase die.toNat }))

/-- QUEUE_CREATE and its release (R101, R145, Table 4.9): parameters that pass every check make the queue's record, with CI
0 in its index line, DISABLED, or ENABLED where the packet asks for it; parameters that fail end the job with the status of
the check; a queue that is DISABLED returns to FREE. -/
def Obligations.QueuePackets : Prop :=
  ∀ (s : State) (q : BitVec 18) (j : Job) (ws : List Word) (u : State), u = countDecoded s q.toNat →
    let f := qFields (wordAt ws 1)
    let n := fld (wordAt ws 1) 17 0
    (∀ home t, AtPacket s q.toNat 0x82 j ws → flagsOf (hdrOf ws) = 0 →
      createStatus u f (wordAt ws 2).toNat (wordAt ws 3).toNat = ST_OK → home = homeFor u f.home →
      vWrite u home f.owner ((wordAt ws 3).toNat + 8) (zeroBytes 8) = .ok t →
      exec (.queueCreate q true) s = .next (retire (count (t.setQueue f.queue
        (queueRecord f home (wordAt ws 2).toNat (wordAt ws 3).toNat)) pgSTP 0) q.toNat) ∧
      exec (.queueCreate q false) s = .next (refuseQueue t q.toNat ST_MEMORY_ERROR)) ∧
    (∀ home t, AtPacket s q.toNat 0x82 j ws → flagsOf (hdrOf ws) = 2 →
      createStatus u f (wordAt ws 2).toNat (wordAt ws 3).toNat = ST_OK → home = homeFor u f.home →
      vWrite u home f.owner ((wordAt ws 3).toNat + 8) (zeroBytes 8) = .ok t →
      exec (.queueCreate q true) s = .next (retire (queueEnable (count (t.setQueue f.queue
        (queueRecord f home (wordAt ws 2).toNat (wordAt ws 3).toNat)) pgSTP 0) f.queue) q.toNat)) ∧
    (∀ st ok, AtPacket s q.toNat 0x82 j ws → flagsOf (hdrOf ws) % 2 = 0 →
      createStatus u f (wordAt ws 2).toNat (wordAt ws 3).toNat = st → st ≠ ST_OK →
      exec (.queueCreate q ok) s = .next (refuseQueue u q.toNat st)) ∧
    (AtPacket s q.toNat 0x82 j ws → flagsOf (hdrOf ws) = 1 → n ≠ 0 → n ≠ 0x3FFFF → fld (wordAt ws 1) 63 18 = 0 →
      wordAt ws 2 = 0 → wordAt ws 3 = 0 → (u.queue n).st = .disabled →
      exec (.queueRelease q) s = .next (retire (count ({ u with
        loe := { u.loe with watches := u.loe.watches.filter (fun w => w.q != n) } }.setQueue n Queue.reset) pgSTP 1) q.toNat)) ∧
    (AtPacket s q.toNat 0x82 j ws → flagsOf (hdrOf ws) = 1 → (n = 0 ∨ n = 0x3FFFF ∨ (u.queue n).st = .enabled) →
      exec (.queueRelease q) s = .next (refuseQueue u q.toNat ST_QUEUE_BUSY))

/-- Upstream requests of an endpoint (R15, R175, R193): while the spine sleeps one wakes it and is held; with the spine
awake, from an endpoint that works for no context they are discarded and recorded; a fifth unanswered one and a
malformed one are refused with ST_UPSTREAM_BUSY and recorded; an ALLOC and a FREE of an ACTIVE context are served and
answered. -/
def Obligations.UpstreamRequests : Prop :=
  ∀ (s : State) (e : BitVec 14) (b0 b1 : BitVec 128),
    let tag := bitsN b0.toNat 31 16
    let s1 := s.setEp e.toNat { s.ep e.toNat with upstream := (s.ep e.toNat).upstream + 1 }
    let hold (k : UpKind) (x y : Nat) : State :=
      wakeSpine { s with bsn := { s.bsn with held := s.bsn.held ++ [.upstream k e.toNat x y] } }
    (s.bsn.spineAwake = false →
      exec (.upstreamAlloc e b0 b1) s = .next (hold .alloc b0.toNat b1.toNat) ∧
      exec (.upstreamFree e b0) s = .next (hold .free b0.toNat 0) ∧
      exec (.unknownUpstreamRequest e b0 b1) s = .next (hold .other b0.toNat b1.toNat)) ∧
    (s.bsn.spineAwake = true →
    (epCtx s e.toNat = none →
      exec (.upstreamAlloc e b0 b1) s = .next (setErr s pgECP 2 e.toNat) ∧
      exec (.upstreamFree e b0) s = .next (setErr s pgECP 2 e.toNat)) ∧
    (∀ c, epCtx s e.toNat = some c → 4 ≤ (s.ep e.toNat).upstream →
      exec (.upstreamAlloc e b0 b1) s =
        .next (setErr (answerUp s e.toNat tag (resultBlock 0 ST_UPSTREAM_BUSY 0)) pgECP 4 e.toNat)) ∧
    (∀ c t h va, epCtx s e.toNat = some c → (s.ep e.toNat).upstream < 4 → upFormat b0.toNat b1.toNat 1 = true →
      (s1.ctx c).st = .active →
      allocObject s1 c (bitsN b0.toNat 127 64) (bitsN b1.toNat 63 0) (bitsN b0.toNat 34 32) = .done t h va →
      exec (.upstreamAlloc e b0 b1) s = .next (endUp t e.toNat tag (resultBlock h ST_OK va))) ∧
    (∀ c t i, epCtx s e.toNat = some c → (s.ep e.toNat).upstream < 4 → upFormat b0.toNat 0 2 = true → (s1.ctx c).st = .active →
      freeObject s1 c (bitsN b0.toNat 95 64) = .ok (t, i) → (t.ctx c).abortMode = false →
      exec (.upstreamFree e b0) s = .next (resumeFrees (count (endUp t e.toNat tag (resultBlock 0 ST_OK 0)) pgOBJ 2))) ∧
    (∀ c, epCtx s e.toNat = some c → upFormat b0.toNat b1.toNat 1 = false → upFormat b0.toNat b1.toNat 2 = false →
      exec (.unknownUpstreamRequest e b0 b1) s =
        .next (setErr (answerUp s e.toNat tag (resultBlock 0 ST_UPSTREAM_BUSY 0)) pgECP 4 e.toNat))) ∧
    (∀ t block, answerUp t e.toNat tag block = sendMsg t (e.toNat / 32 % 8) 3 (e.toNat / 32) 0 (2 ^ (e.toNat % 32))
      (0x01 + tag * 2 ^ 16 + leNat block * 2 ^ 64) [])

/-- The packets of Table 5.13 that bind, swap and share (R258, R259, R263, R273, R275): a BIND or UNBIND whose list passes
its checks stages the changed membership, or for channels begins to move their granules, and one whose list fails gets the
operation status of the first check; while a swap of the partition is pending, or an earlier BIND or UNBIND of it (log 51),
it waits. EPOCH_SWAP makes the staged generation's swap pending. SET_SHARES and
REGULATOR_SET set a context's share and a partition's reservation. -/
def Obligations.PartitionPackets : Prop :=
  ∀ (s : State) (q : BitVec 18) (j : Job) (ws : List Word) (m : MemView) (u : State), u = countDecoded s q.toNat →
    let w := wordAt ws 1
    let p := fld w 7 0
    (∀ (un : Bool) (b : State) (kind : Nat), b = bindTurn s q.toNat → kind = fld w 9 8 →
      (if un = true then AtPacket b q.toNat 0x84 j ws else AtPacket b q.toNat 0x83 j ws) →
      (let i := if un = true then Instr.unbind q m else .bind q m
       let v := countDecoded b q.toNat
       let held := heldOf v q.toNat
       let n := 8 * fld w 31 16
       (p = 255 → exec i s = .next (opStatus (count v pgSCH 1) q.toNat ST_PARTITION_INVALID)) ∧
       (∀ h, p ≠ 255 → operandHandle (v.ctx (v.queue q.toNat).owner) held (wordAt ws 2) (wordAt ws 3) n false = .ok h →
         (bindBusy v p = true →
           exec i s = .next (modJob (holdPacket v q.toNat h) q.toNat (fun j => { j with phase := .swapWait p }))) ∧
         (∀ bs x, bindBusy v p = false → readKept v q.toNat held (wordAt ws 2) (wordAt ws 3) n m = .ok bs →
           x = holdPacket v q.toNat h →
           (let es := (wordsOfBytes bs).map (bindEntry kind un)
            let us := (es.filterMap id).map (·.unit)
            let st := bindChecks x p kind un es
            (st ≠ ST_OK → exec i s = .next (opStatus (count x pgSCH 1) q.toNat st)) ∧
            (st = ST_OK → (un = true → kind ≠ 3) →
              exec i s = .next (applyBind x q.toNat p kind un (es.filterMap id))) ∧
            (st = ST_OK → un = true → kind = 3 →
              exec i s = .next (migSettle (modJob (x.setPart p { x.part p with
                migrating := some q.toNat, migNow := us,
                migChans := (x.part p).migChans ++ us.filter (fun c => !(x.part p).migChans.contains c) })
                q.toNat (fun j => { j with phase := .bindWait p })) p))))))) ∧
    (AtPacket s q.toNat 0x85 j ws → ∀ n g, (u.part p).staged = some (n, g) →
      (g.toNat = fld w 63 32 → (u.part p).swap = none → gridValid u (u.part p) n = true →
        (isSealed u p = true → logRoom u p 1 = true) →
        exec (.epochSwap q) s = .next (modJob (u.setPart p { u.part p with swap := some (q.toNat, g) }) q.toNat
          (fun j => { j with phase := .swapWait p }))) ∧
      ((g.toNat ≠ fld w 63 32 ∨ (u.part p).swap.isSome = true) →
        exec (.epochSwap q) s = .next (opStatus (count u pgSCH 3) q.toNat ST_EPOCH_GENERATION))) ∧
    (∀ c, AtPacket s q.toNat 0x86 j ws → c = fld w 13 0 →
      ((u.ctx c).st = .active → fld w 31 16 ≠ 0 →
        exec (.setShares q) s =
          .next (retire (u.setCtx c { u.ctx c with weight := fld w 31 16, slice := fld w 47 32 }) q.toNat)) ∧
      ((u.ctx c).st = .active → fld w 31 16 = 0 → exec (.setShares q) s = .next (opStatus u q.toNat ST_SHARES_PARAM))) ∧
    (∀ ms g, AtPacket s q.toNat 0x87 j ws → ms = bitList 32 (fld w 63 32) → g = fld w 31 16 →
      (∀ c, c ∈ ms → c ∈ (u.part p).active.chans.map (·.2)) →
      ((∀ c, c ∈ ms → g ≤ (u.chan c).gbps * 9 / 10) →
        exec (.regulatorSet q) s = .next (retire (count (u.setPart p { u.part p with
          minGbps := ms.foldl (fun t c => tset 0 t c g) (u.part p).minGbps, maxOut := fld (wordAt ws 2) 9 0 }) pgBWR 2) q.toNat)) ∧
      (∀ c, c ∈ ms → (u.chan c).gbps * 9 / 10 < g →
        exec (.regulatorSet q) s = .next (opStatus (count u pgBWR 3) q.toNat ST_REG_ADMISSION)))

/-- What moves a swap, a migration and a window on (R189, R264 to R268, R272): with every job of the partition at a
boundary and nothing outstanding a pending swap writes its tables, and the staged membership takes effect once every
token is in; with the jobs not held at fences the held ones go on for one layer; a migration moves the granules that
stay on the channels an UNBIND removes; a changed line of a pacing window is written with the next sequence number; a
slice that ends makes the scheduler decide where another context is eligible. A token of a table write that never comes
leaves its endpoint SUSPECT, and it is not waited for. -/
def Obligations.SwapsAndMigrations : Prop :=
  ∀ (s : State) (pb : BitVec 8) (cb : BitVec 14) (p c : Nat), p = pb.toNat → c = cb.toNat →
    (∀ v n g, (s.part p).swap = some v → (s.part p).staged = some (n, g) → (s.part p).swapLate = none → s.halted = false →
      (∀ e ∈ partJobs s p, atBoundary e.2 = true) → partQuiet s p = true →
      (let s1 := appendLog s p 5 0 0 0 0 0 (sha384 (gridBytes n))
       let cores := n.cores.map (·.2.2)
       let leave := ((s.part p).active.cores.map (·.2.2)).filter (fun e => !cores.contains e)
       let s2 := s1.setPart p { s1.part p with swapLate := some (cores.length + leave.length) }
       exec (.epochSwapTakeEffect pb) s =
         .next (swapSettle (gridWrite (disarmAll (gridWrite s2 2 p g.toNat n cores) leave) 3 p g.toNat n leave) p))) ∧
    ((s.part p).swap = none → exec (.epochSwapTakeEffect pb) s = .next s ∧ exec (.swapDeferral pb) s = .next s) ∧
    (∀ v h, (s.part p).swap = some v → (s.part p).swapLate = none → partQuiet s p = true →
      h = (partJobs s p).filter (fun e => heldBySwap s p e.2) → h ≠ [] →
      (∀ e ∈ partJobs s p, heldBySwap s p e.2 = true ∨ e.2.phase = .fence) →
      exec (.swapDeferral pb) s = .next (h.foldl (fun t e => modJob t e.1 (fun k => { k with deferralPass := true }))
        (s.setPart p { s.part p with deferrals := (s.part p).deferrals + 1 }))) ∧
    ((s.part p).migrating = none → exec (.channelMigration pb cb) s = .next s) ∧
    (∀ q, (s.part p).migrating = some q → (s.ctx c).part = p → (s.ctx c).st = .active → ctxQuiet s c = true →
      exec (.channelMigration pb cb) s = .next (migSettle (moveGranules (((s.ctx c).pages.map (·.2)).filter (fun e =>
        onChans s (s.part p).migNow e.gran && !(migrating s p).contains e.gran &&
        (match chanOf s e.gran with | some m => (s.chan m).retrainBy.isNone | none => false))) p c s) p)) ∧
    (∀ l, exec (.pacingWindowWrite cb l) s = .next (if l < paceLineCount s c then writePace s c l else s)) ∧
    (∀ l t, (s.ctx c).pace.getLsbD 0 = true → (s.ctx c).st = .active → l < paceLineCount s c →
      (let seq := ((tget (0, 0) (s.ctx c).paceLines l).2 + 1) % 256
       let es := ((paceEps (s.part (s.ctx c).part).active).drop (32 * l)).take 32
       vWrite (s.setCtx c { s.ctx c with paceLines := tset (0, 0) (s.ctx c).paceLines l (s.now, seq) }) 8 c
         ((s.ctx c).pace.toNat / 64 * 64 % 2 ^ 57 + 64 * l) (padBytes 64 (es.flatMap (paceEntry s seq))) = .ok t →
       exec (.pacingWindowWrite cb l) s = .next (count t pgECP 6))) ∧
    (∀ v, (s.part p).cur = some v → s.halted = false → 1 < (eligibles s p).length →
      exec (.sliceEnd pb) s = .next (decideSched s p)) ∧
    ((eligibles s p).length ≤ 1 → exec (.sliceEnd pb) s = .next s) ∧
    (∀ e : BitVec 14, exec (.tableWriteTimeout e) s = .next ((owedTables s e.toNat).foldl (tableLate e.toNat) s)) ∧
    (∀ e, (tableFault s p 1 e).part p = { s.part p with ackFault := true } ∧
      ((s.ep e).unit.st = .healthy → ((tableFault s p 1 e).ep e).unit.st = .suspect))

/-- Bandwidth regulation (R57, R275, R277): a report replaces one queue's occupancy of its channel and ends its staleness,
a report of an unlisted kind changes nothing, and a stale channel counts as full. An interval with the spine awake first
moves every channel's throttle and then sends the 524 masters their limits, two to a beat, in order, never 0; asleep it sends
nothing. Here no access of the block's own waits for its port. -/
def Obligations.BandwidthRegulation : Prop :=
  ∀ (s : State) (c : BitVec 5) (v : BitVec 12),
    exec (.levelReport c 0 v) s =
      .next (s.setChan c.toNat { s.chan c.toNat with occRd := v.toNat, lastReport := s.now, stale := false }) ∧
    exec (.levelReport c 1 v) s =
      .next (s.setChan c.toNat { s.chan c.toNat with occWr := v.toNat, lastReport := s.now, stale := false }) ∧
    exec (.levelReport c 2 v) s = .next (stateReport s c.toNat (v.toNat % 4)) ∧
    exec (.levelReport c 3 v) s = .next s ∧
    (∃ t, exec (.channelReportStale c) s = .next t ∧ occOf (t.chan c.toNat) c.toNat = Config.fullOcc c.toNat ∧
      { t with chans := s.chans } = s ∧ ∀ i, i ≠ c.toNat → t.chan i = s.chan i) ∧
    (∀ act : List (BitVec 10),
      (s.bsn.spineAwake = false → exec (.creditInterval act) s = .next s) ∧
      (s.bsn.spineAwake = true → s.flights.all (·.sent) = true →
        (let s1 := (liveChans s).foldl throttle (count s pgBWR 0)
         let lims := (livePartitions s1).map (fun p => (p, partLimit s1 (act.map (·.toNat)) p))
         ∃ t, exec (.creditInterval act) s = .next t ∧
           t.out = s.out ++ (List.range 262).map (fun i =>
             Out.credit (2 * i) (masterLimit s1 lims (2 * i)) (2 * i + 1) (masterLimit s1 lims (2 * i + 1))) ∧
           ∀ m, m < 524 → tget 16 t.limits m = masterLimit s1 lims m ∧ 1 ≤ masterLimit s1 lims m)))

/-- Self-tests and resets of units (R373, R377 to R379, R392): SELFTEST of an unbound unit runs it at once, one of a bound
unit whose partitions allow a pause waits for its boundary, one of a FUSED unit or one that may not pause is refused. A
pending run is made, or times out, where the unit's partitions stand; a run passes where every output's digest is that of
the known-answer table, or a channel's patterns read back. UNIT_RESET of LEVEL 3 resets the block; of a lower
level it acts on its units; endpoints that do not answer have their commands absorbed.
Retraining (R380, R381): RETRAIN of a channel quiesces it and of a link sends its LINK command; the channel's reports
move it on: state 2 lets the train command go, state 1 ends it, state 3 or no report in time ends it with
ST_RETRAIN_FAILED and the channel a DEFECT. -/
def Obligations.UnitsInService : Prop :=
  (∀ (s : State) (q : BitVec 18) (j : Job) (ws : List Word) (r : RunResult) (u : State), u = countDecoded s q.toNat →
    (∀ k n, AtPacket s q.toNat 0x88 j ws → (k, n) = testUnit s ws → activating s = false → unitBusy s k n = false →
      (unitOf s k n).karPending = false →
      ((unitOf s k n).st = .fused → exec (.selftest q r) s = .next (opStatus u q.toNat ST_UNIT_STATE)) ∧
      ((unitOf s k n).st ≠ .fused → unitParts s k n = [] →
        exec (.selftest q r) s = .next (endTest (applyRun u k n r) q.toNat (runPasses u false k n r))) ∧
      ((unitOf s k n).st ≠ .fused → unitParts s k n ≠ [] → (unitParts s k n).all (pauseOk s) = true →
        exec (.selftest q r) s = .next (modJob (setUnit u k n { unitOf u k n with karPending := true }) q.toNat
          (fun j => { j with phase := .unitWait k n }))) ∧
      ((unitOf s k n).st ≠ .fused → unitParts s k n ≠ [] → (unitParts s k n).all (pauseOk s) = false →
        exec (.selftest q r) s = .next (opStatus u q.toNat ST_UNIT_BOUND))) ∧
    (∀ k (n : BitVec 14) v, v = unitKey s k n.toNat → s.halted = false → (unitOf s k v).karPending = true →
      unitBusy s k v = false → (∀ p ∈ unitParts s k v, stands s p = true) →
      exec (.boundaryKnownAnswerRun k n r) s = .next (runUnit s k v r) ∧
      exec (.knownAnswerRunTimeout k n) s = .next (runUnit s k v .timeout)) ∧
    (∀ k n, (unitOf s k n).st = .suspect →
      (runPasses s false k n r = true → (unitOf (applyRun s k n r) k n).st = .healthy) ∧
      (runPasses s false k n r = false → (unitOf (applyRun s k n r) k n).st = .defect)) ∧
    (∀ n os, runPasses s false .endpoint n (.outputs os) = (os.map sha384 == runDigests s false [n])) ∧
    (∀ n b, runPasses s false .channel n (.patterns b) = b) ∧ (∀ k n, runPasses s false k n .timeout = false) ∧
    (AtPacket s q.toNat 0x89 j ws → resetWaits s ws = false →
      (resetLevel ws = 3 →
        exec (.unitReset q) s = .next (startBoot { blockReset u with bsn := { (blockReset u).bsn with blkAsserted := u.bsn.blkAsserted } } true)) ∧
      (resetLevel ws ≠ 3 → exec (.unitReset q) s = .next (partialReset u q.toNat ws))) ∧
    (∀ e : BitVec 14,
      (owedCmds s e.toNat = [] → exec (.abortAbsorb e) s = .next s) ∧
      (owedCmds s e.toNat ≠ [] → exec (.abortAbsorb e) s = .next (pumpZero (pumpBlock (settleResets (resumeFrees
        ((owedCmds s e.toNat).foldl absorbCmd (setSuspect s .endpoint e.toNat (classOf ST_ABORTED) false))))))))) ∧
  (∀ (s : State) (q : BitVec 18) (j : Job) (ws : List Word) (u : State) (c : BitVec 5), u = countDecoded s q.toNat →
    (AtPacket s q.toNat 0x8A j ws → retrainWaits s q.toNat ws = false →
      ∀ k n, (k, n) = retrainUnit s ws →
        ((unitOf s k n).st = .fused → exec (.retrain q) s = .next (opStatus u q.toNat ST_UNIT_STATE)) ∧
        ((unitOf s k n).st ≠ .fused → k = .channel →
          exec (.retrain q) s = .next (startRetrain (modJob u q.toNat (fun j => { j with phase := .unitWait k n })) n q.toNat)) ∧
        ((unitOf s k n).st ≠ .fused → k = .link →
          exec (.retrain q) s = .next (issueLinkRetrain (modJob u q.toNat (fun j => { j with phase := .unitWait k n })) q.toNat
            (fld (wordAt ws 1) 22 16) n))) ∧
    (∀ id x, x = s.chan c.toNat → x.retrainBy = some id →
      (x.retrainSent = false →
        exec (.levelReport c 2 2) s =
          .next (emit ((s.setChan c.toNat { x with state := 2 }).setChan c.toNat
            { x with state := 2, retrainSent := true, retrainAt := s.now }) (.bwrCtl c.toNat 1))) ∧
      (x.retrainSent = true →
        exec (.levelReport c 2 1) s = .next (endRetrain (s.setChan c.toNat { x with state := 1 }) c.toNat true)) ∧
      exec (.levelReport c 2 3) s = .next (endRetrain (s.setChan c.toNat { x with state := 3 }) c.toNat false) ∧
      exec (.trainWaitExpiry c) s = .next (endRetrain s c.toNat false)) ∧
    ((s.chan c.toNat).retrainBy = none → exec (.trainWaitExpiry c) s = .next s))

/-! ## Security, firmware, power, progress, twin -/

/-- The security queue's packets (R296 to R299, R304): KEY_INSTALL of a blob that unwraps and passes every check installs
the key under its slot, which is then ACTIVE, and a refused one gets its status; KEY_REVOKE starts the slot's drain and
waits for it; SEAL_PARTITION gives an empty unsealed partition to the requester and clears its units, and is refused once
DEBUG_OPENED is set; MEASURE_REPORT writes the signed report. -/
def Obligations.SecurityPackets : Prop :=
  ∀ (s : State) (q : BitVec 18) (j : Job) (ws : List Word) (u : State), u = countDecoded s q.toNat →
    (∀ r y k c, AtPacket s q.toNat 0xC0 j ws → s.ntc.running = some r → k = fld (wordAt ws 1) 11 0 →
      c = fld (wordAt ws 1) 29 16 → inNotch (fld (wordAt ws 2) 51 0) (fld (wordAt ws 3) 15 0) = true →
      (k < 2 → exec (.keyInstall q) s = .next (refuseInstall u q.toNat k ST_KEY_SLOT)) ∧
      (2 ≤ k → (s.slot k).st = .free → fld (wordAt ws 3) 15 0 = 224 →
        (unwrap u r.blob = none → exec (.keyInstall q) s = .next (refuseInstall u q.toNat k ST_KEY_UNWRAP)) ∧
        (unwrap u r.blob = some y → installStatus u r.partition c y = ST_OK →
          exec (.keyInstall q) s = .next (retire (installKey u k r.partition c y) q.toNat) ∧
          ((installKey u k r.partition c y).slot k).st = .active ∧
          ((installKey u k r.partition c y).slot k).key = y.key))) ∧
    (∀ k, AtPacket s q.toNat 0xC1 j ws → k = fld (wordAt ws 1) 11 0 → 2 ≤ k → (s.slot k).st ≠ .free →
      exec (.keyRevoke q) s = .next (modJob (drainSlot u k) q.toNat (fun j => { j with phase := .keyWait k }))) ∧
    (∀ r p o, AtPacket s q.toNat 0xC2 j ws → s.ntc.running = some r → requesterOf s r.sid = some o →
      p = fld (wordAt ws 1) 7 0 →
      (s.ntc.debugOpened = true → exec (.sealPartition q) s = .next (opStatus u q.toNat ST_SEAL_DENIED)) ∧
      (s.ntc.debugOpened = false → p ≠ 255 → isSealed u p = false → u.ctxs.any (fun c => c.2.part == p && c.2.st != .free) = false →
        logRoom u p 1 = true →
        exec (.sealPartition q) s = .next (sealGo (modJob (changeOwner (appendLog (u.setPart p { u.part p with
          sealed := some o, log := [], chain := [] }) p 0 0 0 0 0 0 o) p o) q.toNat (fun j => { j with phase := .sealWait p })) p))) ∧
    (∀ r, AtPacket s q.toNat 0xC3 j ws → r = report u (bytesOfWords ((ws.drop 3).take 4)) →
      r.length ≤ fld (wordAt ws 2) 31 0 → inNotch (fld (wordAt ws 1) 51 0) r.length = true →
      writeFails s (fld (wordAt ws 1) 51 0) r.length = false →
      (let a := fld (wordAt ws 1) 51 0
       let w := count (emits u (writesOf u (s.queue q.toNat).home [(a, 1, r.length)] r)) pgNTC 5
       exec (.measureReport q) s = .next (retire { w with ntc := { w.ntc with mbx := { w.ntc.mbx with large := r } } } q.toNat)))

/-- Key drains (R288 to R292): a destination's acknowledgement is waited for no longer, and the last one overwrites the
key; KEY_DRAIN of another die ends its pages' resolution and answers on every route; the last KEY_DRAINED starts the
requests to the destinations; a destination that does not answer is SUSPECT and reset, and the routes that do not answer are
passed by, their links SUSPECT; a ZEROED slot is released. -/
def Obligations.KeyDrains : Prop :=
  ∀ (s : State) (kb : BitVec 12) (k : Nat) (x : KeySlot), k = kb.toNat → x = s.slot k →
    (∀ d : BitVec 10, x.st = .draining → x.requested = true → d.toNat ∈ x.destWait →
      (x.destWait.filter (· != d.toNat) ≠ [] → exec (.keyDrainAck d kb) s =
        .next (s.setSlot k { x with destWait := x.destWait.filter (· != d.toNat) })) ∧
      (x.destWait.filter (· != d.toNat) = [] → exec (.keyDrainAck d kb) s =
        .next (zeroSlot (s.setSlot k { x with destWait := [] }) k)) ∧
      (d.toNat < 512 →
        (let s2 := setSuspect (setErr (s.setSlot k { x with late := x.late ++ [d.toNat] }) pgNTC 2 k) .channel d.toNat (classOf ST_KEY_REVOKED) false
         exec (.drainAckTimeout kb d) s = .next (if (s2.chan d.toNat).retrainBy.isSome then s2 else startRetrain s2 d.toNat (keyOp d.toNat)))) ∧
      (512 ≤ d.toNat →
        (let s2 := setSuspect (setErr (s.setSlot k { x with late := x.late ++ [d.toNat] }) pgNTC 2 k) .hub (d.toNat - 512) (classOf ST_KEY_REVOKED) false
         (∀ o ∈ s.swb.resetOps, o.id ≠ keyOp d.toNat) →
         exec (.drainAckTimeout kb d) s = .next (startReset s2 (keyOp d.toNat) (hubEps s2 (d.toNat - 512)) true)))) ∧
    (∀ d : BitVec 10, ¬(x.st = .draining ∧ x.requested = true ∧ d.toNat ∈ x.destWait) →
      exec (.keyDrainAck d kb) s = .next s ∧ exec (.drainAckTimeout kb d) s = .next s) ∧
    (∀ die beat c, PeerMessage s die beat 0x40 (0xFF + mask 47 34 + mask 127 116) → c = bitsN beat.toNat 47 34 →
      kb.toNat = bitsN beat.toNat 127 116 →
      exec (.keyDrain die beat) s = .next (sendAllRoutes (revokeFor (count s pgPER 1) c die.toNat k) die.toNat (keyBeat 0x41 c k))) ∧
    (∀ (src : PeerSrc) beat r, PeerMessage s src.die beat 0x41 (0xFF + mask 47 34 + mask 127 116) →
      kb.toNat = bitsN beat.toNat 127 116 → x.st = .draining → x.requested = false →
      r = (src.die.toNat, src.link.toNat, src.chan.toNat) → r ∈ x.dieWait →
      (x.dieWait.erase r = [] → exec (.keyDrained src beat) s =
        .next (drainRequest ((count s pgPER 1).setSlot k { x with dieWait := [] }) k)) ∧
      (x.dieWait.erase r ≠ [] → exec (.keyDrained src beat) s =
        .next ((count s pgPER 1).setSlot k { x with dieWait := x.dieWait.erase r }))) ∧
    (x.st = .draining → x.requested = false → x.dieWait ≠ [] →
      (let links := (x.dieWait.map (fun r => r.2.1)).eraseDups
       exec (.remoteDrainTimeout kb) s = .next (drainRequest (setErr ((links.filterMap (linkEp s)).foldl
         (fun t e => setSuspect t .link e (classOf ST_KEY_REVOKED) false) s) pgNTC 2 k) k))) ∧
    (x.st = .zeroed → (∀ j, s.job secQ = some j → j.phase ≠ .keyWait k) →
      exec (.keySlotRelease kb) s = .next (startClear (s.setSlot k KeySlot.reset) x.ctx)) ∧
    (∀ j, x.st = .zeroed → s.job secQ = some j → j.phase = .keyWait k →
      exec (.keySlotRelease kb) s = .next (startClear (retire (s.setSlot k KeySlot.reset) secQ) x.ctx)) ∧
    (x.st ≠ .zeroed → exec (.keySlotRelease kb) s = .next s)

/-- Firmware (R365, R382, R383): FW_ACTIVATE copies the image to the spill region, and begins with its first part where
the image is valid, unless one is in progress; a part at its turn takes the image, its slice resumes, and the next part
begins; a store that ends well counts its sectors and is DONE, one that fails sets ERROR. -/
def Obligations.Firmware : Prop :=
  ∀ (s : State) (q : BitVec 18) (j : Job) (ws : List Word) (im : List Byte) (u : State), u = countDecoded s q.toNat →
    (AtPacket s q.toNat 0x8B j ws →
      (s.swb.fwActive.isSome = true → exec (.fwActivate q im) s = .next (opStatus u q.toNat ST_FW_BUSY)) ∧
      (s.swb.fwActive = none → fwParts ws ≠ [] → fwImageOk u im = false →
        exec (.fwActivate q im) s = .next (opStatus (spillImage u im) q.toNat ST_FW_IMAGE)) ∧
      (∀ k, s.swb.fwActive = none → k ∈ fwParts ws → k < 8 → (s.slice k).fwDigest ≠ imgDigest im → fwImageOk u im = true →
        (∀ p ∈ sealedParts u, logRoom u p (fwParts ws).length = true) →
        (let s0 := emits u (writesOf u 8 [(u.swb.settings.regions.getD 2 0 + 67108864, 1, imgBytes im + 96)] (im.take (imgBytes im + 96)))
         exec (.fwActivate q im) s = .next (nextPart (modJob { s0 with swb := { s0.swb with
             fwActive := some q.toNat, fwTodo := fwParts ws, fwNew := [], fwNext := im } } q.toNat (fun j => { j with phase := .fwWait })))))) ∧
    (∀ (k : Fin 9) rest, s.swb.fwTodo = k.val :: rest → k.val < 8 → s.halted = false → sliceUp s k.val = true →
      s.bsn.spineAwake = true →
      s.jobs.all (fun e => (s.queue e.1).home != k.val || (match e.2 with | some j => betweenPackets j | none => true)) = true →
      (let s1 := loadSlice s k.val s.swb.fwNext
       let s2 := rewriteCap { s1 with swb := { s1.swb with fwTodo := rest, fwNew := s1.swb.fwNew ++ [k.val] } }
       exec (.fwSliceActivate k) s =
         .next (nextPart (pumpSlice (s2.setSlice k.val { s2.slice k.val with paused := false }) k.val)))) ∧
    (s.swb.fwTodo = [] → ∀ k, exec (.fwSliceActivate k) s = .next s) ∧
    (∀ m, s.swb.spiBusy = true →
      (∀ bs, memRead s m (fld s.swb.spiSrc 51 0) (bitsN s.swb.spiLen.toNat 26 0) = some bs →
        exec (.spiStoreDone true m) s = .next (count (emit { s with swb := { s.swb with spiBusy := false, spiDone := true } }
          (.spiStore (bitsN s.swb.spiDst.toNat 25 0) bs)) pgSWB 7 (bitsN s.swb.spiLen.toNat 26 0 / 4096))) ∧
      exec (.spiStoreDone false m) s = .next (setErr { s with swb := { s.swb with spiBusy := false, spiError := true } } pgSWB 1
        (bitsN s.swb.spiDst.toNat 25 0 / 4096)))

/-- Tokens, events, the watchdog, the scrub and trace times (R15, R175, R190, R343 to R345, R349, R354 to R357, R402): a
token wakes a sleeping spine and is held for it; with the spine awake one for a record that awaits its endpoint is
accepted with the status of Table 7.7, and another is recorded in ECP; an event enters its ring of sixteen as the newest
entry; the watchdog looks at each multiple of 1 ms and leaves alone a block none of whose contexts is due; a scrub of an
item's word meets the armed error, or what the read showed, once; TIME records mark the wraps of TIME30. -/
def Obligations.TokensAndProgress : Prop :=
  ∀ (s : State) (e : BitVec 14),
    (∀ (tag : BitVec 16) (st : Byte) (cy : BitVec 48) (b : Bool),
      (s.bsn.spineAwake = false → exec (.engineToken e tag st cy b) s = .next (wakeSpine { s with
        bsn := { s.bsn with held := s.bsn.held ++ [.token e.toNat tag.toNat st.toNat cy.toNat b] } })) ∧
      (s.bsn.spineAwake = true →
        (recAt s tag.toNat = none → exec (.engineToken e tag st cy b) s = .next (setErr s pgECP 0 e.toNat)) ∧
        (∀ x, recAt s tag.toNat = some x → e.toNat ∉ x.await →
          exec (.engineToken e tag st cy b) s = .next (setErr s pgECP 1 e.toNat)) ∧
        (∀ x, recAt s tag.toNat = some x → e.toNat ∈ x.await →
          exec (.engineToken e tag st cy b) s =
            .next (acceptToken s (tag.toNat / 8192) (tag.toNat % 8192) e.toNat tag.toNat st.toNat cy.toNat b x)))) ∧
    (skipStatus 2 = some ST_IMEM_GENERATION ∧ skipStatus 3 = some ST_ENGINE_ILLEGAL ∧ skipStatus 4 = some ST_SPAD_RANGE ∧
      (∀ v, skipStatus v ≠ none → v = 2 ∨ v = 3 ∨ v = 4) ∧ engineFault 5 = some ST_ENGINE_MEMORY ∧
      (∀ v, 6 ≤ v → v ≤ 0x7F → engineFault v = some ST_ENGINE_FAULT) ∧ (∀ v, v < 5 ∨ 0x80 ≤ v → engineFault v = none) ∧
      (∀ v, engineOk v = true ↔ v = 0 ∨ 0x80 ≤ v)) ∧
    (∀ v : BitVec 128, v.toNat % 256 ≠ 0x40 → (s.ep e.toNat).ring.length ≤ 16 → ∃ t, exec (.engineEvent e v) s = .next t ∧
      (t.ep e.toNat).ring.length ≤ 16 ∧
      (t.ep e.toNat).ring.getLast? = some (eventEntry s e.toNat (v.toNat % 256) (bitsN v.toNat 15 8) (bitsN v.toNat 55 32)) ∧
      ∀ i, i ≠ e.toNat → t.ep i = s.ep i) ∧
    (∀ v : BitVec 128, v.toNat % 256 = 0x40 → s.loe.trace.ctrl.getLsbD 4 = true →
      exec (.engineEvent e v) s = .next (traceRec s 2 e.toNat (epCtx s e.toNat) (v.toNat.testBit 8) (bitsN v.toNat 63 16))) ∧
    (∀ m, s.now % 1000000 ≠ 0 → exec (.watchdogCheck m) s = .next s) ∧
    (∀ m, s.now % 1000000 = 0 → (∀ c ∈ s.ctxs, wdogDue s c.1 = false) → exec (.watchdogCheck m) s = .next s) ∧
    (∀ m c cs x, s.now % 1000000 = 0 → s.halted = false → s.ctxs = (c, x) :: cs → wdogDue s c = true →
      exec (.watchdogCheck m) s = .next ((cs.map (·.1)).foldl (fun t c => if t.halted then t else if wdogDue t c then wdogFire t c m else t)
        (wdogFire s c m))) ∧
    (∀ (page array : BitVec 8) (word : W32) (item : EccItem) (r : EccRead),
      itemAt s page.toNat array.toNat word.toNat item = true →
      (let s1 := s.setPage page.toNat { s.page page.toNat with inject := none }
       let met : EccRead := match (s.page page.toNat).inject with | some true => .uncorrectable | some false => .corrected | none => r
       exec (.patrolScrub page array word item r) s = .next (match met with
         | .clean => s1
         | .corrected => setErr s1 page.toNat 30 (array.toNat * 2 ^ 56 + word.toNat)
         | .uncorrectable => eccOutcome (setErr s1 page.toNat 31 (array.toNat * 2 ^ 56 + word.toNat)) item))) ∧
    (s.loe.trace.owner.isSome = true → s.now / 10 % 2 ^ 30 = 0 → exec .time30Wrap s = .next (traceTime s)) ∧
    (s.loe.trace.owner = none → exec .time30Wrap s = .next s)

/-- Writes that memory answers with an error (R45, R341, Table 13.4; which lines answer so is the model's own field, log
36): TIMESTAMP's faults its job with ST_MEMORY_ERROR; a line of a pacing window is dropped and recorded in ECP, and a
wait-for snapshot ends and is recorded in WSH, each with the physical address in ERR_ADDR, and neither loses a context. -/
def Obligations.WriteErrors : Prop :=
  ∀ (s : State) (a : Nat),
    (∀ (q : BitVec 18) (j : Job) (ws : List Word) (u : State) c va h, u = countDecoded s q.toNat → c = (s.queue q.toNat).owner →
      AtPacket s q.toNat 0x42 j ws → flagsOf (hdrOf ws) % 2 = 0 →
      resolveMref (u.ctx c) (wordAt ws 1) (wordAt ws 2) 8 true = .ok (va, h) → checkRange (u.ctx c) va 8 true = ST_OK →
      badPiece u (pieces (u.ctx c) va 8) = some a →
      exec (.timestamp q) s = .next (faultJob u q.toNat ST_MEMORY_ERROR)) ∧
    (∀ (cb : BitVec 14) (c l seq va : Nat) (x : Context) (u : State), c = cb.toNat → x = s.ctx c → x.pace.getLsbD 0 = true →
      x.st = .active → l < paceLineCount s c → seq = ((tget (0, 0) x.paceLines l).2 + 1) % 256 →
      va = x.pace.toNat / 64 * 64 % 2 ^ 57 + 64 * l →
      u = s.setCtx c { x with paceLines := tset (0, 0) x.paceLines l (s.now, seq) } →
      checkRange (u.ctx c) va 64 true = ST_OK → badPiece u (pieces (u.ctx c) va 64) = some a →
      exec (.pacingWindowWrite cb l) s = .next (setErr u pgECP 29 a)) ∧
    (s.wsh.wfgRunning = true → writeFails s s.wsh.wfgBase.toNat (wfgBytes s).length = true →
      exec .wfgDone s = .next { setErr s pgWSH 29 s.wsh.wfgBase.toNat with
        wsh := { s.wsh with wfgRunning := false, wfgDone := true } })

/-- Power (R53, R313 to R316, R321, R326 to R332): an activity beat gives four hubs their words, and a second
one in the same window is an error; a measurement counts in the next window, and asleep the idle account takes it and a
measurement above the cap puts the compute hubs on the floor; a window toggles pwr_win, takes the register writes since
the last and, awake, records the estimate, adds every hub's energy and the uncore's to the die's, and spends the
measurement, but one that ends while the spine sleeps or its firmware is replaced is not estimated, spends its activity
words and breaks the runs of windows; changes go on with a hub's or a rail's answer; the alert
raises pwr_floor and chooses the floor for every partition with cores, and its release asks every hub for the floor; a
stale budget gives way to the fallback.
Frequency domains (R322, R323): a member's proposal is kept by the coordinator, and a frequency set with a newer EPOCH
is taken by the member, each lowering the group at once where it must; one for a domain no partition holds, or with an old
EPOCH, is discarded and recorded. A member sends its proposal again; a member that is silent counts as proposing
FLOOR_MHZ. -/
def Obligations.Power : Prop :=
  (∀ s : State,
    (∀ (g : BitVec 7) (d : BitVec 128), ∃ t, exec (.activityBeat g d) s = .next t ∧
      (∀ i, i < 4 → t.hub (4 * g.toNat + i) = { s.hub (4 * g.toNat + i) with
        act := some (BitVec.ofNat 32 (bitsN d.toNat (32 * i + 31) (32 * i))) }) ∧
      (∀ h, h < 4 * g.toNat ∨ 4 * g.toNat + 4 ≤ h → t.hub h = s.hub h) ∧
      { t with hubs := s.hubs } =
        if (s.hub (4 * g.toNat)).act.isSome then setErr s pgVLD 0 (4 * g.toNat) else s) ∧
    (∀ mw : BitVec 20,
      (s.bsn.spineAwake = true → exec (.measurement mw) s = .next { s with vld := { s.vld with measLast := mw, meas := some mw } }) ∧
      (s.bsn.spineAwake = false →
        (let v := { s.vld with measLast := mw, idleDie := s.vld.idleDie + mw.toNat * 2000000 }
         (effCap s.vld = 0 ∨ mw.toNat ≤ effCap s.vld * 1000 → exec (.measurement mw) s = .next { s with vld := v }) ∧
         (effCap s.vld ≠ 0 → effCap s.vld * 1000 < mw.toNat → exec (.measurement mw) s =
           .next (((liveHubs s).filter (fun h => hubKind s h == 0)).foldl (fun t h => askHub t h t.vld.floorMhz)
             ((groupsOf { s with vld := v }).foldl (fun t g => markChanging t g t.vld.floorMhz) { s with vld := v })))))) ∧
    (∀ s0 s1, s0 = applyWrites { s with pins := { s.pins with pwrWin := !s.pins.pwrWin } } → s1 = Machine.measure s0 →
      (s.bsn.spineAwake = false ∨ spinePaused s = true → ∃ t, exec .activityWindow s = .next t ∧
        t.vld = { s0.vld with meas := none, overRun := [], within := 0 } ∧ (∀ h, (t.hub h).act = none) ∧
        { t with hubs := s0.hubs, vld := s0.vld } = s0) ∧
      (s.bsn.spineAwake = true → spinePaused s = false → ∃ t, exec .activityWindow s = .next t ∧
        t.pins.pwrWin = (!s.pins.pwrWin) ∧
        t.vld.meas = none ∧ t.vld.gain = s1.vld.gain ∧
        t.vld.est = BitVec.ofNat 20 (min 0xFFFFF (estimateMw s1 s1.vld.gain.toNat)) ∧
        t.vld.energyDie = s.vld.energyDie + ((priceAll s1 s1.vld.gain.toNat).map (fun e => e.dyn + e.stat)).sum +
          uncoreFj s1 s1.vld.gain.toNat)) ∧
    (∀ h : BitVec 9,
      ((s.hub h.toNat).asked = none → exec (.frequencyDone h) s = .next s) ∧
      (∀ f, (s.hub h.toNat).asked = some f → exec (.frequencyDone h) s =
        .next (finishRelease (settleGroups (s.setHub h.toNat { s.hub h.toNat with mhz := f, asked := none }))))) ∧
    (∀ r : BitVec 2,
      ((∀ x ∈ s.vld.railReq, x.1 ≠ r.toNat) → exec (.railAck r) s = .next s ∧ exec (.railAckTimeout r) s = .next s) ∧
      (∀ mv, s.vld.railReq.find? (fun x => x.1 == r.toNat) = some (r.toNat, mv) →
        exec (.railAck r) s = .next (askReady { s with
          vld := { s.vld with
            railMv := s.vld.railMv.set r.toNat mv, railReq := s.vld.railReq.filter (fun x => x.1 != r.toNat) } }) ∧
        exec (.railAckTimeout r) s = .next (setErr s pgVLD 1 r.toNat))) ∧
    (∃ t, exec .alert s = .next t ∧ t.pins.pwrFloor = true ∧ t.vld.alert = true ∧ t.vld.releasing = false ∧
      ∀ p ∈ partHubs s, (t.part p.1).chosen = s.vld.floorMhz) ∧
    (s.vld.alert = true → s.vld.releasing = false → s.bsn.spineAwake = true → exec .alertRelease s =
      .next (finishRelease ((liveHubs s).foldl (fun t h => askHub t h t.vld.floorMhz)
        { s with vld := { s.vld with releasing := true } }))) ∧
    (s.vld.alert = false → exec .alertRelease s = .next s) ∧
    (∃ t, exec .rackBudgetStale s = .next t ∧ rackCap t.vld = s.vld.fallbackW ∧ { t with vld := s.vld } = s)) ∧
  (∀ (s : State) (die : BitVec 16) (beat : BitVec 256) (u : State) (b : Nat), u = count s pgPER 1 → b = beat.toNat →
    let lower (t : State) (p : Nat) : State := match groupOf t p with
      | some g => if groupMhz t g < groupNow t g then applyGroup t g else t
      | none => t
    (PeerMessage s die beat 0x30 (0xFF + mask 31 16 + mask 42 32) →
      (domainPart s (bitsN b 31 16) = none → exec (.freqPropose die beat) s = .next (refuseFreq u die.toNat)) ∧
      (∀ p, domainPart s (bitsN b 31 16) = some p → exec (.freqPropose die beat) s =
        .next (lower (coordinate (u.setPart p { s.part p with
          proposals := (s.part p).proposals.filter (fun y => y.1 != die.toNat) ++ [(die.toNat, bitsN b 42 32, s.now)] }) p) p))) ∧
    (PeerMessage s die beat 0x31 (0xFF + mask 31 16 + mask 42 32 + mask 63 48) →
      (domainPart s (bitsN b 31 16) = none → exec (.freqSet die beat) s = .next (refuseFreq u die.toNat)) ∧
      (∀ p n, domainPart s (bitsN b 31 16) = some p → n = (bitsN b 63 48 + 65536 - (s.part p).epoch) % 65536 →
        (n = 0 ∨ 32768 ≤ n → exec (.freqSet die beat) s = .next (refuseFreq u die.toNat)) ∧
        (0 < n → n < 32768 → exec (.freqSet die beat) s =
          .next (lower (u.setPart p { s.part p with epoch := bitsN b 63 48, domMhz := some (bitsN b 42 32) }) p)))) ∧
    (∀ p : BitVec 8,
      (s.bsn.spineAwake = false → exec (.freqProposeResend p) s = .next s ∧ exec (.freqProposeMissing p die) s = .next s) ∧
      (s.bsn.spineAwake = true → exec (.freqProposeResend p) s = .next (propose s p.toNat)) ∧
      (s.bsn.spineAwake = true → domainOf (s.part p.toNat) ≠ 0 → coordOf (s.part p.toNat) = dieId s →
        exec (.freqProposeMissing p die) s =
          .next (lower (coordinate (setErr (s.setPart p.toNat { s.part p.toNat with
            proposals := (s.part p.toNat).proposals.filter (fun y => y.1 != die.toNat) ++ [(die.toNat, s.vld.floorMhz, s.now)] })
            pgVLD 2 (domainOf (s.part p.toNat))) p.toNat) p.toNat))))

/-- The twin (R61, R112, R385 to R387): its state is recorded, a twin that becomes READY gets its held doorbells back and
one that halts or starts is waited for; this block's state goes out again; a doorbell of a partner that runs rings here,
one for a partner that does not run is held; handed-back queues go to memory, and their end sets SWB_HANDBACK; a heartbeat
of an absent twin makes it waited for, and the loss of the heartbeat makes it absent. -/
def Obligations.Twin : Prop :=
  ∀ (s : State) (die : BitVec 16) (beat : BitVec 256) (u : State) (b : Nat), u = count s pgPER 1 → b = beat.toNat →
    (hasTwin s = true → die.toNat = twinDie s →
      (∀ v, PeerMessage s die beat 0x20 (mask 47 0) →
        v = { u.per with twinBoot := BitVec.ofNat 32 (bitsN b 47 16), twinState := bitsN b 15 8 } →
        (s.per.twin = .waiting → bitsN b 15 8 = 1 → exec (.twinState die beat) s = .next (handBack { u with per := v })) ∧
        (s.per.twin = .paired → bitsN b 15 8 = 2 ∨ bitsN b 15 8 = 3 →
          exec (.twinState die beat) s = .next { u with per := { v with twin := .waiting } }) ∧
        (s.per.twin = .paired → bitsN b 15 8 = 1 → exec (.twinState die beat) s = .next { u with per := v })) ∧
      (PeerMessage s die beat 0x21 (mask 41 0) → ∀ q c, q = bitsN b 25 8 → c = bitsN b 41 28 →
        (s.per.twinState = 1 → doorbellOwner u q (bitsN b 27 26) c = true → (s.queue q).st = .enabled →
          (u.ctx (s.queue q).owner).st = .active →
          exec (.doorbellFwd die beat) s = .next (ringDoorbell u q)) ∧
        (s.per.twinState = 2 → s.per.twin = .waiting →
          exec (.doorbellFwd die beat) s =
            .next (count { u with per := { u.per with hold := tset false s.per.hold q true } } pgPER 3))) ∧
      (∀ n, PeerMessage s die beat 0x22 (mask 245 12 + mask 11 0) → n = min 13 (bitsN b 11 8) →
        writeFails s (s.swb.settings.regions.getD 1 0 + 4096 + 4 * s.swb.handbackBuf) (4 * n) = false →
        (let s1 := emits u (writesOf u 8 [(s.swb.settings.regions.getD 1 0 + 4096 + 4 * s.swb.handbackBuf, 0, 4 * n)]
            (((List.range n).map (fun i => bitsN b (29 + 18 * i) (12 + 18 * i))).flatMap (leBytes 4)))
         exec (.handback die beat) s = .next { s1 with swb := { s1.swb with handbackBuf := s.swb.handbackBuf + n } })) ∧
      (PeerMessage s die beat 0x23 (mask 39 0) → s.swb.handbackWait = false →
        exec (.handbackEnd die beat) s = .next { u with swb := { s.swb with handback := bitsN b 39 8, handbackBuf := 0 } }) ∧
      (PeerMessage s die beat 0x23 (mask 39 0) → s.swb.handbackWait = true →
        exec (.handbackEnd die beat) s =
          .next (finish7 { u with swb := { s.swb with handback := bitsN b 39 8, handbackBuf := 0 } } (bitsN b 39 8)))) ∧
    exec .twinStateResend s = .next (sendTwin s (match s.swb.boot with | .ready => 1 | .halted => 2 | _ => 3)) ∧
    (s.per.twin = .absent → exec .heartbeatSeen s =
      .next (sendTwin { s with per := { s.per with hbSeen := true, lastHb := s.now, twin := .waiting } } (ownTwinState s))) ∧
    (s.per.twin ≠ .absent → exec .heartbeatSeen s = .next { s with per := { s.per with hbSeen := true, lastHb := s.now } }) ∧
    (s.per.hbSeen = true → s.swb.handbackWait = false → s.per.twin = .waiting ∨ s.per.twin = .paired →
      exec .heartbeatLost s =
        .next (count (setErr { s with per := { s.per with hbSeen := false, twin := .absent } } pgPER 3 (twinDie s)) pgPER 6)) ∧
    (s.per.hbSeen = false → exec .heartbeatLost s = .next s)
end

