-- ==== Sys2Proof/Laws/Access.lean ====
section
/-! SUPPORT. What an accepted operator write comes to: the write of the register it names, and OKAY. -/
namespace Sys2Proof.Machine

/-- Mapped pages lie below 0x2A. -/
theorem mapped_lt {p : Nat} (h : mapped p = true) : p < 0x2A := by
  refine Decidable.byContradiction fun hc => ?_
  have : 42 ≤ p := by omega
  revert h
  unfold mapped pagePrefix
  simp only [pgID, pgHFE, pgSTP, pgDBL, pgFET, pgWSH, pgSAD, pgLCH, pgECP, pgFAN, pgIMX, pgXLT, pgOBJ, pgSCH, pgBWR, pgNTC, pgVLD, pgLOE, pgSWB, pgBSN, pgPER, pgMGT, pgDBG]
  have e : ∀ k, k < 42 → p ≠ k := by omega
  simp [e 0, e 1, e 2, e 3, e 4, e 24, e 25, e 26, e 27, e 28, e 29, e 30, e 31, e 32, e 33, e 34, e 35, e 36, e 37, e 38, e 39, e 40, e 41]
  rw [if_neg (by omega), if_neg (by omega)]

/-- The register region. -/
theorem hostRegion_register {a : Nat} (h : 0x1000000 ≤ a) (h2 : a < 0x1100000) : hostRegion a = .register := by
  unfold hostRegion; rw [if_neg (by omega), if_pos (by omega)]

/-- The request is one beat. -/
theorem operatorWrites_beats {s : State} {h : HostReq} {p off : Nat} {wide : Bool} (w : OperatorWrites s h p off wide) (d : Word) :
    hostBeats h d = [(0x1000000 + p * 4096 + off, d, if wide then 0xFF#8 else 0x0F#8)] := by
  have hm : h.more = [] := by simpa [HostReq.single, List.isEmpty_iff] using w.plain.2.2
  simp [hostBeats, hm, w.place.1, w.beat.2]

/-- It passes R33. -/
theorem operatorWrites_noFault {s : State} {h : HostReq} {p off : Nat} {wide : Bool} (w : OperatorWrites s h p off wide) :
    hostRegion h.addr.toNat = .register ∧ hostFault h true = none := by
  have hp := mapped_lt w.page.1
  have ha := w.place
  have hr : hostRegion h.addr.toNat = .register := hostRegion_register (by omega) (by omega)
  refine ⟨hr, ?_⟩
  obtain ⟨h1, h2, h3, h4⟩ := w.requester
  obtain ⟨h5, h6, h7⟩ := w.plain
  have hb := w.beat
  have hs : (hostBeats h 0).all (fun b => strobesOk h.size b.2.2) = true := by
    have e8 : strobesOk 8 0xFF#8 = true := by decide
    have e4 : strobesOk 4 0x0F#8 = true := by decide
    rw [operatorWrites_beats w, hb.1]; cases wide <;> simp [e8, e4]
  have hwb : wordBeat h = true := by
    unfold wordBeat
    rw [hb.1]; have := ha.2.2; cases wide <;> simp at this ⊢ <;> omega
  unfold hostFault badRequester badOperator formOk burstOk
  simp only [hr, hs]
  simp [h1, h2, h3, h4, h5, h6, h7, hwb]

/-- It passes R408. -/
theorem operatorWrites_allowed {s : State} {h : HostReq} {p off : Nat} {wide : Bool} (w : OperatorWrites s h p off wide) (lo hi : Bool)
    (o : Nat) (ho : o / 4096 = p) : refusedHost s .operator o lo hi true = false := by
  have h1 := w.page
  have h2 := w.reach
  unfold refusedHost inRecovery isTenant
  simp only [ho, h1.1]
  rcases h2 with h2 | h2 | h2 <;> simp [h2, h1.2] <;> simp_all [pgID, pgSWB, pgDBG, opView]

/-- Its beat as an access to the register window. -/
theorem regBeat_operator {p off : Nat} (wide : Bool) (d : Word) (ha : off % (if wide then 8 else 4) = 0) :
    regBeat (if wide then 8 else 4) true (0x1000000 + p * 4096 + off, d, if wide then 0xFF#8 else 0x0F#8) =
      { off := p * 4096 + off / 8 * 8,
        data := if wide = false ∧ off % 8 = 4 then BitVec.ofNat 64 (fld d 31 0 * 2 ^ 32) else d,
        lo := wide || off % 8 == 0, hi := wide || off % 8 == 4 } := by
  have e1 : (0x1000000 + p * 4096 + off) % 8 = off % 8 := by omega
  have e2 : (0x1000000 + p * 4096 + off - 0x1000000) / 8 * 8 = p * 4096 + off / 8 * 8 := by omega
  have f0 : halfFull 0xFF#8 0 = true := by decide
  have f1 : halfFull 0xFF#8 1 = true := by decide
  unfold regBeat
  cases wide
  · simp only [Bool.false_eq_true, if_false] at ha ⊢
    have : off % 8 = 0 ∨ off % 8 = 4 := by omega
    rcases this with h | h <;> simp [e1, e2, h]
  · simp [e2, f0, f1]

/-- What an accepted operator write does: the register's write, and OKAY. -/
theorem regWrite_operator {s : State} {h : HostReq} {p off : Nat} {wide : Bool} (w : OperatorWrites s h p off wide) (d : Word) (m : MemView) :
    regWrite s (.host h d) m =
      emit (putReg s .operator p off (if wide then d else BitVec.ofNat 64 (fld d 31 0))
        (if wide then 0xFFFFFFFFFFFFFFFF else 0x00000000FFFFFFFF) true m) (.hostResp h.id 0) := by
  obtain ⟨hr, hf⟩ := operatorWrites_noFault w
  have hv : hostView h = .operator := by simp [hostView, w.requester.1]
  have ha := w.place
  have h1 : (p * 4096 + off / 8 * 8) / 4096 = p := by omega
  have h2 : (p * 4096 + off / 8 * 8) % 4096 = off / 8 * 8 := by omega
  unfold regWrite judged hostRegWrite
  simp only [inReset, w.live.1, w.live.2, Bool.or_self, Bool.false_eq_true, if_false, hf, hr, if_true, hv,
    operatorWrites_beats w, w.beat.1, List.map_cons, List.map_nil, regBeat_operator wide d ha.2.2, allowedBeat,
    operatorWrites_allowed w _ _ _ h1, List.filter_cons, Bool.not_false, List.filter_nil]
  unfold acceptWrite doWrite putBeats
  simp only [beatPage, h1, h2, w.awake, viewKey, w.order, Bool.not_true, Bool.or_self, Bool.false_eq_true, if_false, writeAnswer,
    List.foldl_cons, List.foldl_nil]
  congr 1
  unfold put64
  rw [w.width]
  cases wide
  · have h8 : off % 8 = 0 ∨ off % 8 = 4 := by have := ha.2.2; simp at this; omega
    rcases h8 with h8 | h8
    · have e3 : off / 8 * 8 = off := by omega
      simp [h8, e3]
    · have e3 : off / 8 * 8 + 4 = off := by omega
      have e5 : fld (BitVec.ofNat 64 (fld d 31 0 * 2 ^ 32)) 63 32 = fld d 31 0 := by
        unfold fld bitsN; simp only [BitVec.toNat_ofNat, Nat.shiftRight_eq_div_pow]; omega
      simp [h8, e3]
      simp only [Nat.reducePow] at e5
      simp [e5]
  · have e3 : off / 8 * 8 = off := by have := ha.2.2; simp at this; omega
    simp [e3, coverOf]

/-- The word it writes. -/
theorem writesWord_operator {s : State} {h : HostReq} {p off : Nat} (w : OperatorWrites s h p off false) (d : Word) :
    writesWord (.host h d) p off = some (fld d 31 0) := by
  obtain ⟨hr, -⟩ := operatorWrites_noFault w
  have ha := w.place
  have hz := w.beat.1
  have hb := operatorWrites_beats w d
  have hg := regBeat_operator (p := p) false d ha.2.2
  simp only [Bool.false_eq_true, if_false] at hz hg ha hb
  have h8 : off % 8 = 0 ∨ off % 8 = 4 := by omega
  simp only [writesWord, hr, if_true, hb, List.findSome?_cons, List.findSome?_nil, hz, hg]
  rcases h8 with h8 | h8
  · have e3 : off / 8 * 8 = off := by omega
    simp [h8, e3]
  · have e3 : p * 4096 + off / 8 * 8 + 4 = p * 4096 + off := by omega
    have e5 : fld (BitVec.ofNat 64 (fld d 31 0 * 2 ^ 32)) 63 32 = fld d 31 0 := by
      unfold fld bitsN; simp only [BitVec.toNat_ofNat, Nat.shiftRight_eq_div_pow]; omega
    simp only [Nat.reducePow] at e5
    simp [h8, e3, e5]

/-- The low word of an 8-byte write. -/
theorem writesWord_operator8 {s : State} {h : HostReq} {p off : Nat} (w : OperatorWrites s h p off true) (d : Word) :
    writesWord (.host h d) p off = some (fld d 31 0) := by
  obtain ⟨hr, -⟩ := operatorWrites_noFault w
  have ha := w.place
  have hz := w.beat.1
  have hb := operatorWrites_beats w d
  have hg := regBeat_operator (p := p) true d ha.2.2
  simp only [if_true] at hz hg ha hb
  have e3 : off / 8 * 8 = off := by omega
  simp [writesWord, hr, hb, hz, hg, e3]

/-- The 32 bits a 4-byte write carries. -/
theorem low32 (d : Word) : BitVec.ofNat 32 (BitVec.ofNat 64 (fld d 31 0)).toNat = d.setWidth 32 := by
  apply BitVec.eq_of_toNat_eq
  simp [fld, bitsN]

/-- A row of an operator write of 4 bytes. -/
theorem writeRow_operator {s : State} {h : HostReq} {p off : Nat} (w : OperatorWrites s h p off false) (d : Word)
    (ok : Nat → Bool) (hok : ok (fld d 31 0) = true) (m : MemView) :
    writeRow s (.host h d) p off ok m =
      .next (emit (putReg s .operator p off (BitVec.ofNat 64 (fld d 31 0)) 0x00000000FFFFFFFF true m) (.hostResp h.id 0)) := by
  unfold writeRow; rw [writesWord_operator w]; simp [hok, regWrite_operator w]

/-- A row of an operator write of 8 bytes. -/
theorem writeRow64_operator {s : State} {h : HostReq} {p off : Nat} (w : OperatorWrites s h p off true) (d : Word)
    (m : MemView) :
    writeRow64 s (.host h d) p off m =
      .next (emit (putReg s .operator p off d 0xFFFFFFFFFFFFFFFF true m) (.hostResp h.id 0)) := by
  unfold writeRow64; rw [writesWord_operator8 w]; simp [regWrite_operator w]

/-- A write of every bit leaves the field's part of the data. -/
theorem mergeW_full (f o d : Word) : mergeW f o d 0xFFFFFFFFFFFFFFFF = d &&& f := by
  have e : (0xFFFFFFFFFFFFFFFF : Word) = BitVec.allOnes 64 := by decide
  unfold mergeW; rw [e, BitVec.and_allOnes, BitVec.not_allOnes, BitVec.and_zero, BitVec.zero_or]

end Sys2Proof.Machine
end

