-- ==== Sys2Proof/Laws/Fence.lean ====
section
/-! SUPPORT. What resolving a fence can do: it fills the sync-ID cache, and the fence is of the kind asked for. -/

namespace Sys2Proof.Machine

/-- Reading a sync-table entry changes nothing. -/
theorem syncEntry_state {s s1 : State} {c id : Nat} {m : MemView} {lo hi : Word} (h : syncEntry s c id m = .ok (s1, lo, hi)) :
    s1 = s := by
  unfold syncEntry at h
  split at h
  · simp at h; exact h.1.symm
  · split at h
    · simp at h
    · simp at h; exact h.1.symm

/-- Resolving a fence changes at most the sync-ID cache, and answers a fence of the kind asked for. -/
theorem resolveFence_spec {s s1 : State} {c : Nat} {op : Word} {kind : Option Bool} {w : Bool} {m : MemView} {f : Fence}
    (h : resolveFence s c op kind w m = .ok (s1, f)) :
    (s1 = s ∨ ∃ t, s1 = { s with wsh := { s.wsh with syncCache := t } }) ∧ ∀ k, kind = some k → f.counting = k := by
  unfold resolveFence at h
  simp only at h
  split at h
  · split at h
    · simp at h
    · rename_i f' hf
      split at h
      · split at h
        · rename_i k hk hb
          simp at h; obtain ⟨h1, h2⟩ := h; subst h1 h2
          exact ⟨.inl rfl, fun k' hk' => by simp at hk'; subst hk'; simpa using hb⟩
        · simp at h
      · simp at h; obtain ⟨h1, h2⟩ := h; subst h1 h2
        exact ⟨.inl rfl, fun k hk => by simp at hk⟩
  · split at h
    · simp at h
    · split at h
      · simp at h
      · rename_i s2 lo hi he
        have e := syncEntry_state he
        subst e
        split at h
        · simp at h
        · split at h
          · simp at h
          · split at h
            · split at h
              · rename_i k hk hb
                simp at h; obtain ⟨h1, h2⟩ := h; subst h1 h2
                exact ⟨.inr ⟨_, rfl⟩, fun k' hk' => by simp at hk'; subst hk'; simpa using hb⟩
              · simp at h
            · simp at h; obtain ⟨h1, h2⟩ := h; subst h1 h2
              exact ⟨.inr ⟨_, rfl⟩, fun k hk => by simp at hk⟩

end Sys2Proof.Machine
end

