-- ==== Sys2Proof/Laws/Table.lean ====
section
/-! SUPPORT. Sparse tables: reading after writing, and the canonical form is kept. -/

namespace Sys2Proof.Machine

variable {α : Type}

/-- Reading after putting. -/
theorem tget_tput (d : α) (t : Table α) (i j : Nat) (x : α) :
    tget d (tput t i x) j = if j = i then x else tget d t j := by
  induction t with
  | nil => simp [tput, tget, eq_comm]
  | cons e t ih =>
    obtain ⟨k, v⟩ := e
    simp only [tput]
    split
    · simp only [tget]; by_cases h : j = i <;> simp [h, eq_comm] <;> omega
    · split
      · rename_i h1 h2; subst h2; simp only [tget]; by_cases h : j = k <;> simp [h, eq_comm]
      · simp only [tget, ih]; by_cases h : j = i
        · subst h; simp; intro hh; exact absurd hh (by assumption)
        · simp [h]

/-- Reading after removing. -/
theorem tget_tdel (d : α) (t : Table α) (i j : Nat) : tget d (tdel t i) j = if j = i then d else tget d t j := by
  induction t with
  | nil => simp [tdel, tget]
  | cons e t ih =>
    obtain ⟨k, v⟩ := e
    unfold tdel at ih ⊢
    simp only [List.filter_cons]
    by_cases h : k = i
    · subst h; simp only [ne_eq, not_true_eq_false, decide_false, Bool.false_eq_true, if_false, ih, tget]
      by_cases hj : j = k <;> simp [hj, eq_comm]
    · simp only [ne_eq, h, not_false_eq_true, decide_true, if_true, tget, ih]
      by_cases hj : j = i
      · subst hj; simp [h]
      · simp [hj]

/-- Reading after writing. -/
@[simp] theorem tget_tset [DecidableEq α] (d : α) (t : Table α) (i j : Nat) (x : α) :
    tget d (tset d t i x) j = if j = i then x else tget d t j := by
  unfold tset
  split
  · rename_i h; rw [tget_tdel]; simp [h]
  · exact tget_tput d t i j x

/-- Writing after writing the same key reads as the later value. -/
theorem tget_tmod [DecidableEq α] (d : α) (t : Table α) (i j : Nat) (f : α → α) :
    tget d (tmod d t i f) j = if j = i then f (tget d t i) else tget d t j := by
  unfold tmod; exact tget_tset ..

/-- What tput's keys are bounded by. -/
theorem mem_tput {t : Table α} {i : Nat} {x : α} {e : Nat × α} (h : e ∈ tput t i x) : e = (i, x) ∨ e ∈ t := by
  induction t with
  | nil => simp [tput] at h; exact .inl h
  | cons a t ih =>
    obtain ⟨k, v⟩ := a
    simp only [tput] at h
    split at h
    · simpa using h
    · split at h
      · rcases List.mem_cons.1 h with h | h
        · exact .inl h
        · exact .inr (List.mem_cons_of_mem _ h)
      · rcases List.mem_cons.1 h with h | h
        · exact .inr (h ▸ List.mem_cons_self)
        · rcases ih h with h | h
          · exact .inl h
          · exact .inr (List.mem_cons_of_mem _ h)

/-- Putting keeps the keys rising. -/
theorem tput_sorted {t : Table α} (i : Nat) (x : α) (h : t.Pairwise (fun a b => a.1 < b.1)) :
    (tput t i x).Pairwise (fun a b => a.1 < b.1) := by
  induction t with
  | nil => simp [tput]
  | cons a t ih =>
    obtain ⟨k, v⟩ := a
    rw [List.pairwise_cons] at h
    simp only [tput]
    split
    · rename_i hi
      refine List.pairwise_cons.2 ⟨fun e he => ?_, List.pairwise_cons.2 h⟩
      rcases List.mem_cons.1 he with rfl | he
      · exact hi
      · have := h.1 e he; simp only at this ⊢; omega
    · split
      · rename_i h2; subst h2; exact List.pairwise_cons.2 h
      · refine List.pairwise_cons.2 ⟨fun e he => ?_, ih h.2⟩
        rcases mem_tput he with rfl | he
        · simp only; omega
        · exact h.1 e he

/-- Writing keeps the canonical form. -/
theorem twf_tset [DecidableEq α] (d : α) (t : Table α) (i : Nat) (x : α) (h : twf d t = true) : twf d (tset d t i x) = true := by
  simp only [twf, Bool.and_eq_true, decide_eq_true_eq, List.all_eq_true] at h ⊢
  unfold tset
  split
  · exact ⟨h.1.filter _, fun e he => h.2 e (List.mem_filter.1 he).1⟩
  · rename_i hx
    refine ⟨tput_sorted i x h.1, fun e he => ?_⟩
    rcases mem_tput he with rfl | he
    · exact hx
    · exact h.2 e he

/-! ## Byte tables -/

/-- Reading a byte after storing one. -/
@[simp] theorem read_write (m : Memory) (a b : Nat) (x : Byte) :
    (m.write a x).read b = if b = a then x else m.read b := by unfold Memory.read Memory.write; exact tget_tset ..

/-- A store keeps the canonical form. -/
theorem wf_write (m : Memory) (a : Nat) (x : Byte) (h : m.wf = true) : (m.write a x).wf = true := twf_tset _ _ _ _ h

/-- Stores keep the canonical form. -/
theorem wf_writeBytes (m : Memory) (a : Nat) (bs : List Byte) (h : m.wf = true) : (m.writeBytes a bs).wf = true := by
  induction bs generalizing m a with
  | nil => exact h
  | cons b bs ih => exact ih _ _ (wf_write m a b h)

end Sys2Proof.Machine
end

