-- ==== Sys2Proof/Laws/State.lean ====
section
/-! SUPPORT. What each update of the state leaves in each of its parts. -/

namespace Sys2Proof.Machine

variable (s : State)

/-! ## setPage -/

@[simp] theorem page_setPage (i j : Nat) (v : Page) : (s.setPage i v).page j = if j = i then v else s.page j := by
  unfold State.setPage State.page; exact tget_tset ..
@[simp] theorem queue_setPage (i j : Nat) (v : Page) : (s.setPage i v).queue j = s.queue j := rfl
@[simp] theorem job_setPage (i j : Nat) (v : Page) : (s.setPage i v).job j = s.job j := rfl
@[simp] theorem slice_setPage (i j : Nat) (v : Page) : (s.setPage i v).slice j = s.slice j := rfl
@[simp] theorem ctx_setPage (i j : Nat) (v : Page) : (s.setPage i v).ctx j = s.ctx j := rfl
@[simp] theorem graph_setPage (i j : Nat) (v : Page) : (s.setPage i v).graph j = s.graph j := rfl
@[simp] theorem waiter_setPage (i j : Nat) (v : Page) : (s.setPage i v).waiter j = s.waiter j := rfl
@[simp] theorem line_setPage (i j : Nat) (v : Page) : (s.setPage i v).line j = s.line j := rfl
@[simp] theorem barrier_setPage (i j : Nat) (v : Page) : (s.setPage i v).barrier j = s.barrier j := rfl
@[simp] theorem lane_setPage (i j : Nat) (v : Page) : (s.setPage i v).lane j = s.lane j := rfl
@[simp] theorem ep_setPage (i j : Nat) (v : Page) : (s.setPage i v).ep j = s.ep j := rfl
@[simp] theorem hub_setPage (i j : Nat) (v : Page) : (s.setPage i v).hub j = s.hub j := rfl
@[simp] theorem chan_setPage (i j : Nat) (v : Page) : (s.setPage i v).chan j = s.chan j := rfl
@[simp] theorem fan_setPage (i j : Nat) (v : Page) : (s.setPage i v).fan j = s.fan j := rfl
@[simp] theorem part_setPage (i j : Nat) (v : Page) : (s.setPage i v).part j = s.part j := rfl
@[simp] theorem slot_setPage (i j : Nat) (v : Page) : (s.setPage i v).slot j = s.slot j := rfl
@[simp] theorem pending_setPage (i : Nat) (v : Page) : (s.setPage i v).pending = s.pending := rfl
@[simp] theorem timebase_setPage (i : Nat) (v : Page) : (s.setPage i v).timebase = s.timebase := rfl
@[simp] theorem freeCtr_setPage (i : Nat) (v : Page) : (s.setPage i v).freeCtr = s.freeCtr := rfl
@[simp] theorem out_setPage (i : Nat) (v : Page) : (s.setPage i v).out = s.out := rfl
@[simp] theorem badLines_setPage (i : Nat) (v : Page) : (s.setPage i v).badLines = s.badLines := rfl
@[simp] theorem pins_setPage (i : Nat) (v : Page) : (s.setPage i v).pins = s.pins := rfl
@[simp] theorem bsn_setPage (i : Nat) (v : Page) : (s.setPage i v).bsn = s.bsn := rfl
@[simp] theorem sel_setPage (i : Nat) (v : Page) : (s.setPage i v).sel = s.sel := rfl
@[simp] theorem idIrqTarget_setPage (i : Nat) (v : Page) : (s.setPage i v).idIrqTarget = s.idIrqTarget := rfl
@[simp] theorem ntfTargets_setPage (i : Nat) (v : Page) : (s.setPage i v).ntfTargets = s.ntfTargets := rfl
@[simp] theorem ntfQueue_setPage (i : Nat) (v : Page) : (s.setPage i v).ntfQueue = s.ntfQueue := rfl
@[simp] theorem loads_setPage (i : Nat) (v : Page) : (s.setPage i v).loads = s.loads := rfl
@[simp] theorem zeroing_setPage (i : Nat) (v : Page) : (s.setPage i v).zeroing = s.zeroing := rfl
@[simp] theorem slotWait_setPage (i : Nat) (v : Page) : (s.setPage i v).slotWait = s.slotWait := rfl
@[simp] theorem blockWait_setPage (i : Nat) (v : Page) : (s.setPage i v).blockWait = s.blockWait := rfl
@[simp] theorem wsh_setPage (i : Nat) (v : Page) : (s.setPage i v).wsh = s.wsh := rfl
@[simp] theorem ntc_setPage (i : Nat) (v : Page) : (s.setPage i v).ntc = s.ntc := rfl
@[simp] theorem vld_setPage (i : Nat) (v : Page) : (s.setPage i v).vld = s.vld := rfl
@[simp] theorem loe_setPage (i : Nat) (v : Page) : (s.setPage i v).loe = s.loe := rfl
@[simp] theorem swb_setPage (i : Nat) (v : Page) : (s.setPage i v).swb = s.swb := rfl
@[simp] theorem per_setPage (i : Nat) (v : Page) : (s.setPage i v).per = s.per := rfl
@[simp] theorem mgt_setPage (i : Nat) (v : Page) : (s.setPage i v).mgt = s.mgt := rfl
@[simp] theorem dbg_setPage (i : Nat) (v : Page) : (s.setPage i v).dbg = s.dbg := rfl
@[simp] theorem dl_setPage (i : Nat) (v : Page) : (s.setPage i v).dl = s.dl := rfl
@[simp] theorem flights_setPage (i : Nat) (v : Page) : (s.setPage i v).flights = s.flights := rfl
@[simp] theorem capTab_setPage (i : Nat) (v : Page) : (s.setPage i v).capTab = s.capTab := rfl
@[simp] theorem calls_setPage (i : Nat) (v : Page) : (s.setPage i v).calls = s.calls := rfl
@[simp] theorem patchLine_setPage (i : Nat) (v : Page) : (s.setPage i v).patchLine = s.patchLine := rfl
@[simp] theorem captbl_setPage (i : Nat) (v : Page) : (s.setPage i v).captbl = s.captbl := rfl
@[simp] theorem captblGen_setPage (i : Nat) (v : Page) : (s.setPage i v).captblGen = s.captblGen := rfl
@[simp] theorem allocWait_setPage (i : Nat) (v : Page) : (s.setPage i v).allocWait = s.allocWait := rfl
@[simp] theorem freeWait_setPage (i : Nat) (v : Page) : (s.setPage i v).freeWait = s.freeWait := rfl
@[simp] theorem withheld_setPage (i : Nat) (v : Page) : (s.setPage i v).withheld = s.withheld := rfl
@[simp] theorem limits_setPage (i : Nat) (v : Page) : (s.setPage i v).limits = s.limits := rfl
@[simp] theorem ctxs_setPage (i : Nat) (v : Page) : (s.setPage i v).ctxs = s.ctxs := rfl
@[simp] theorem parts_setPage (i : Nat) (v : Page) : (s.setPage i v).parts = s.parts := rfl
@[simp] theorem chans_setPage (i : Nat) (v : Page) : (s.setPage i v).chans = s.chans := rfl
@[simp] theorem jobs_setPage (i : Nat) (v : Page) : (s.setPage i v).jobs = s.jobs := rfl
@[simp] theorem queues_setPage (i : Nat) (v : Page) : (s.setPage i v).queues = s.queues := rfl
@[simp] theorem eps_setPage (i : Nat) (v : Page) : (s.setPage i v).eps = s.eps := rfl
@[simp] theorem lanes_setPage (i : Nat) (v : Page) : (s.setPage i v).lanes = s.lanes := rfl

/-! ## setQueue -/

@[simp] theorem queue_setQueue (i j : Nat) (v : Queue) : (s.setQueue i v).queue j = if j = i then v else s.queue j := by
  unfold State.setQueue State.queue; exact tget_tset ..
@[simp] theorem page_setQueue (i j : Nat) (v : Queue) : (s.setQueue i v).page j = s.page j := rfl
@[simp] theorem job_setQueue (i j : Nat) (v : Queue) : (s.setQueue i v).job j = s.job j := rfl
@[simp] theorem slice_setQueue (i j : Nat) (v : Queue) : (s.setQueue i v).slice j = s.slice j := rfl
@[simp] theorem ctx_setQueue (i j : Nat) (v : Queue) : (s.setQueue i v).ctx j = s.ctx j := rfl
@[simp] theorem graph_setQueue (i j : Nat) (v : Queue) : (s.setQueue i v).graph j = s.graph j := rfl
@[simp] theorem waiter_setQueue (i j : Nat) (v : Queue) : (s.setQueue i v).waiter j = s.waiter j := rfl
@[simp] theorem line_setQueue (i j : Nat) (v : Queue) : (s.setQueue i v).line j = s.line j := rfl
@[simp] theorem barrier_setQueue (i j : Nat) (v : Queue) : (s.setQueue i v).barrier j = s.barrier j := rfl
@[simp] theorem lane_setQueue (i j : Nat) (v : Queue) : (s.setQueue i v).lane j = s.lane j := rfl
@[simp] theorem ep_setQueue (i j : Nat) (v : Queue) : (s.setQueue i v).ep j = s.ep j := rfl
@[simp] theorem hub_setQueue (i j : Nat) (v : Queue) : (s.setQueue i v).hub j = s.hub j := rfl
@[simp] theorem chan_setQueue (i j : Nat) (v : Queue) : (s.setQueue i v).chan j = s.chan j := rfl
@[simp] theorem fan_setQueue (i j : Nat) (v : Queue) : (s.setQueue i v).fan j = s.fan j := rfl
@[simp] theorem part_setQueue (i j : Nat) (v : Queue) : (s.setQueue i v).part j = s.part j := rfl
@[simp] theorem slot_setQueue (i j : Nat) (v : Queue) : (s.setQueue i v).slot j = s.slot j := rfl
@[simp] theorem pending_setQueue (i : Nat) (v : Queue) : (s.setQueue i v).pending = s.pending := rfl
@[simp] theorem timebase_setQueue (i : Nat) (v : Queue) : (s.setQueue i v).timebase = s.timebase := rfl
@[simp] theorem freeCtr_setQueue (i : Nat) (v : Queue) : (s.setQueue i v).freeCtr = s.freeCtr := rfl
@[simp] theorem out_setQueue (i : Nat) (v : Queue) : (s.setQueue i v).out = s.out := rfl
@[simp] theorem badLines_setQueue (i : Nat) (v : Queue) : (s.setQueue i v).badLines = s.badLines := rfl
@[simp] theorem pins_setQueue (i : Nat) (v : Queue) : (s.setQueue i v).pins = s.pins := rfl
@[simp] theorem bsn_setQueue (i : Nat) (v : Queue) : (s.setQueue i v).bsn = s.bsn := rfl
@[simp] theorem sel_setQueue (i : Nat) (v : Queue) : (s.setQueue i v).sel = s.sel := rfl
@[simp] theorem idIrqTarget_setQueue (i : Nat) (v : Queue) : (s.setQueue i v).idIrqTarget = s.idIrqTarget := rfl
@[simp] theorem ntfTargets_setQueue (i : Nat) (v : Queue) : (s.setQueue i v).ntfTargets = s.ntfTargets := rfl
@[simp] theorem ntfQueue_setQueue (i : Nat) (v : Queue) : (s.setQueue i v).ntfQueue = s.ntfQueue := rfl
@[simp] theorem loads_setQueue (i : Nat) (v : Queue) : (s.setQueue i v).loads = s.loads := rfl
@[simp] theorem zeroing_setQueue (i : Nat) (v : Queue) : (s.setQueue i v).zeroing = s.zeroing := rfl
@[simp] theorem slotWait_setQueue (i : Nat) (v : Queue) : (s.setQueue i v).slotWait = s.slotWait := rfl
@[simp] theorem blockWait_setQueue (i : Nat) (v : Queue) : (s.setQueue i v).blockWait = s.blockWait := rfl
@[simp] theorem wsh_setQueue (i : Nat) (v : Queue) : (s.setQueue i v).wsh = s.wsh := rfl
@[simp] theorem ntc_setQueue (i : Nat) (v : Queue) : (s.setQueue i v).ntc = s.ntc := rfl
@[simp] theorem vld_setQueue (i : Nat) (v : Queue) : (s.setQueue i v).vld = s.vld := rfl
@[simp] theorem loe_setQueue (i : Nat) (v : Queue) : (s.setQueue i v).loe = s.loe := rfl
@[simp] theorem swb_setQueue (i : Nat) (v : Queue) : (s.setQueue i v).swb = s.swb := rfl
@[simp] theorem per_setQueue (i : Nat) (v : Queue) : (s.setQueue i v).per = s.per := rfl
@[simp] theorem mgt_setQueue (i : Nat) (v : Queue) : (s.setQueue i v).mgt = s.mgt := rfl
@[simp] theorem dbg_setQueue (i : Nat) (v : Queue) : (s.setQueue i v).dbg = s.dbg := rfl
@[simp] theorem dl_setQueue (i : Nat) (v : Queue) : (s.setQueue i v).dl = s.dl := rfl
@[simp] theorem flights_setQueue (i : Nat) (v : Queue) : (s.setQueue i v).flights = s.flights := rfl
@[simp] theorem capTab_setQueue (i : Nat) (v : Queue) : (s.setQueue i v).capTab = s.capTab := rfl
@[simp] theorem calls_setQueue (i : Nat) (v : Queue) : (s.setQueue i v).calls = s.calls := rfl
@[simp] theorem patchLine_setQueue (i : Nat) (v : Queue) : (s.setQueue i v).patchLine = s.patchLine := rfl
@[simp] theorem captbl_setQueue (i : Nat) (v : Queue) : (s.setQueue i v).captbl = s.captbl := rfl
@[simp] theorem captblGen_setQueue (i : Nat) (v : Queue) : (s.setQueue i v).captblGen = s.captblGen := rfl
@[simp] theorem allocWait_setQueue (i : Nat) (v : Queue) : (s.setQueue i v).allocWait = s.allocWait := rfl
@[simp] theorem freeWait_setQueue (i : Nat) (v : Queue) : (s.setQueue i v).freeWait = s.freeWait := rfl
@[simp] theorem withheld_setQueue (i : Nat) (v : Queue) : (s.setQueue i v).withheld = s.withheld := rfl
@[simp] theorem limits_setQueue (i : Nat) (v : Queue) : (s.setQueue i v).limits = s.limits := rfl
@[simp] theorem ctxs_setQueue (i : Nat) (v : Queue) : (s.setQueue i v).ctxs = s.ctxs := rfl
@[simp] theorem parts_setQueue (i : Nat) (v : Queue) : (s.setQueue i v).parts = s.parts := rfl
@[simp] theorem chans_setQueue (i : Nat) (v : Queue) : (s.setQueue i v).chans = s.chans := rfl
@[simp] theorem jobs_setQueue (i : Nat) (v : Queue) : (s.setQueue i v).jobs = s.jobs := rfl
@[simp] theorem eps_setQueue (i : Nat) (v : Queue) : (s.setQueue i v).eps = s.eps := rfl
@[simp] theorem lanes_setQueue (i : Nat) (v : Queue) : (s.setQueue i v).lanes = s.lanes := rfl

/-! ## setJob -/

@[simp] theorem job_setJob (i j : Nat) (v : Option Job) : (s.setJob i v).job j = if j = i then v else s.job j := by
  unfold State.setJob State.job; exact tget_tset ..
@[simp] theorem page_setJob (i j : Nat) (v : Option Job) : (s.setJob i v).page j = s.page j := rfl
@[simp] theorem queue_setJob (i j : Nat) (v : Option Job) : (s.setJob i v).queue j = s.queue j := rfl
@[simp] theorem slice_setJob (i j : Nat) (v : Option Job) : (s.setJob i v).slice j = s.slice j := rfl
@[simp] theorem ctx_setJob (i j : Nat) (v : Option Job) : (s.setJob i v).ctx j = s.ctx j := rfl
@[simp] theorem graph_setJob (i j : Nat) (v : Option Job) : (s.setJob i v).graph j = s.graph j := rfl
@[simp] theorem waiter_setJob (i j : Nat) (v : Option Job) : (s.setJob i v).waiter j = s.waiter j := rfl
@[simp] theorem line_setJob (i j : Nat) (v : Option Job) : (s.setJob i v).line j = s.line j := rfl
@[simp] theorem barrier_setJob (i j : Nat) (v : Option Job) : (s.setJob i v).barrier j = s.barrier j := rfl
@[simp] theorem lane_setJob (i j : Nat) (v : Option Job) : (s.setJob i v).lane j = s.lane j := rfl
@[simp] theorem ep_setJob (i j : Nat) (v : Option Job) : (s.setJob i v).ep j = s.ep j := rfl
@[simp] theorem hub_setJob (i j : Nat) (v : Option Job) : (s.setJob i v).hub j = s.hub j := rfl
@[simp] theorem chan_setJob (i j : Nat) (v : Option Job) : (s.setJob i v).chan j = s.chan j := rfl
@[simp] theorem fan_setJob (i j : Nat) (v : Option Job) : (s.setJob i v).fan j = s.fan j := rfl
@[simp] theorem part_setJob (i j : Nat) (v : Option Job) : (s.setJob i v).part j = s.part j := rfl
@[simp] theorem slot_setJob (i j : Nat) (v : Option Job) : (s.setJob i v).slot j = s.slot j := rfl
@[simp] theorem pending_setJob (i : Nat) (v : Option Job) : (s.setJob i v).pending = s.pending := rfl
@[simp] theorem timebase_setJob (i : Nat) (v : Option Job) : (s.setJob i v).timebase = s.timebase := rfl
@[simp] theorem freeCtr_setJob (i : Nat) (v : Option Job) : (s.setJob i v).freeCtr = s.freeCtr := rfl
@[simp] theorem out_setJob (i : Nat) (v : Option Job) : (s.setJob i v).out = s.out := rfl
@[simp] theorem badLines_setJob (i : Nat) (v : Option Job) : (s.setJob i v).badLines = s.badLines := rfl
@[simp] theorem pins_setJob (i : Nat) (v : Option Job) : (s.setJob i v).pins = s.pins := rfl
@[simp] theorem bsn_setJob (i : Nat) (v : Option Job) : (s.setJob i v).bsn = s.bsn := rfl
@[simp] theorem sel_setJob (i : Nat) (v : Option Job) : (s.setJob i v).sel = s.sel := rfl
@[simp] theorem idIrqTarget_setJob (i : Nat) (v : Option Job) : (s.setJob i v).idIrqTarget = s.idIrqTarget := rfl
@[simp] theorem ntfTargets_setJob (i : Nat) (v : Option Job) : (s.setJob i v).ntfTargets = s.ntfTargets := rfl
@[simp] theorem ntfQueue_setJob (i : Nat) (v : Option Job) : (s.setJob i v).ntfQueue = s.ntfQueue := rfl
@[simp] theorem loads_setJob (i : Nat) (v : Option Job) : (s.setJob i v).loads = s.loads := rfl
@[simp] theorem zeroing_setJob (i : Nat) (v : Option Job) : (s.setJob i v).zeroing = s.zeroing := rfl
@[simp] theorem slotWait_setJob (i : Nat) (v : Option Job) : (s.setJob i v).slotWait = s.slotWait := rfl
@[simp] theorem blockWait_setJob (i : Nat) (v : Option Job) : (s.setJob i v).blockWait = s.blockWait := rfl
@[simp] theorem wsh_setJob (i : Nat) (v : Option Job) : (s.setJob i v).wsh = s.wsh := rfl
@[simp] theorem ntc_setJob (i : Nat) (v : Option Job) : (s.setJob i v).ntc = s.ntc := rfl
@[simp] theorem vld_setJob (i : Nat) (v : Option Job) : (s.setJob i v).vld = s.vld := rfl
@[simp] theorem loe_setJob (i : Nat) (v : Option Job) : (s.setJob i v).loe = s.loe := rfl
@[simp] theorem swb_setJob (i : Nat) (v : Option Job) : (s.setJob i v).swb = s.swb := rfl
@[simp] theorem per_setJob (i : Nat) (v : Option Job) : (s.setJob i v).per = s.per := rfl
@[simp] theorem mgt_setJob (i : Nat) (v : Option Job) : (s.setJob i v).mgt = s.mgt := rfl
@[simp] theorem dbg_setJob (i : Nat) (v : Option Job) : (s.setJob i v).dbg = s.dbg := rfl
@[simp] theorem dl_setJob (i : Nat) (v : Option Job) : (s.setJob i v).dl = s.dl := rfl
@[simp] theorem flights_setJob (i : Nat) (v : Option Job) : (s.setJob i v).flights = s.flights := rfl
@[simp] theorem capTab_setJob (i : Nat) (v : Option Job) : (s.setJob i v).capTab = s.capTab := rfl
@[simp] theorem calls_setJob (i : Nat) (v : Option Job) : (s.setJob i v).calls = s.calls := rfl
@[simp] theorem patchLine_setJob (i : Nat) (v : Option Job) : (s.setJob i v).patchLine = s.patchLine := rfl
@[simp] theorem captbl_setJob (i : Nat) (v : Option Job) : (s.setJob i v).captbl = s.captbl := rfl
@[simp] theorem captblGen_setJob (i : Nat) (v : Option Job) : (s.setJob i v).captblGen = s.captblGen := rfl
@[simp] theorem allocWait_setJob (i : Nat) (v : Option Job) : (s.setJob i v).allocWait = s.allocWait := rfl
@[simp] theorem freeWait_setJob (i : Nat) (v : Option Job) : (s.setJob i v).freeWait = s.freeWait := rfl
@[simp] theorem withheld_setJob (i : Nat) (v : Option Job) : (s.setJob i v).withheld = s.withheld := rfl
@[simp] theorem limits_setJob (i : Nat) (v : Option Job) : (s.setJob i v).limits = s.limits := rfl
@[simp] theorem ctxs_setJob (i : Nat) (v : Option Job) : (s.setJob i v).ctxs = s.ctxs := rfl
@[simp] theorem parts_setJob (i : Nat) (v : Option Job) : (s.setJob i v).parts = s.parts := rfl
@[simp] theorem chans_setJob (i : Nat) (v : Option Job) : (s.setJob i v).chans = s.chans := rfl
@[simp] theorem queues_setJob (i : Nat) (v : Option Job) : (s.setJob i v).queues = s.queues := rfl
@[simp] theorem eps_setJob (i : Nat) (v : Option Job) : (s.setJob i v).eps = s.eps := rfl
@[simp] theorem lanes_setJob (i : Nat) (v : Option Job) : (s.setJob i v).lanes = s.lanes := rfl

/-! ## setSlice -/

@[simp] theorem slice_setSlice (i j : Nat) (v : Slice) : (s.setSlice i v).slice j = if j = i then v else s.slice j := by
  unfold State.setSlice State.slice; exact tget_tset ..
@[simp] theorem page_setSlice (i j : Nat) (v : Slice) : (s.setSlice i v).page j = s.page j := rfl
@[simp] theorem queue_setSlice (i j : Nat) (v : Slice) : (s.setSlice i v).queue j = s.queue j := rfl
@[simp] theorem job_setSlice (i j : Nat) (v : Slice) : (s.setSlice i v).job j = s.job j := rfl
@[simp] theorem ctx_setSlice (i j : Nat) (v : Slice) : (s.setSlice i v).ctx j = s.ctx j := rfl
@[simp] theorem graph_setSlice (i j : Nat) (v : Slice) : (s.setSlice i v).graph j = s.graph j := rfl
@[simp] theorem waiter_setSlice (i j : Nat) (v : Slice) : (s.setSlice i v).waiter j = s.waiter j := rfl
@[simp] theorem line_setSlice (i j : Nat) (v : Slice) : (s.setSlice i v).line j = s.line j := rfl
@[simp] theorem barrier_setSlice (i j : Nat) (v : Slice) : (s.setSlice i v).barrier j = s.barrier j := rfl
@[simp] theorem lane_setSlice (i j : Nat) (v : Slice) : (s.setSlice i v).lane j = s.lane j := rfl
@[simp] theorem ep_setSlice (i j : Nat) (v : Slice) : (s.setSlice i v).ep j = s.ep j := rfl
@[simp] theorem hub_setSlice (i j : Nat) (v : Slice) : (s.setSlice i v).hub j = s.hub j := rfl
@[simp] theorem chan_setSlice (i j : Nat) (v : Slice) : (s.setSlice i v).chan j = s.chan j := rfl
@[simp] theorem fan_setSlice (i j : Nat) (v : Slice) : (s.setSlice i v).fan j = s.fan j := rfl
@[simp] theorem part_setSlice (i j : Nat) (v : Slice) : (s.setSlice i v).part j = s.part j := rfl
@[simp] theorem slot_setSlice (i j : Nat) (v : Slice) : (s.setSlice i v).slot j = s.slot j := rfl
@[simp] theorem pending_setSlice (i : Nat) (v : Slice) : (s.setSlice i v).pending = s.pending := rfl
@[simp] theorem timebase_setSlice (i : Nat) (v : Slice) : (s.setSlice i v).timebase = s.timebase := rfl
@[simp] theorem freeCtr_setSlice (i : Nat) (v : Slice) : (s.setSlice i v).freeCtr = s.freeCtr := rfl
@[simp] theorem out_setSlice (i : Nat) (v : Slice) : (s.setSlice i v).out = s.out := rfl
@[simp] theorem badLines_setSlice (i : Nat) (v : Slice) : (s.setSlice i v).badLines = s.badLines := rfl
@[simp] theorem pins_setSlice (i : Nat) (v : Slice) : (s.setSlice i v).pins = s.pins := rfl
@[simp] theorem bsn_setSlice (i : Nat) (v : Slice) : (s.setSlice i v).bsn = s.bsn := rfl
@[simp] theorem sel_setSlice (i : Nat) (v : Slice) : (s.setSlice i v).sel = s.sel := rfl
@[simp] theorem idIrqTarget_setSlice (i : Nat) (v : Slice) : (s.setSlice i v).idIrqTarget = s.idIrqTarget := rfl
@[simp] theorem ntfTargets_setSlice (i : Nat) (v : Slice) : (s.setSlice i v).ntfTargets = s.ntfTargets := rfl
@[simp] theorem ntfQueue_setSlice (i : Nat) (v : Slice) : (s.setSlice i v).ntfQueue = s.ntfQueue := rfl
@[simp] theorem loads_setSlice (i : Nat) (v : Slice) : (s.setSlice i v).loads = s.loads := rfl
@[simp] theorem zeroing_setSlice (i : Nat) (v : Slice) : (s.setSlice i v).zeroing = s.zeroing := rfl
@[simp] theorem slotWait_setSlice (i : Nat) (v : Slice) : (s.setSlice i v).slotWait = s.slotWait := rfl
@[simp] theorem blockWait_setSlice (i : Nat) (v : Slice) : (s.setSlice i v).blockWait = s.blockWait := rfl
@[simp] theorem wsh_setSlice (i : Nat) (v : Slice) : (s.setSlice i v).wsh = s.wsh := rfl
@[simp] theorem ntc_setSlice (i : Nat) (v : Slice) : (s.setSlice i v).ntc = s.ntc := rfl
@[simp] theorem vld_setSlice (i : Nat) (v : Slice) : (s.setSlice i v).vld = s.vld := rfl
@[simp] theorem loe_setSlice (i : Nat) (v : Slice) : (s.setSlice i v).loe = s.loe := rfl
@[simp] theorem swb_setSlice (i : Nat) (v : Slice) : (s.setSlice i v).swb = s.swb := rfl
@[simp] theorem per_setSlice (i : Nat) (v : Slice) : (s.setSlice i v).per = s.per := rfl
@[simp] theorem mgt_setSlice (i : Nat) (v : Slice) : (s.setSlice i v).mgt = s.mgt := rfl
@[simp] theorem dbg_setSlice (i : Nat) (v : Slice) : (s.setSlice i v).dbg = s.dbg := rfl
@[simp] theorem dl_setSlice (i : Nat) (v : Slice) : (s.setSlice i v).dl = s.dl := rfl
@[simp] theorem flights_setSlice (i : Nat) (v : Slice) : (s.setSlice i v).flights = s.flights := rfl
@[simp] theorem capTab_setSlice (i : Nat) (v : Slice) : (s.setSlice i v).capTab = s.capTab := rfl
@[simp] theorem calls_setSlice (i : Nat) (v : Slice) : (s.setSlice i v).calls = s.calls := rfl
@[simp] theorem patchLine_setSlice (i : Nat) (v : Slice) : (s.setSlice i v).patchLine = s.patchLine := rfl
@[simp] theorem captbl_setSlice (i : Nat) (v : Slice) : (s.setSlice i v).captbl = s.captbl := rfl
@[simp] theorem captblGen_setSlice (i : Nat) (v : Slice) : (s.setSlice i v).captblGen = s.captblGen := rfl
@[simp] theorem allocWait_setSlice (i : Nat) (v : Slice) : (s.setSlice i v).allocWait = s.allocWait := rfl
@[simp] theorem freeWait_setSlice (i : Nat) (v : Slice) : (s.setSlice i v).freeWait = s.freeWait := rfl
@[simp] theorem withheld_setSlice (i : Nat) (v : Slice) : (s.setSlice i v).withheld = s.withheld := rfl
@[simp] theorem limits_setSlice (i : Nat) (v : Slice) : (s.setSlice i v).limits = s.limits := rfl
@[simp] theorem ctxs_setSlice (i : Nat) (v : Slice) : (s.setSlice i v).ctxs = s.ctxs := rfl
@[simp] theorem parts_setSlice (i : Nat) (v : Slice) : (s.setSlice i v).parts = s.parts := rfl
@[simp] theorem chans_setSlice (i : Nat) (v : Slice) : (s.setSlice i v).chans = s.chans := rfl
@[simp] theorem jobs_setSlice (i : Nat) (v : Slice) : (s.setSlice i v).jobs = s.jobs := rfl
@[simp] theorem queues_setSlice (i : Nat) (v : Slice) : (s.setSlice i v).queues = s.queues := rfl
@[simp] theorem eps_setSlice (i : Nat) (v : Slice) : (s.setSlice i v).eps = s.eps := rfl
@[simp] theorem lanes_setSlice (i : Nat) (v : Slice) : (s.setSlice i v).lanes = s.lanes := rfl

/-! ## setCtx -/

@[simp] theorem ctx_setCtx (i j : Nat) (v : Context) : (s.setCtx i v).ctx j = if j = i then v else s.ctx j := by
  unfold State.setCtx State.ctx; exact tget_tset ..
@[simp] theorem page_setCtx (i j : Nat) (v : Context) : (s.setCtx i v).page j = s.page j := rfl
@[simp] theorem queue_setCtx (i j : Nat) (v : Context) : (s.setCtx i v).queue j = s.queue j := rfl
@[simp] theorem job_setCtx (i j : Nat) (v : Context) : (s.setCtx i v).job j = s.job j := rfl
@[simp] theorem slice_setCtx (i j : Nat) (v : Context) : (s.setCtx i v).slice j = s.slice j := rfl
@[simp] theorem graph_setCtx (i j : Nat) (v : Context) : (s.setCtx i v).graph j = s.graph j := rfl
@[simp] theorem waiter_setCtx (i j : Nat) (v : Context) : (s.setCtx i v).waiter j = s.waiter j := rfl
@[simp] theorem line_setCtx (i j : Nat) (v : Context) : (s.setCtx i v).line j = s.line j := rfl
@[simp] theorem barrier_setCtx (i j : Nat) (v : Context) : (s.setCtx i v).barrier j = s.barrier j := rfl
@[simp] theorem lane_setCtx (i j : Nat) (v : Context) : (s.setCtx i v).lane j = s.lane j := rfl
@[simp] theorem ep_setCtx (i j : Nat) (v : Context) : (s.setCtx i v).ep j = s.ep j := rfl
@[simp] theorem hub_setCtx (i j : Nat) (v : Context) : (s.setCtx i v).hub j = s.hub j := rfl
@[simp] theorem chan_setCtx (i j : Nat) (v : Context) : (s.setCtx i v).chan j = s.chan j := rfl
@[simp] theorem fan_setCtx (i j : Nat) (v : Context) : (s.setCtx i v).fan j = s.fan j := rfl
@[simp] theorem part_setCtx (i j : Nat) (v : Context) : (s.setCtx i v).part j = s.part j := rfl
@[simp] theorem slot_setCtx (i j : Nat) (v : Context) : (s.setCtx i v).slot j = s.slot j := rfl
@[simp] theorem pending_setCtx (i : Nat) (v : Context) : (s.setCtx i v).pending = s.pending := rfl
@[simp] theorem timebase_setCtx (i : Nat) (v : Context) : (s.setCtx i v).timebase = s.timebase := rfl
@[simp] theorem freeCtr_setCtx (i : Nat) (v : Context) : (s.setCtx i v).freeCtr = s.freeCtr := rfl
@[simp] theorem out_setCtx (i : Nat) (v : Context) : (s.setCtx i v).out = s.out := rfl
@[simp] theorem badLines_setCtx (i : Nat) (v : Context) : (s.setCtx i v).badLines = s.badLines := rfl
@[simp] theorem pins_setCtx (i : Nat) (v : Context) : (s.setCtx i v).pins = s.pins := rfl
@[simp] theorem bsn_setCtx (i : Nat) (v : Context) : (s.setCtx i v).bsn = s.bsn := rfl
@[simp] theorem sel_setCtx (i : Nat) (v : Context) : (s.setCtx i v).sel = s.sel := rfl
@[simp] theorem idIrqTarget_setCtx (i : Nat) (v : Context) : (s.setCtx i v).idIrqTarget = s.idIrqTarget := rfl
@[simp] theorem ntfTargets_setCtx (i : Nat) (v : Context) : (s.setCtx i v).ntfTargets = s.ntfTargets := rfl
@[simp] theorem ntfQueue_setCtx (i : Nat) (v : Context) : (s.setCtx i v).ntfQueue = s.ntfQueue := rfl
@[simp] theorem loads_setCtx (i : Nat) (v : Context) : (s.setCtx i v).loads = s.loads := rfl
@[simp] theorem zeroing_setCtx (i : Nat) (v : Context) : (s.setCtx i v).zeroing = s.zeroing := rfl
@[simp] theorem slotWait_setCtx (i : Nat) (v : Context) : (s.setCtx i v).slotWait = s.slotWait := rfl
@[simp] theorem blockWait_setCtx (i : Nat) (v : Context) : (s.setCtx i v).blockWait = s.blockWait := rfl
@[simp] theorem wsh_setCtx (i : Nat) (v : Context) : (s.setCtx i v).wsh = s.wsh := rfl
@[simp] theorem ntc_setCtx (i : Nat) (v : Context) : (s.setCtx i v).ntc = s.ntc := rfl
@[simp] theorem vld_setCtx (i : Nat) (v : Context) : (s.setCtx i v).vld = s.vld := rfl
@[simp] theorem loe_setCtx (i : Nat) (v : Context) : (s.setCtx i v).loe = s.loe := rfl
@[simp] theorem swb_setCtx (i : Nat) (v : Context) : (s.setCtx i v).swb = s.swb := rfl
@[simp] theorem per_setCtx (i : Nat) (v : Context) : (s.setCtx i v).per = s.per := rfl
@[simp] theorem mgt_setCtx (i : Nat) (v : Context) : (s.setCtx i v).mgt = s.mgt := rfl
@[simp] theorem dbg_setCtx (i : Nat) (v : Context) : (s.setCtx i v).dbg = s.dbg := rfl
@[simp] theorem dl_setCtx (i : Nat) (v : Context) : (s.setCtx i v).dl = s.dl := rfl
@[simp] theorem flights_setCtx (i : Nat) (v : Context) : (s.setCtx i v).flights = s.flights := rfl
@[simp] theorem capTab_setCtx (i : Nat) (v : Context) : (s.setCtx i v).capTab = s.capTab := rfl
@[simp] theorem calls_setCtx (i : Nat) (v : Context) : (s.setCtx i v).calls = s.calls := rfl
@[simp] theorem patchLine_setCtx (i : Nat) (v : Context) : (s.setCtx i v).patchLine = s.patchLine := rfl
@[simp] theorem captbl_setCtx (i : Nat) (v : Context) : (s.setCtx i v).captbl = s.captbl := rfl
@[simp] theorem captblGen_setCtx (i : Nat) (v : Context) : (s.setCtx i v).captblGen = s.captblGen := rfl
@[simp] theorem allocWait_setCtx (i : Nat) (v : Context) : (s.setCtx i v).allocWait = s.allocWait := rfl
@[simp] theorem freeWait_setCtx (i : Nat) (v : Context) : (s.setCtx i v).freeWait = s.freeWait := rfl
@[simp] theorem withheld_setCtx (i : Nat) (v : Context) : (s.setCtx i v).withheld = s.withheld := rfl
@[simp] theorem limits_setCtx (i : Nat) (v : Context) : (s.setCtx i v).limits = s.limits := rfl
@[simp] theorem parts_setCtx (i : Nat) (v : Context) : (s.setCtx i v).parts = s.parts := rfl
@[simp] theorem chans_setCtx (i : Nat) (v : Context) : (s.setCtx i v).chans = s.chans := rfl
@[simp] theorem jobs_setCtx (i : Nat) (v : Context) : (s.setCtx i v).jobs = s.jobs := rfl
@[simp] theorem queues_setCtx (i : Nat) (v : Context) : (s.setCtx i v).queues = s.queues := rfl
@[simp] theorem eps_setCtx (i : Nat) (v : Context) : (s.setCtx i v).eps = s.eps := rfl
@[simp] theorem lanes_setCtx (i : Nat) (v : Context) : (s.setCtx i v).lanes = s.lanes := rfl

/-! ## setGraph -/

@[simp] theorem graph_setGraph (i j : Nat) (v : Option Graph) : (s.setGraph i v).graph j = if j = i then v else s.graph j := by
  unfold State.setGraph State.graph; exact tget_tset ..
@[simp] theorem page_setGraph (i j : Nat) (v : Option Graph) : (s.setGraph i v).page j = s.page j := rfl
@[simp] theorem queue_setGraph (i j : Nat) (v : Option Graph) : (s.setGraph i v).queue j = s.queue j := rfl
@[simp] theorem job_setGraph (i j : Nat) (v : Option Graph) : (s.setGraph i v).job j = s.job j := rfl
@[simp] theorem slice_setGraph (i j : Nat) (v : Option Graph) : (s.setGraph i v).slice j = s.slice j := rfl
@[simp] theorem ctx_setGraph (i j : Nat) (v : Option Graph) : (s.setGraph i v).ctx j = s.ctx j := rfl
@[simp] theorem waiter_setGraph (i j : Nat) (v : Option Graph) : (s.setGraph i v).waiter j = s.waiter j := rfl
@[simp] theorem line_setGraph (i j : Nat) (v : Option Graph) : (s.setGraph i v).line j = s.line j := rfl
@[simp] theorem barrier_setGraph (i j : Nat) (v : Option Graph) : (s.setGraph i v).barrier j = s.barrier j := rfl
@[simp] theorem lane_setGraph (i j : Nat) (v : Option Graph) : (s.setGraph i v).lane j = s.lane j := rfl
@[simp] theorem ep_setGraph (i j : Nat) (v : Option Graph) : (s.setGraph i v).ep j = s.ep j := rfl
@[simp] theorem hub_setGraph (i j : Nat) (v : Option Graph) : (s.setGraph i v).hub j = s.hub j := rfl
@[simp] theorem chan_setGraph (i j : Nat) (v : Option Graph) : (s.setGraph i v).chan j = s.chan j := rfl
@[simp] theorem fan_setGraph (i j : Nat) (v : Option Graph) : (s.setGraph i v).fan j = s.fan j := rfl
@[simp] theorem part_setGraph (i j : Nat) (v : Option Graph) : (s.setGraph i v).part j = s.part j := rfl
@[simp] theorem slot_setGraph (i j : Nat) (v : Option Graph) : (s.setGraph i v).slot j = s.slot j := rfl
@[simp] theorem pending_setGraph (i : Nat) (v : Option Graph) : (s.setGraph i v).pending = s.pending := rfl
@[simp] theorem timebase_setGraph (i : Nat) (v : Option Graph) : (s.setGraph i v).timebase = s.timebase := rfl
@[simp] theorem freeCtr_setGraph (i : Nat) (v : Option Graph) : (s.setGraph i v).freeCtr = s.freeCtr := rfl
@[simp] theorem out_setGraph (i : Nat) (v : Option Graph) : (s.setGraph i v).out = s.out := rfl
@[simp] theorem badLines_setGraph (i : Nat) (v : Option Graph) : (s.setGraph i v).badLines = s.badLines := rfl
@[simp] theorem pins_setGraph (i : Nat) (v : Option Graph) : (s.setGraph i v).pins = s.pins := rfl
@[simp] theorem bsn_setGraph (i : Nat) (v : Option Graph) : (s.setGraph i v).bsn = s.bsn := rfl
@[simp] theorem sel_setGraph (i : Nat) (v : Option Graph) : (s.setGraph i v).sel = s.sel := rfl
@[simp] theorem idIrqTarget_setGraph (i : Nat) (v : Option Graph) : (s.setGraph i v).idIrqTarget = s.idIrqTarget := rfl
@[simp] theorem ntfTargets_setGraph (i : Nat) (v : Option Graph) : (s.setGraph i v).ntfTargets = s.ntfTargets := rfl
@[simp] theorem ntfQueue_setGraph (i : Nat) (v : Option Graph) : (s.setGraph i v).ntfQueue = s.ntfQueue := rfl
@[simp] theorem loads_setGraph (i : Nat) (v : Option Graph) : (s.setGraph i v).loads = s.loads := rfl
@[simp] theorem zeroing_setGraph (i : Nat) (v : Option Graph) : (s.setGraph i v).zeroing = s.zeroing := rfl
@[simp] theorem slotWait_setGraph (i : Nat) (v : Option Graph) : (s.setGraph i v).slotWait = s.slotWait := rfl
@[simp] theorem blockWait_setGraph (i : Nat) (v : Option Graph) : (s.setGraph i v).blockWait = s.blockWait := rfl
@[simp] theorem wsh_setGraph (i : Nat) (v : Option Graph) : (s.setGraph i v).wsh = s.wsh := rfl
@[simp] theorem ntc_setGraph (i : Nat) (v : Option Graph) : (s.setGraph i v).ntc = s.ntc := rfl
@[simp] theorem vld_setGraph (i : Nat) (v : Option Graph) : (s.setGraph i v).vld = s.vld := rfl
@[simp] theorem loe_setGraph (i : Nat) (v : Option Graph) : (s.setGraph i v).loe = s.loe := rfl
@[simp] theorem swb_setGraph (i : Nat) (v : Option Graph) : (s.setGraph i v).swb = s.swb := rfl
@[simp] theorem per_setGraph (i : Nat) (v : Option Graph) : (s.setGraph i v).per = s.per := rfl
@[simp] theorem mgt_setGraph (i : Nat) (v : Option Graph) : (s.setGraph i v).mgt = s.mgt := rfl
@[simp] theorem dbg_setGraph (i : Nat) (v : Option Graph) : (s.setGraph i v).dbg = s.dbg := rfl
@[simp] theorem dl_setGraph (i : Nat) (v : Option Graph) : (s.setGraph i v).dl = s.dl := rfl
@[simp] theorem flights_setGraph (i : Nat) (v : Option Graph) : (s.setGraph i v).flights = s.flights := rfl
@[simp] theorem capTab_setGraph (i : Nat) (v : Option Graph) : (s.setGraph i v).capTab = s.capTab := rfl
@[simp] theorem calls_setGraph (i : Nat) (v : Option Graph) : (s.setGraph i v).calls = s.calls := rfl
@[simp] theorem patchLine_setGraph (i : Nat) (v : Option Graph) : (s.setGraph i v).patchLine = s.patchLine := rfl
@[simp] theorem captbl_setGraph (i : Nat) (v : Option Graph) : (s.setGraph i v).captbl = s.captbl := rfl
@[simp] theorem captblGen_setGraph (i : Nat) (v : Option Graph) : (s.setGraph i v).captblGen = s.captblGen := rfl
@[simp] theorem allocWait_setGraph (i : Nat) (v : Option Graph) : (s.setGraph i v).allocWait = s.allocWait := rfl
@[simp] theorem freeWait_setGraph (i : Nat) (v : Option Graph) : (s.setGraph i v).freeWait = s.freeWait := rfl
@[simp] theorem withheld_setGraph (i : Nat) (v : Option Graph) : (s.setGraph i v).withheld = s.withheld := rfl
@[simp] theorem limits_setGraph (i : Nat) (v : Option Graph) : (s.setGraph i v).limits = s.limits := rfl
@[simp] theorem ctxs_setGraph (i : Nat) (v : Option Graph) : (s.setGraph i v).ctxs = s.ctxs := rfl
@[simp] theorem parts_setGraph (i : Nat) (v : Option Graph) : (s.setGraph i v).parts = s.parts := rfl
@[simp] theorem chans_setGraph (i : Nat) (v : Option Graph) : (s.setGraph i v).chans = s.chans := rfl
@[simp] theorem jobs_setGraph (i : Nat) (v : Option Graph) : (s.setGraph i v).jobs = s.jobs := rfl
@[simp] theorem queues_setGraph (i : Nat) (v : Option Graph) : (s.setGraph i v).queues = s.queues := rfl
@[simp] theorem eps_setGraph (i : Nat) (v : Option Graph) : (s.setGraph i v).eps = s.eps := rfl
@[simp] theorem lanes_setGraph (i : Nat) (v : Option Graph) : (s.setGraph i v).lanes = s.lanes := rfl

/-! ## setWaiter -/

@[simp] theorem waiter_setWaiter (i j : Nat) (v : Waiter) : (s.setWaiter i v).waiter j = if j = i then v else s.waiter j := by
  unfold State.setWaiter State.waiter; exact tget_tset ..
@[simp] theorem page_setWaiter (i j : Nat) (v : Waiter) : (s.setWaiter i v).page j = s.page j := rfl
@[simp] theorem queue_setWaiter (i j : Nat) (v : Waiter) : (s.setWaiter i v).queue j = s.queue j := rfl
@[simp] theorem job_setWaiter (i j : Nat) (v : Waiter) : (s.setWaiter i v).job j = s.job j := rfl
@[simp] theorem slice_setWaiter (i j : Nat) (v : Waiter) : (s.setWaiter i v).slice j = s.slice j := rfl
@[simp] theorem ctx_setWaiter (i j : Nat) (v : Waiter) : (s.setWaiter i v).ctx j = s.ctx j := rfl
@[simp] theorem graph_setWaiter (i j : Nat) (v : Waiter) : (s.setWaiter i v).graph j = s.graph j := rfl
@[simp] theorem line_setWaiter (i j : Nat) (v : Waiter) : (s.setWaiter i v).line j = s.line j := rfl
@[simp] theorem barrier_setWaiter (i j : Nat) (v : Waiter) : (s.setWaiter i v).barrier j = s.barrier j := rfl
@[simp] theorem lane_setWaiter (i j : Nat) (v : Waiter) : (s.setWaiter i v).lane j = s.lane j := rfl
@[simp] theorem ep_setWaiter (i j : Nat) (v : Waiter) : (s.setWaiter i v).ep j = s.ep j := rfl
@[simp] theorem hub_setWaiter (i j : Nat) (v : Waiter) : (s.setWaiter i v).hub j = s.hub j := rfl
@[simp] theorem chan_setWaiter (i j : Nat) (v : Waiter) : (s.setWaiter i v).chan j = s.chan j := rfl
@[simp] theorem fan_setWaiter (i j : Nat) (v : Waiter) : (s.setWaiter i v).fan j = s.fan j := rfl
@[simp] theorem part_setWaiter (i j : Nat) (v : Waiter) : (s.setWaiter i v).part j = s.part j := rfl
@[simp] theorem slot_setWaiter (i j : Nat) (v : Waiter) : (s.setWaiter i v).slot j = s.slot j := rfl
@[simp] theorem pending_setWaiter (i : Nat) (v : Waiter) : (s.setWaiter i v).pending = s.pending := rfl
@[simp] theorem timebase_setWaiter (i : Nat) (v : Waiter) : (s.setWaiter i v).timebase = s.timebase := rfl
@[simp] theorem freeCtr_setWaiter (i : Nat) (v : Waiter) : (s.setWaiter i v).freeCtr = s.freeCtr := rfl
@[simp] theorem out_setWaiter (i : Nat) (v : Waiter) : (s.setWaiter i v).out = s.out := rfl
@[simp] theorem badLines_setWaiter (i : Nat) (v : Waiter) : (s.setWaiter i v).badLines = s.badLines := rfl
@[simp] theorem pins_setWaiter (i : Nat) (v : Waiter) : (s.setWaiter i v).pins = s.pins := rfl
@[simp] theorem bsn_setWaiter (i : Nat) (v : Waiter) : (s.setWaiter i v).bsn = s.bsn := rfl
@[simp] theorem sel_setWaiter (i : Nat) (v : Waiter) : (s.setWaiter i v).sel = s.sel := rfl
@[simp] theorem idIrqTarget_setWaiter (i : Nat) (v : Waiter) : (s.setWaiter i v).idIrqTarget = s.idIrqTarget := rfl
@[simp] theorem ntfTargets_setWaiter (i : Nat) (v : Waiter) : (s.setWaiter i v).ntfTargets = s.ntfTargets := rfl
@[simp] theorem ntfQueue_setWaiter (i : Nat) (v : Waiter) : (s.setWaiter i v).ntfQueue = s.ntfQueue := rfl
@[simp] theorem loads_setWaiter (i : Nat) (v : Waiter) : (s.setWaiter i v).loads = s.loads := rfl
@[simp] theorem zeroing_setWaiter (i : Nat) (v : Waiter) : (s.setWaiter i v).zeroing = s.zeroing := rfl
@[simp] theorem slotWait_setWaiter (i : Nat) (v : Waiter) : (s.setWaiter i v).slotWait = s.slotWait := rfl
@[simp] theorem blockWait_setWaiter (i : Nat) (v : Waiter) : (s.setWaiter i v).blockWait = s.blockWait := rfl
@[simp] theorem ntc_setWaiter (i : Nat) (v : Waiter) : (s.setWaiter i v).ntc = s.ntc := rfl
@[simp] theorem vld_setWaiter (i : Nat) (v : Waiter) : (s.setWaiter i v).vld = s.vld := rfl
@[simp] theorem loe_setWaiter (i : Nat) (v : Waiter) : (s.setWaiter i v).loe = s.loe := rfl
@[simp] theorem swb_setWaiter (i : Nat) (v : Waiter) : (s.setWaiter i v).swb = s.swb := rfl
@[simp] theorem per_setWaiter (i : Nat) (v : Waiter) : (s.setWaiter i v).per = s.per := rfl
@[simp] theorem mgt_setWaiter (i : Nat) (v : Waiter) : (s.setWaiter i v).mgt = s.mgt := rfl
@[simp] theorem dbg_setWaiter (i : Nat) (v : Waiter) : (s.setWaiter i v).dbg = s.dbg := rfl
@[simp] theorem dl_setWaiter (i : Nat) (v : Waiter) : (s.setWaiter i v).dl = s.dl := rfl
@[simp] theorem flights_setWaiter (i : Nat) (v : Waiter) : (s.setWaiter i v).flights = s.flights := rfl
@[simp] theorem capTab_setWaiter (i : Nat) (v : Waiter) : (s.setWaiter i v).capTab = s.capTab := rfl
@[simp] theorem calls_setWaiter (i : Nat) (v : Waiter) : (s.setWaiter i v).calls = s.calls := rfl
@[simp] theorem patchLine_setWaiter (i : Nat) (v : Waiter) : (s.setWaiter i v).patchLine = s.patchLine := rfl
@[simp] theorem captbl_setWaiter (i : Nat) (v : Waiter) : (s.setWaiter i v).captbl = s.captbl := rfl
@[simp] theorem captblGen_setWaiter (i : Nat) (v : Waiter) : (s.setWaiter i v).captblGen = s.captblGen := rfl
@[simp] theorem allocWait_setWaiter (i : Nat) (v : Waiter) : (s.setWaiter i v).allocWait = s.allocWait := rfl
@[simp] theorem freeWait_setWaiter (i : Nat) (v : Waiter) : (s.setWaiter i v).freeWait = s.freeWait := rfl
@[simp] theorem withheld_setWaiter (i : Nat) (v : Waiter) : (s.setWaiter i v).withheld = s.withheld := rfl
@[simp] theorem limits_setWaiter (i : Nat) (v : Waiter) : (s.setWaiter i v).limits = s.limits := rfl
@[simp] theorem ctxs_setWaiter (i : Nat) (v : Waiter) : (s.setWaiter i v).ctxs = s.ctxs := rfl
@[simp] theorem parts_setWaiter (i : Nat) (v : Waiter) : (s.setWaiter i v).parts = s.parts := rfl
@[simp] theorem chans_setWaiter (i : Nat) (v : Waiter) : (s.setWaiter i v).chans = s.chans := rfl
@[simp] theorem jobs_setWaiter (i : Nat) (v : Waiter) : (s.setWaiter i v).jobs = s.jobs := rfl
@[simp] theorem queues_setWaiter (i : Nat) (v : Waiter) : (s.setWaiter i v).queues = s.queues := rfl
@[simp] theorem eps_setWaiter (i : Nat) (v : Waiter) : (s.setWaiter i v).eps = s.eps := rfl
@[simp] theorem lanes_setWaiter (i : Nat) (v : Waiter) : (s.setWaiter i v).lanes = s.lanes := rfl

/-! ## setLine -/

@[simp] theorem line_setLine (i j : Nat) (v : Line) : (s.setLine i v).line j = if j = i then v else s.line j := by
  unfold State.setLine State.line; exact tget_tset ..
@[simp] theorem page_setLine (i j : Nat) (v : Line) : (s.setLine i v).page j = s.page j := rfl
@[simp] theorem queue_setLine (i j : Nat) (v : Line) : (s.setLine i v).queue j = s.queue j := rfl
@[simp] theorem job_setLine (i j : Nat) (v : Line) : (s.setLine i v).job j = s.job j := rfl
@[simp] theorem slice_setLine (i j : Nat) (v : Line) : (s.setLine i v).slice j = s.slice j := rfl
@[simp] theorem ctx_setLine (i j : Nat) (v : Line) : (s.setLine i v).ctx j = s.ctx j := rfl
@[simp] theorem graph_setLine (i j : Nat) (v : Line) : (s.setLine i v).graph j = s.graph j := rfl
@[simp] theorem waiter_setLine (i j : Nat) (v : Line) : (s.setLine i v).waiter j = s.waiter j := rfl
@[simp] theorem barrier_setLine (i j : Nat) (v : Line) : (s.setLine i v).barrier j = s.barrier j := rfl
@[simp] theorem lane_setLine (i j : Nat) (v : Line) : (s.setLine i v).lane j = s.lane j := rfl
@[simp] theorem ep_setLine (i j : Nat) (v : Line) : (s.setLine i v).ep j = s.ep j := rfl
@[simp] theorem hub_setLine (i j : Nat) (v : Line) : (s.setLine i v).hub j = s.hub j := rfl
@[simp] theorem chan_setLine (i j : Nat) (v : Line) : (s.setLine i v).chan j = s.chan j := rfl
@[simp] theorem fan_setLine (i j : Nat) (v : Line) : (s.setLine i v).fan j = s.fan j := rfl
@[simp] theorem part_setLine (i j : Nat) (v : Line) : (s.setLine i v).part j = s.part j := rfl
@[simp] theorem slot_setLine (i j : Nat) (v : Line) : (s.setLine i v).slot j = s.slot j := rfl
@[simp] theorem pending_setLine (i : Nat) (v : Line) : (s.setLine i v).pending = s.pending := rfl
@[simp] theorem timebase_setLine (i : Nat) (v : Line) : (s.setLine i v).timebase = s.timebase := rfl
@[simp] theorem freeCtr_setLine (i : Nat) (v : Line) : (s.setLine i v).freeCtr = s.freeCtr := rfl
@[simp] theorem out_setLine (i : Nat) (v : Line) : (s.setLine i v).out = s.out := rfl
@[simp] theorem badLines_setLine (i : Nat) (v : Line) : (s.setLine i v).badLines = s.badLines := rfl
@[simp] theorem pins_setLine (i : Nat) (v : Line) : (s.setLine i v).pins = s.pins := rfl
@[simp] theorem bsn_setLine (i : Nat) (v : Line) : (s.setLine i v).bsn = s.bsn := rfl
@[simp] theorem sel_setLine (i : Nat) (v : Line) : (s.setLine i v).sel = s.sel := rfl
@[simp] theorem idIrqTarget_setLine (i : Nat) (v : Line) : (s.setLine i v).idIrqTarget = s.idIrqTarget := rfl
@[simp] theorem ntfTargets_setLine (i : Nat) (v : Line) : (s.setLine i v).ntfTargets = s.ntfTargets := rfl
@[simp] theorem ntfQueue_setLine (i : Nat) (v : Line) : (s.setLine i v).ntfQueue = s.ntfQueue := rfl
@[simp] theorem loads_setLine (i : Nat) (v : Line) : (s.setLine i v).loads = s.loads := rfl
@[simp] theorem zeroing_setLine (i : Nat) (v : Line) : (s.setLine i v).zeroing = s.zeroing := rfl
@[simp] theorem slotWait_setLine (i : Nat) (v : Line) : (s.setLine i v).slotWait = s.slotWait := rfl
@[simp] theorem blockWait_setLine (i : Nat) (v : Line) : (s.setLine i v).blockWait = s.blockWait := rfl
@[simp] theorem ntc_setLine (i : Nat) (v : Line) : (s.setLine i v).ntc = s.ntc := rfl
@[simp] theorem vld_setLine (i : Nat) (v : Line) : (s.setLine i v).vld = s.vld := rfl
@[simp] theorem loe_setLine (i : Nat) (v : Line) : (s.setLine i v).loe = s.loe := rfl
@[simp] theorem swb_setLine (i : Nat) (v : Line) : (s.setLine i v).swb = s.swb := rfl
@[simp] theorem per_setLine (i : Nat) (v : Line) : (s.setLine i v).per = s.per := rfl
@[simp] theorem mgt_setLine (i : Nat) (v : Line) : (s.setLine i v).mgt = s.mgt := rfl
@[simp] theorem dbg_setLine (i : Nat) (v : Line) : (s.setLine i v).dbg = s.dbg := rfl
@[simp] theorem dl_setLine (i : Nat) (v : Line) : (s.setLine i v).dl = s.dl := rfl
@[simp] theorem flights_setLine (i : Nat) (v : Line) : (s.setLine i v).flights = s.flights := rfl
@[simp] theorem capTab_setLine (i : Nat) (v : Line) : (s.setLine i v).capTab = s.capTab := rfl
@[simp] theorem calls_setLine (i : Nat) (v : Line) : (s.setLine i v).calls = s.calls := rfl
@[simp] theorem patchLine_setLine (i : Nat) (v : Line) : (s.setLine i v).patchLine = s.patchLine := rfl
@[simp] theorem captbl_setLine (i : Nat) (v : Line) : (s.setLine i v).captbl = s.captbl := rfl
@[simp] theorem captblGen_setLine (i : Nat) (v : Line) : (s.setLine i v).captblGen = s.captblGen := rfl
@[simp] theorem allocWait_setLine (i : Nat) (v : Line) : (s.setLine i v).allocWait = s.allocWait := rfl
@[simp] theorem freeWait_setLine (i : Nat) (v : Line) : (s.setLine i v).freeWait = s.freeWait := rfl
@[simp] theorem withheld_setLine (i : Nat) (v : Line) : (s.setLine i v).withheld = s.withheld := rfl
@[simp] theorem limits_setLine (i : Nat) (v : Line) : (s.setLine i v).limits = s.limits := rfl
@[simp] theorem ctxs_setLine (i : Nat) (v : Line) : (s.setLine i v).ctxs = s.ctxs := rfl
@[simp] theorem parts_setLine (i : Nat) (v : Line) : (s.setLine i v).parts = s.parts := rfl
@[simp] theorem chans_setLine (i : Nat) (v : Line) : (s.setLine i v).chans = s.chans := rfl
@[simp] theorem jobs_setLine (i : Nat) (v : Line) : (s.setLine i v).jobs = s.jobs := rfl
@[simp] theorem queues_setLine (i : Nat) (v : Line) : (s.setLine i v).queues = s.queues := rfl
@[simp] theorem eps_setLine (i : Nat) (v : Line) : (s.setLine i v).eps = s.eps := rfl
@[simp] theorem lanes_setLine (i : Nat) (v : Line) : (s.setLine i v).lanes = s.lanes := rfl

/-! ## setBarrier -/

@[simp] theorem barrier_setBarrier (i j : Nat) (v : Chan) : (s.setBarrier i v).barrier j = if j = i then v else s.barrier j := by
  unfold State.setBarrier State.barrier; exact tget_tset ..
@[simp] theorem page_setBarrier (i j : Nat) (v : Chan) : (s.setBarrier i v).page j = s.page j := rfl
@[simp] theorem queue_setBarrier (i j : Nat) (v : Chan) : (s.setBarrier i v).queue j = s.queue j := rfl
@[simp] theorem job_setBarrier (i j : Nat) (v : Chan) : (s.setBarrier i v).job j = s.job j := rfl
@[simp] theorem slice_setBarrier (i j : Nat) (v : Chan) : (s.setBarrier i v).slice j = s.slice j := rfl
@[simp] theorem ctx_setBarrier (i j : Nat) (v : Chan) : (s.setBarrier i v).ctx j = s.ctx j := rfl
@[simp] theorem graph_setBarrier (i j : Nat) (v : Chan) : (s.setBarrier i v).graph j = s.graph j := rfl
@[simp] theorem waiter_setBarrier (i j : Nat) (v : Chan) : (s.setBarrier i v).waiter j = s.waiter j := rfl
@[simp] theorem line_setBarrier (i j : Nat) (v : Chan) : (s.setBarrier i v).line j = s.line j := rfl
@[simp] theorem lane_setBarrier (i j : Nat) (v : Chan) : (s.setBarrier i v).lane j = s.lane j := rfl
@[simp] theorem ep_setBarrier (i j : Nat) (v : Chan) : (s.setBarrier i v).ep j = s.ep j := rfl
@[simp] theorem hub_setBarrier (i j : Nat) (v : Chan) : (s.setBarrier i v).hub j = s.hub j := rfl
@[simp] theorem chan_setBarrier (i j : Nat) (v : Chan) : (s.setBarrier i v).chan j = s.chan j := rfl
@[simp] theorem fan_setBarrier (i j : Nat) (v : Chan) : (s.setBarrier i v).fan j = s.fan j := rfl
@[simp] theorem part_setBarrier (i j : Nat) (v : Chan) : (s.setBarrier i v).part j = s.part j := rfl
@[simp] theorem slot_setBarrier (i j : Nat) (v : Chan) : (s.setBarrier i v).slot j = s.slot j := rfl
@[simp] theorem pending_setBarrier (i : Nat) (v : Chan) : (s.setBarrier i v).pending = s.pending := rfl
@[simp] theorem timebase_setBarrier (i : Nat) (v : Chan) : (s.setBarrier i v).timebase = s.timebase := rfl
@[simp] theorem freeCtr_setBarrier (i : Nat) (v : Chan) : (s.setBarrier i v).freeCtr = s.freeCtr := rfl
@[simp] theorem out_setBarrier (i : Nat) (v : Chan) : (s.setBarrier i v).out = s.out := rfl
@[simp] theorem badLines_setBarrier (i : Nat) (v : Chan) : (s.setBarrier i v).badLines = s.badLines := rfl
@[simp] theorem pins_setBarrier (i : Nat) (v : Chan) : (s.setBarrier i v).pins = s.pins := rfl
@[simp] theorem bsn_setBarrier (i : Nat) (v : Chan) : (s.setBarrier i v).bsn = s.bsn := rfl
@[simp] theorem sel_setBarrier (i : Nat) (v : Chan) : (s.setBarrier i v).sel = s.sel := rfl
@[simp] theorem idIrqTarget_setBarrier (i : Nat) (v : Chan) : (s.setBarrier i v).idIrqTarget = s.idIrqTarget := rfl
@[simp] theorem ntfTargets_setBarrier (i : Nat) (v : Chan) : (s.setBarrier i v).ntfTargets = s.ntfTargets := rfl
@[simp] theorem ntfQueue_setBarrier (i : Nat) (v : Chan) : (s.setBarrier i v).ntfQueue = s.ntfQueue := rfl
@[simp] theorem loads_setBarrier (i : Nat) (v : Chan) : (s.setBarrier i v).loads = s.loads := rfl
@[simp] theorem zeroing_setBarrier (i : Nat) (v : Chan) : (s.setBarrier i v).zeroing = s.zeroing := rfl
@[simp] theorem slotWait_setBarrier (i : Nat) (v : Chan) : (s.setBarrier i v).slotWait = s.slotWait := rfl
@[simp] theorem blockWait_setBarrier (i : Nat) (v : Chan) : (s.setBarrier i v).blockWait = s.blockWait := rfl
@[simp] theorem wsh_setBarrier (i : Nat) (v : Chan) : (s.setBarrier i v).wsh = s.wsh := rfl
@[simp] theorem ntc_setBarrier (i : Nat) (v : Chan) : (s.setBarrier i v).ntc = s.ntc := rfl
@[simp] theorem vld_setBarrier (i : Nat) (v : Chan) : (s.setBarrier i v).vld = s.vld := rfl
@[simp] theorem loe_setBarrier (i : Nat) (v : Chan) : (s.setBarrier i v).loe = s.loe := rfl
@[simp] theorem swb_setBarrier (i : Nat) (v : Chan) : (s.setBarrier i v).swb = s.swb := rfl
@[simp] theorem per_setBarrier (i : Nat) (v : Chan) : (s.setBarrier i v).per = s.per := rfl
@[simp] theorem mgt_setBarrier (i : Nat) (v : Chan) : (s.setBarrier i v).mgt = s.mgt := rfl
@[simp] theorem dbg_setBarrier (i : Nat) (v : Chan) : (s.setBarrier i v).dbg = s.dbg := rfl
@[simp] theorem dl_setBarrier (i : Nat) (v : Chan) : (s.setBarrier i v).dl = s.dl := rfl
@[simp] theorem flights_setBarrier (i : Nat) (v : Chan) : (s.setBarrier i v).flights = s.flights := rfl
@[simp] theorem capTab_setBarrier (i : Nat) (v : Chan) : (s.setBarrier i v).capTab = s.capTab := rfl
@[simp] theorem calls_setBarrier (i : Nat) (v : Chan) : (s.setBarrier i v).calls = s.calls := rfl
@[simp] theorem patchLine_setBarrier (i : Nat) (v : Chan) : (s.setBarrier i v).patchLine = s.patchLine := rfl
@[simp] theorem captbl_setBarrier (i : Nat) (v : Chan) : (s.setBarrier i v).captbl = s.captbl := rfl
@[simp] theorem captblGen_setBarrier (i : Nat) (v : Chan) : (s.setBarrier i v).captblGen = s.captblGen := rfl
@[simp] theorem allocWait_setBarrier (i : Nat) (v : Chan) : (s.setBarrier i v).allocWait = s.allocWait := rfl
@[simp] theorem freeWait_setBarrier (i : Nat) (v : Chan) : (s.setBarrier i v).freeWait = s.freeWait := rfl
@[simp] theorem withheld_setBarrier (i : Nat) (v : Chan) : (s.setBarrier i v).withheld = s.withheld := rfl
@[simp] theorem limits_setBarrier (i : Nat) (v : Chan) : (s.setBarrier i v).limits = s.limits := rfl
@[simp] theorem ctxs_setBarrier (i : Nat) (v : Chan) : (s.setBarrier i v).ctxs = s.ctxs := rfl
@[simp] theorem parts_setBarrier (i : Nat) (v : Chan) : (s.setBarrier i v).parts = s.parts := rfl
@[simp] theorem chans_setBarrier (i : Nat) (v : Chan) : (s.setBarrier i v).chans = s.chans := rfl
@[simp] theorem jobs_setBarrier (i : Nat) (v : Chan) : (s.setBarrier i v).jobs = s.jobs := rfl
@[simp] theorem queues_setBarrier (i : Nat) (v : Chan) : (s.setBarrier i v).queues = s.queues := rfl
@[simp] theorem eps_setBarrier (i : Nat) (v : Chan) : (s.setBarrier i v).eps = s.eps := rfl
@[simp] theorem lanes_setBarrier (i : Nat) (v : Chan) : (s.setBarrier i v).lanes = s.lanes := rfl

/-! ## setLane -/

@[simp] theorem lane_setLane (i j : Nat) (v : Lane) : (s.setLane i v).lane j = if j = i then v else s.lane j := by
  unfold State.setLane State.lane; exact tget_tset ..
@[simp] theorem page_setLane (i j : Nat) (v : Lane) : (s.setLane i v).page j = s.page j := rfl
@[simp] theorem queue_setLane (i j : Nat) (v : Lane) : (s.setLane i v).queue j = s.queue j := rfl
@[simp] theorem job_setLane (i j : Nat) (v : Lane) : (s.setLane i v).job j = s.job j := rfl
@[simp] theorem slice_setLane (i j : Nat) (v : Lane) : (s.setLane i v).slice j = s.slice j := rfl
@[simp] theorem ctx_setLane (i j : Nat) (v : Lane) : (s.setLane i v).ctx j = s.ctx j := rfl
@[simp] theorem graph_setLane (i j : Nat) (v : Lane) : (s.setLane i v).graph j = s.graph j := rfl
@[simp] theorem waiter_setLane (i j : Nat) (v : Lane) : (s.setLane i v).waiter j = s.waiter j := rfl
@[simp] theorem line_setLane (i j : Nat) (v : Lane) : (s.setLane i v).line j = s.line j := rfl
@[simp] theorem barrier_setLane (i j : Nat) (v : Lane) : (s.setLane i v).barrier j = s.barrier j := rfl
@[simp] theorem ep_setLane (i j : Nat) (v : Lane) : (s.setLane i v).ep j = s.ep j := rfl
@[simp] theorem hub_setLane (i j : Nat) (v : Lane) : (s.setLane i v).hub j = s.hub j := rfl
@[simp] theorem chan_setLane (i j : Nat) (v : Lane) : (s.setLane i v).chan j = s.chan j := rfl
@[simp] theorem fan_setLane (i j : Nat) (v : Lane) : (s.setLane i v).fan j = s.fan j := rfl
@[simp] theorem part_setLane (i j : Nat) (v : Lane) : (s.setLane i v).part j = s.part j := rfl
@[simp] theorem slot_setLane (i j : Nat) (v : Lane) : (s.setLane i v).slot j = s.slot j := rfl
@[simp] theorem pending_setLane (i : Nat) (v : Lane) : (s.setLane i v).pending = s.pending := rfl
@[simp] theorem timebase_setLane (i : Nat) (v : Lane) : (s.setLane i v).timebase = s.timebase := rfl
@[simp] theorem freeCtr_setLane (i : Nat) (v : Lane) : (s.setLane i v).freeCtr = s.freeCtr := rfl
@[simp] theorem out_setLane (i : Nat) (v : Lane) : (s.setLane i v).out = s.out := rfl
@[simp] theorem badLines_setLane (i : Nat) (v : Lane) : (s.setLane i v).badLines = s.badLines := rfl
@[simp] theorem pins_setLane (i : Nat) (v : Lane) : (s.setLane i v).pins = s.pins := rfl
@[simp] theorem bsn_setLane (i : Nat) (v : Lane) : (s.setLane i v).bsn = s.bsn := rfl
@[simp] theorem sel_setLane (i : Nat) (v : Lane) : (s.setLane i v).sel = s.sel := rfl
@[simp] theorem idIrqTarget_setLane (i : Nat) (v : Lane) : (s.setLane i v).idIrqTarget = s.idIrqTarget := rfl
@[simp] theorem ntfTargets_setLane (i : Nat) (v : Lane) : (s.setLane i v).ntfTargets = s.ntfTargets := rfl
@[simp] theorem ntfQueue_setLane (i : Nat) (v : Lane) : (s.setLane i v).ntfQueue = s.ntfQueue := rfl
@[simp] theorem loads_setLane (i : Nat) (v : Lane) : (s.setLane i v).loads = s.loads := rfl
@[simp] theorem zeroing_setLane (i : Nat) (v : Lane) : (s.setLane i v).zeroing = s.zeroing := rfl
@[simp] theorem slotWait_setLane (i : Nat) (v : Lane) : (s.setLane i v).slotWait = s.slotWait := rfl
@[simp] theorem blockWait_setLane (i : Nat) (v : Lane) : (s.setLane i v).blockWait = s.blockWait := rfl
@[simp] theorem wsh_setLane (i : Nat) (v : Lane) : (s.setLane i v).wsh = s.wsh := rfl
@[simp] theorem ntc_setLane (i : Nat) (v : Lane) : (s.setLane i v).ntc = s.ntc := rfl
@[simp] theorem vld_setLane (i : Nat) (v : Lane) : (s.setLane i v).vld = s.vld := rfl
@[simp] theorem loe_setLane (i : Nat) (v : Lane) : (s.setLane i v).loe = s.loe := rfl
@[simp] theorem swb_setLane (i : Nat) (v : Lane) : (s.setLane i v).swb = s.swb := rfl
@[simp] theorem per_setLane (i : Nat) (v : Lane) : (s.setLane i v).per = s.per := rfl
@[simp] theorem mgt_setLane (i : Nat) (v : Lane) : (s.setLane i v).mgt = s.mgt := rfl
@[simp] theorem dbg_setLane (i : Nat) (v : Lane) : (s.setLane i v).dbg = s.dbg := rfl
@[simp] theorem dl_setLane (i : Nat) (v : Lane) : (s.setLane i v).dl = s.dl := rfl
@[simp] theorem flights_setLane (i : Nat) (v : Lane) : (s.setLane i v).flights = s.flights := rfl
@[simp] theorem capTab_setLane (i : Nat) (v : Lane) : (s.setLane i v).capTab = s.capTab := rfl
@[simp] theorem calls_setLane (i : Nat) (v : Lane) : (s.setLane i v).calls = s.calls := rfl
@[simp] theorem patchLine_setLane (i : Nat) (v : Lane) : (s.setLane i v).patchLine = s.patchLine := rfl
@[simp] theorem captbl_setLane (i : Nat) (v : Lane) : (s.setLane i v).captbl = s.captbl := rfl
@[simp] theorem captblGen_setLane (i : Nat) (v : Lane) : (s.setLane i v).captblGen = s.captblGen := rfl
@[simp] theorem allocWait_setLane (i : Nat) (v : Lane) : (s.setLane i v).allocWait = s.allocWait := rfl
@[simp] theorem freeWait_setLane (i : Nat) (v : Lane) : (s.setLane i v).freeWait = s.freeWait := rfl
@[simp] theorem withheld_setLane (i : Nat) (v : Lane) : (s.setLane i v).withheld = s.withheld := rfl
@[simp] theorem limits_setLane (i : Nat) (v : Lane) : (s.setLane i v).limits = s.limits := rfl
@[simp] theorem ctxs_setLane (i : Nat) (v : Lane) : (s.setLane i v).ctxs = s.ctxs := rfl
@[simp] theorem parts_setLane (i : Nat) (v : Lane) : (s.setLane i v).parts = s.parts := rfl
@[simp] theorem chans_setLane (i : Nat) (v : Lane) : (s.setLane i v).chans = s.chans := rfl
@[simp] theorem jobs_setLane (i : Nat) (v : Lane) : (s.setLane i v).jobs = s.jobs := rfl
@[simp] theorem queues_setLane (i : Nat) (v : Lane) : (s.setLane i v).queues = s.queues := rfl
@[simp] theorem eps_setLane (i : Nat) (v : Lane) : (s.setLane i v).eps = s.eps := rfl

/-! ## setEp -/

@[simp] theorem ep_setEp (i j : Nat) (v : Endpoint) : (s.setEp i v).ep j = if j = i then v else s.ep j := by
  unfold State.setEp State.ep; exact tget_tset ..
@[simp] theorem page_setEp (i j : Nat) (v : Endpoint) : (s.setEp i v).page j = s.page j := rfl
@[simp] theorem queue_setEp (i j : Nat) (v : Endpoint) : (s.setEp i v).queue j = s.queue j := rfl
@[simp] theorem job_setEp (i j : Nat) (v : Endpoint) : (s.setEp i v).job j = s.job j := rfl
@[simp] theorem slice_setEp (i j : Nat) (v : Endpoint) : (s.setEp i v).slice j = s.slice j := rfl
@[simp] theorem ctx_setEp (i j : Nat) (v : Endpoint) : (s.setEp i v).ctx j = s.ctx j := rfl
@[simp] theorem graph_setEp (i j : Nat) (v : Endpoint) : (s.setEp i v).graph j = s.graph j := rfl
@[simp] theorem waiter_setEp (i j : Nat) (v : Endpoint) : (s.setEp i v).waiter j = s.waiter j := rfl
@[simp] theorem line_setEp (i j : Nat) (v : Endpoint) : (s.setEp i v).line j = s.line j := rfl
@[simp] theorem barrier_setEp (i j : Nat) (v : Endpoint) : (s.setEp i v).barrier j = s.barrier j := rfl
@[simp] theorem lane_setEp (i j : Nat) (v : Endpoint) : (s.setEp i v).lane j = s.lane j := rfl
@[simp] theorem hub_setEp (i j : Nat) (v : Endpoint) : (s.setEp i v).hub j = s.hub j := rfl
@[simp] theorem chan_setEp (i j : Nat) (v : Endpoint) : (s.setEp i v).chan j = s.chan j := rfl
@[simp] theorem fan_setEp (i j : Nat) (v : Endpoint) : (s.setEp i v).fan j = s.fan j := rfl
@[simp] theorem part_setEp (i j : Nat) (v : Endpoint) : (s.setEp i v).part j = s.part j := rfl
@[simp] theorem slot_setEp (i j : Nat) (v : Endpoint) : (s.setEp i v).slot j = s.slot j := rfl
@[simp] theorem pending_setEp (i : Nat) (v : Endpoint) : (s.setEp i v).pending = s.pending := rfl
@[simp] theorem timebase_setEp (i : Nat) (v : Endpoint) : (s.setEp i v).timebase = s.timebase := rfl
@[simp] theorem freeCtr_setEp (i : Nat) (v : Endpoint) : (s.setEp i v).freeCtr = s.freeCtr := rfl
@[simp] theorem out_setEp (i : Nat) (v : Endpoint) : (s.setEp i v).out = s.out := rfl
@[simp] theorem badLines_setEp (i : Nat) (v : Endpoint) : (s.setEp i v).badLines = s.badLines := rfl
@[simp] theorem pins_setEp (i : Nat) (v : Endpoint) : (s.setEp i v).pins = s.pins := rfl
@[simp] theorem bsn_setEp (i : Nat) (v : Endpoint) : (s.setEp i v).bsn = s.bsn := rfl
@[simp] theorem sel_setEp (i : Nat) (v : Endpoint) : (s.setEp i v).sel = s.sel := rfl
@[simp] theorem idIrqTarget_setEp (i : Nat) (v : Endpoint) : (s.setEp i v).idIrqTarget = s.idIrqTarget := rfl
@[simp] theorem ntfTargets_setEp (i : Nat) (v : Endpoint) : (s.setEp i v).ntfTargets = s.ntfTargets := rfl
@[simp] theorem ntfQueue_setEp (i : Nat) (v : Endpoint) : (s.setEp i v).ntfQueue = s.ntfQueue := rfl
@[simp] theorem loads_setEp (i : Nat) (v : Endpoint) : (s.setEp i v).loads = s.loads := rfl
@[simp] theorem zeroing_setEp (i : Nat) (v : Endpoint) : (s.setEp i v).zeroing = s.zeroing := rfl
@[simp] theorem slotWait_setEp (i : Nat) (v : Endpoint) : (s.setEp i v).slotWait = s.slotWait := rfl
@[simp] theorem blockWait_setEp (i : Nat) (v : Endpoint) : (s.setEp i v).blockWait = s.blockWait := rfl
@[simp] theorem wsh_setEp (i : Nat) (v : Endpoint) : (s.setEp i v).wsh = s.wsh := rfl
@[simp] theorem ntc_setEp (i : Nat) (v : Endpoint) : (s.setEp i v).ntc = s.ntc := rfl
@[simp] theorem vld_setEp (i : Nat) (v : Endpoint) : (s.setEp i v).vld = s.vld := rfl
@[simp] theorem loe_setEp (i : Nat) (v : Endpoint) : (s.setEp i v).loe = s.loe := rfl
@[simp] theorem swb_setEp (i : Nat) (v : Endpoint) : (s.setEp i v).swb = s.swb := rfl
@[simp] theorem per_setEp (i : Nat) (v : Endpoint) : (s.setEp i v).per = s.per := rfl
@[simp] theorem mgt_setEp (i : Nat) (v : Endpoint) : (s.setEp i v).mgt = s.mgt := rfl
@[simp] theorem dbg_setEp (i : Nat) (v : Endpoint) : (s.setEp i v).dbg = s.dbg := rfl
@[simp] theorem dl_setEp (i : Nat) (v : Endpoint) : (s.setEp i v).dl = s.dl := rfl
@[simp] theorem flights_setEp (i : Nat) (v : Endpoint) : (s.setEp i v).flights = s.flights := rfl
@[simp] theorem capTab_setEp (i : Nat) (v : Endpoint) : (s.setEp i v).capTab = s.capTab := rfl
@[simp] theorem calls_setEp (i : Nat) (v : Endpoint) : (s.setEp i v).calls = s.calls := rfl
@[simp] theorem patchLine_setEp (i : Nat) (v : Endpoint) : (s.setEp i v).patchLine = s.patchLine := rfl
@[simp] theorem captbl_setEp (i : Nat) (v : Endpoint) : (s.setEp i v).captbl = s.captbl := rfl
@[simp] theorem captblGen_setEp (i : Nat) (v : Endpoint) : (s.setEp i v).captblGen = s.captblGen := rfl
@[simp] theorem allocWait_setEp (i : Nat) (v : Endpoint) : (s.setEp i v).allocWait = s.allocWait := rfl
@[simp] theorem freeWait_setEp (i : Nat) (v : Endpoint) : (s.setEp i v).freeWait = s.freeWait := rfl
@[simp] theorem withheld_setEp (i : Nat) (v : Endpoint) : (s.setEp i v).withheld = s.withheld := rfl
@[simp] theorem limits_setEp (i : Nat) (v : Endpoint) : (s.setEp i v).limits = s.limits := rfl
@[simp] theorem ctxs_setEp (i : Nat) (v : Endpoint) : (s.setEp i v).ctxs = s.ctxs := rfl
@[simp] theorem parts_setEp (i : Nat) (v : Endpoint) : (s.setEp i v).parts = s.parts := rfl
@[simp] theorem chans_setEp (i : Nat) (v : Endpoint) : (s.setEp i v).chans = s.chans := rfl
@[simp] theorem jobs_setEp (i : Nat) (v : Endpoint) : (s.setEp i v).jobs = s.jobs := rfl
@[simp] theorem queues_setEp (i : Nat) (v : Endpoint) : (s.setEp i v).queues = s.queues := rfl
@[simp] theorem lanes_setEp (i : Nat) (v : Endpoint) : (s.setEp i v).lanes = s.lanes := rfl

/-! ## setHub -/

@[simp] theorem hub_setHub (i j : Nat) (v : Hub) : (s.setHub i v).hub j = if j = i then v else s.hub j := by
  unfold State.setHub State.hub; exact tget_tset ..
@[simp] theorem page_setHub (i j : Nat) (v : Hub) : (s.setHub i v).page j = s.page j := rfl
@[simp] theorem queue_setHub (i j : Nat) (v : Hub) : (s.setHub i v).queue j = s.queue j := rfl
@[simp] theorem job_setHub (i j : Nat) (v : Hub) : (s.setHub i v).job j = s.job j := rfl
@[simp] theorem slice_setHub (i j : Nat) (v : Hub) : (s.setHub i v).slice j = s.slice j := rfl
@[simp] theorem ctx_setHub (i j : Nat) (v : Hub) : (s.setHub i v).ctx j = s.ctx j := rfl
@[simp] theorem graph_setHub (i j : Nat) (v : Hub) : (s.setHub i v).graph j = s.graph j := rfl
@[simp] theorem waiter_setHub (i j : Nat) (v : Hub) : (s.setHub i v).waiter j = s.waiter j := rfl
@[simp] theorem line_setHub (i j : Nat) (v : Hub) : (s.setHub i v).line j = s.line j := rfl
@[simp] theorem barrier_setHub (i j : Nat) (v : Hub) : (s.setHub i v).barrier j = s.barrier j := rfl
@[simp] theorem lane_setHub (i j : Nat) (v : Hub) : (s.setHub i v).lane j = s.lane j := rfl
@[simp] theorem ep_setHub (i j : Nat) (v : Hub) : (s.setHub i v).ep j = s.ep j := rfl
@[simp] theorem chan_setHub (i j : Nat) (v : Hub) : (s.setHub i v).chan j = s.chan j := rfl
@[simp] theorem fan_setHub (i j : Nat) (v : Hub) : (s.setHub i v).fan j = s.fan j := rfl
@[simp] theorem part_setHub (i j : Nat) (v : Hub) : (s.setHub i v).part j = s.part j := rfl
@[simp] theorem slot_setHub (i j : Nat) (v : Hub) : (s.setHub i v).slot j = s.slot j := rfl
@[simp] theorem pending_setHub (i : Nat) (v : Hub) : (s.setHub i v).pending = s.pending := rfl
@[simp] theorem timebase_setHub (i : Nat) (v : Hub) : (s.setHub i v).timebase = s.timebase := rfl
@[simp] theorem freeCtr_setHub (i : Nat) (v : Hub) : (s.setHub i v).freeCtr = s.freeCtr := rfl
@[simp] theorem out_setHub (i : Nat) (v : Hub) : (s.setHub i v).out = s.out := rfl
@[simp] theorem badLines_setHub (i : Nat) (v : Hub) : (s.setHub i v).badLines = s.badLines := rfl
@[simp] theorem pins_setHub (i : Nat) (v : Hub) : (s.setHub i v).pins = s.pins := rfl
@[simp] theorem bsn_setHub (i : Nat) (v : Hub) : (s.setHub i v).bsn = s.bsn := rfl
@[simp] theorem sel_setHub (i : Nat) (v : Hub) : (s.setHub i v).sel = s.sel := rfl
@[simp] theorem idIrqTarget_setHub (i : Nat) (v : Hub) : (s.setHub i v).idIrqTarget = s.idIrqTarget := rfl
@[simp] theorem ntfTargets_setHub (i : Nat) (v : Hub) : (s.setHub i v).ntfTargets = s.ntfTargets := rfl
@[simp] theorem ntfQueue_setHub (i : Nat) (v : Hub) : (s.setHub i v).ntfQueue = s.ntfQueue := rfl
@[simp] theorem loads_setHub (i : Nat) (v : Hub) : (s.setHub i v).loads = s.loads := rfl
@[simp] theorem zeroing_setHub (i : Nat) (v : Hub) : (s.setHub i v).zeroing = s.zeroing := rfl
@[simp] theorem slotWait_setHub (i : Nat) (v : Hub) : (s.setHub i v).slotWait = s.slotWait := rfl
@[simp] theorem blockWait_setHub (i : Nat) (v : Hub) : (s.setHub i v).blockWait = s.blockWait := rfl
@[simp] theorem wsh_setHub (i : Nat) (v : Hub) : (s.setHub i v).wsh = s.wsh := rfl
@[simp] theorem ntc_setHub (i : Nat) (v : Hub) : (s.setHub i v).ntc = s.ntc := rfl
@[simp] theorem vld_setHub (i : Nat) (v : Hub) : (s.setHub i v).vld = s.vld := rfl
@[simp] theorem loe_setHub (i : Nat) (v : Hub) : (s.setHub i v).loe = s.loe := rfl
@[simp] theorem swb_setHub (i : Nat) (v : Hub) : (s.setHub i v).swb = s.swb := rfl
@[simp] theorem per_setHub (i : Nat) (v : Hub) : (s.setHub i v).per = s.per := rfl
@[simp] theorem mgt_setHub (i : Nat) (v : Hub) : (s.setHub i v).mgt = s.mgt := rfl
@[simp] theorem dbg_setHub (i : Nat) (v : Hub) : (s.setHub i v).dbg = s.dbg := rfl
@[simp] theorem dl_setHub (i : Nat) (v : Hub) : (s.setHub i v).dl = s.dl := rfl
@[simp] theorem flights_setHub (i : Nat) (v : Hub) : (s.setHub i v).flights = s.flights := rfl
@[simp] theorem capTab_setHub (i : Nat) (v : Hub) : (s.setHub i v).capTab = s.capTab := rfl
@[simp] theorem calls_setHub (i : Nat) (v : Hub) : (s.setHub i v).calls = s.calls := rfl
@[simp] theorem patchLine_setHub (i : Nat) (v : Hub) : (s.setHub i v).patchLine = s.patchLine := rfl
@[simp] theorem captbl_setHub (i : Nat) (v : Hub) : (s.setHub i v).captbl = s.captbl := rfl
@[simp] theorem captblGen_setHub (i : Nat) (v : Hub) : (s.setHub i v).captblGen = s.captblGen := rfl
@[simp] theorem allocWait_setHub (i : Nat) (v : Hub) : (s.setHub i v).allocWait = s.allocWait := rfl
@[simp] theorem freeWait_setHub (i : Nat) (v : Hub) : (s.setHub i v).freeWait = s.freeWait := rfl
@[simp] theorem withheld_setHub (i : Nat) (v : Hub) : (s.setHub i v).withheld = s.withheld := rfl
@[simp] theorem limits_setHub (i : Nat) (v : Hub) : (s.setHub i v).limits = s.limits := rfl
@[simp] theorem ctxs_setHub (i : Nat) (v : Hub) : (s.setHub i v).ctxs = s.ctxs := rfl
@[simp] theorem parts_setHub (i : Nat) (v : Hub) : (s.setHub i v).parts = s.parts := rfl
@[simp] theorem chans_setHub (i : Nat) (v : Hub) : (s.setHub i v).chans = s.chans := rfl
@[simp] theorem jobs_setHub (i : Nat) (v : Hub) : (s.setHub i v).jobs = s.jobs := rfl
@[simp] theorem queues_setHub (i : Nat) (v : Hub) : (s.setHub i v).queues = s.queues := rfl
@[simp] theorem eps_setHub (i : Nat) (v : Hub) : (s.setHub i v).eps = s.eps := rfl
@[simp] theorem lanes_setHub (i : Nat) (v : Hub) : (s.setHub i v).lanes = s.lanes := rfl

/-! ## setChan -/

@[simp] theorem chan_setChan (i j : Nat) (v : Channel) : (s.setChan i v).chan j = if j = i then v else s.chan j := by
  unfold State.setChan State.chan; exact tget_tset ..
@[simp] theorem page_setChan (i j : Nat) (v : Channel) : (s.setChan i v).page j = s.page j := rfl
@[simp] theorem queue_setChan (i j : Nat) (v : Channel) : (s.setChan i v).queue j = s.queue j := rfl
@[simp] theorem job_setChan (i j : Nat) (v : Channel) : (s.setChan i v).job j = s.job j := rfl
@[simp] theorem slice_setChan (i j : Nat) (v : Channel) : (s.setChan i v).slice j = s.slice j := rfl
@[simp] theorem ctx_setChan (i j : Nat) (v : Channel) : (s.setChan i v).ctx j = s.ctx j := rfl
@[simp] theorem graph_setChan (i j : Nat) (v : Channel) : (s.setChan i v).graph j = s.graph j := rfl
@[simp] theorem waiter_setChan (i j : Nat) (v : Channel) : (s.setChan i v).waiter j = s.waiter j := rfl
@[simp] theorem line_setChan (i j : Nat) (v : Channel) : (s.setChan i v).line j = s.line j := rfl
@[simp] theorem barrier_setChan (i j : Nat) (v : Channel) : (s.setChan i v).barrier j = s.barrier j := rfl
@[simp] theorem lane_setChan (i j : Nat) (v : Channel) : (s.setChan i v).lane j = s.lane j := rfl
@[simp] theorem ep_setChan (i j : Nat) (v : Channel) : (s.setChan i v).ep j = s.ep j := rfl
@[simp] theorem hub_setChan (i j : Nat) (v : Channel) : (s.setChan i v).hub j = s.hub j := rfl
@[simp] theorem fan_setChan (i j : Nat) (v : Channel) : (s.setChan i v).fan j = s.fan j := rfl
@[simp] theorem part_setChan (i j : Nat) (v : Channel) : (s.setChan i v).part j = s.part j := rfl
@[simp] theorem slot_setChan (i j : Nat) (v : Channel) : (s.setChan i v).slot j = s.slot j := rfl
@[simp] theorem pending_setChan (i : Nat) (v : Channel) : (s.setChan i v).pending = s.pending := rfl
@[simp] theorem timebase_setChan (i : Nat) (v : Channel) : (s.setChan i v).timebase = s.timebase := rfl
@[simp] theorem freeCtr_setChan (i : Nat) (v : Channel) : (s.setChan i v).freeCtr = s.freeCtr := rfl
@[simp] theorem out_setChan (i : Nat) (v : Channel) : (s.setChan i v).out = s.out := rfl
@[simp] theorem badLines_setChan (i : Nat) (v : Channel) : (s.setChan i v).badLines = s.badLines := rfl
@[simp] theorem pins_setChan (i : Nat) (v : Channel) : (s.setChan i v).pins = s.pins := rfl
@[simp] theorem bsn_setChan (i : Nat) (v : Channel) : (s.setChan i v).bsn = s.bsn := rfl
@[simp] theorem sel_setChan (i : Nat) (v : Channel) : (s.setChan i v).sel = s.sel := rfl
@[simp] theorem idIrqTarget_setChan (i : Nat) (v : Channel) : (s.setChan i v).idIrqTarget = s.idIrqTarget := rfl
@[simp] theorem ntfTargets_setChan (i : Nat) (v : Channel) : (s.setChan i v).ntfTargets = s.ntfTargets := rfl
@[simp] theorem ntfQueue_setChan (i : Nat) (v : Channel) : (s.setChan i v).ntfQueue = s.ntfQueue := rfl
@[simp] theorem loads_setChan (i : Nat) (v : Channel) : (s.setChan i v).loads = s.loads := rfl
@[simp] theorem zeroing_setChan (i : Nat) (v : Channel) : (s.setChan i v).zeroing = s.zeroing := rfl
@[simp] theorem slotWait_setChan (i : Nat) (v : Channel) : (s.setChan i v).slotWait = s.slotWait := rfl
@[simp] theorem blockWait_setChan (i : Nat) (v : Channel) : (s.setChan i v).blockWait = s.blockWait := rfl
@[simp] theorem wsh_setChan (i : Nat) (v : Channel) : (s.setChan i v).wsh = s.wsh := rfl
@[simp] theorem ntc_setChan (i : Nat) (v : Channel) : (s.setChan i v).ntc = s.ntc := rfl
@[simp] theorem vld_setChan (i : Nat) (v : Channel) : (s.setChan i v).vld = s.vld := rfl
@[simp] theorem loe_setChan (i : Nat) (v : Channel) : (s.setChan i v).loe = s.loe := rfl
@[simp] theorem swb_setChan (i : Nat) (v : Channel) : (s.setChan i v).swb = s.swb := rfl
@[simp] theorem per_setChan (i : Nat) (v : Channel) : (s.setChan i v).per = s.per := rfl
@[simp] theorem mgt_setChan (i : Nat) (v : Channel) : (s.setChan i v).mgt = s.mgt := rfl
@[simp] theorem dbg_setChan (i : Nat) (v : Channel) : (s.setChan i v).dbg = s.dbg := rfl
@[simp] theorem dl_setChan (i : Nat) (v : Channel) : (s.setChan i v).dl = s.dl := rfl
@[simp] theorem flights_setChan (i : Nat) (v : Channel) : (s.setChan i v).flights = s.flights := rfl
@[simp] theorem capTab_setChan (i : Nat) (v : Channel) : (s.setChan i v).capTab = s.capTab := rfl
@[simp] theorem calls_setChan (i : Nat) (v : Channel) : (s.setChan i v).calls = s.calls := rfl
@[simp] theorem patchLine_setChan (i : Nat) (v : Channel) : (s.setChan i v).patchLine = s.patchLine := rfl
@[simp] theorem captbl_setChan (i : Nat) (v : Channel) : (s.setChan i v).captbl = s.captbl := rfl
@[simp] theorem captblGen_setChan (i : Nat) (v : Channel) : (s.setChan i v).captblGen = s.captblGen := rfl
@[simp] theorem allocWait_setChan (i : Nat) (v : Channel) : (s.setChan i v).allocWait = s.allocWait := rfl
@[simp] theorem freeWait_setChan (i : Nat) (v : Channel) : (s.setChan i v).freeWait = s.freeWait := rfl
@[simp] theorem withheld_setChan (i : Nat) (v : Channel) : (s.setChan i v).withheld = s.withheld := rfl
@[simp] theorem limits_setChan (i : Nat) (v : Channel) : (s.setChan i v).limits = s.limits := rfl
@[simp] theorem ctxs_setChan (i : Nat) (v : Channel) : (s.setChan i v).ctxs = s.ctxs := rfl
@[simp] theorem parts_setChan (i : Nat) (v : Channel) : (s.setChan i v).parts = s.parts := rfl
@[simp] theorem jobs_setChan (i : Nat) (v : Channel) : (s.setChan i v).jobs = s.jobs := rfl
@[simp] theorem queues_setChan (i : Nat) (v : Channel) : (s.setChan i v).queues = s.queues := rfl
@[simp] theorem eps_setChan (i : Nat) (v : Channel) : (s.setChan i v).eps = s.eps := rfl
@[simp] theorem lanes_setChan (i : Nat) (v : Channel) : (s.setChan i v).lanes = s.lanes := rfl

/-! ## setFan -/

@[simp] theorem fan_setFan (i j : Nat) (v : Fan) : (s.setFan i v).fan j = if j = i then v else s.fan j := by
  unfold State.setFan State.fan; exact tget_tset ..
@[simp] theorem page_setFan (i j : Nat) (v : Fan) : (s.setFan i v).page j = s.page j := rfl
@[simp] theorem queue_setFan (i j : Nat) (v : Fan) : (s.setFan i v).queue j = s.queue j := rfl
@[simp] theorem job_setFan (i j : Nat) (v : Fan) : (s.setFan i v).job j = s.job j := rfl
@[simp] theorem slice_setFan (i j : Nat) (v : Fan) : (s.setFan i v).slice j = s.slice j := rfl
@[simp] theorem ctx_setFan (i j : Nat) (v : Fan) : (s.setFan i v).ctx j = s.ctx j := rfl
@[simp] theorem graph_setFan (i j : Nat) (v : Fan) : (s.setFan i v).graph j = s.graph j := rfl
@[simp] theorem waiter_setFan (i j : Nat) (v : Fan) : (s.setFan i v).waiter j = s.waiter j := rfl
@[simp] theorem line_setFan (i j : Nat) (v : Fan) : (s.setFan i v).line j = s.line j := rfl
@[simp] theorem barrier_setFan (i j : Nat) (v : Fan) : (s.setFan i v).barrier j = s.barrier j := rfl
@[simp] theorem lane_setFan (i j : Nat) (v : Fan) : (s.setFan i v).lane j = s.lane j := rfl
@[simp] theorem ep_setFan (i j : Nat) (v : Fan) : (s.setFan i v).ep j = s.ep j := rfl
@[simp] theorem hub_setFan (i j : Nat) (v : Fan) : (s.setFan i v).hub j = s.hub j := rfl
@[simp] theorem chan_setFan (i j : Nat) (v : Fan) : (s.setFan i v).chan j = s.chan j := rfl
@[simp] theorem part_setFan (i j : Nat) (v : Fan) : (s.setFan i v).part j = s.part j := rfl
@[simp] theorem slot_setFan (i j : Nat) (v : Fan) : (s.setFan i v).slot j = s.slot j := rfl
@[simp] theorem pending_setFan (i : Nat) (v : Fan) : (s.setFan i v).pending = s.pending := rfl
@[simp] theorem timebase_setFan (i : Nat) (v : Fan) : (s.setFan i v).timebase = s.timebase := rfl
@[simp] theorem freeCtr_setFan (i : Nat) (v : Fan) : (s.setFan i v).freeCtr = s.freeCtr := rfl
@[simp] theorem out_setFan (i : Nat) (v : Fan) : (s.setFan i v).out = s.out := rfl
@[simp] theorem badLines_setFan (i : Nat) (v : Fan) : (s.setFan i v).badLines = s.badLines := rfl
@[simp] theorem pins_setFan (i : Nat) (v : Fan) : (s.setFan i v).pins = s.pins := rfl
@[simp] theorem bsn_setFan (i : Nat) (v : Fan) : (s.setFan i v).bsn = s.bsn := rfl
@[simp] theorem sel_setFan (i : Nat) (v : Fan) : (s.setFan i v).sel = s.sel := rfl
@[simp] theorem idIrqTarget_setFan (i : Nat) (v : Fan) : (s.setFan i v).idIrqTarget = s.idIrqTarget := rfl
@[simp] theorem ntfTargets_setFan (i : Nat) (v : Fan) : (s.setFan i v).ntfTargets = s.ntfTargets := rfl
@[simp] theorem ntfQueue_setFan (i : Nat) (v : Fan) : (s.setFan i v).ntfQueue = s.ntfQueue := rfl
@[simp] theorem loads_setFan (i : Nat) (v : Fan) : (s.setFan i v).loads = s.loads := rfl
@[simp] theorem zeroing_setFan (i : Nat) (v : Fan) : (s.setFan i v).zeroing = s.zeroing := rfl
@[simp] theorem slotWait_setFan (i : Nat) (v : Fan) : (s.setFan i v).slotWait = s.slotWait := rfl
@[simp] theorem blockWait_setFan (i : Nat) (v : Fan) : (s.setFan i v).blockWait = s.blockWait := rfl
@[simp] theorem wsh_setFan (i : Nat) (v : Fan) : (s.setFan i v).wsh = s.wsh := rfl
@[simp] theorem ntc_setFan (i : Nat) (v : Fan) : (s.setFan i v).ntc = s.ntc := rfl
@[simp] theorem vld_setFan (i : Nat) (v : Fan) : (s.setFan i v).vld = s.vld := rfl
@[simp] theorem loe_setFan (i : Nat) (v : Fan) : (s.setFan i v).loe = s.loe := rfl
@[simp] theorem swb_setFan (i : Nat) (v : Fan) : (s.setFan i v).swb = s.swb := rfl
@[simp] theorem per_setFan (i : Nat) (v : Fan) : (s.setFan i v).per = s.per := rfl
@[simp] theorem mgt_setFan (i : Nat) (v : Fan) : (s.setFan i v).mgt = s.mgt := rfl
@[simp] theorem dbg_setFan (i : Nat) (v : Fan) : (s.setFan i v).dbg = s.dbg := rfl
@[simp] theorem dl_setFan (i : Nat) (v : Fan) : (s.setFan i v).dl = s.dl := rfl
@[simp] theorem flights_setFan (i : Nat) (v : Fan) : (s.setFan i v).flights = s.flights := rfl
@[simp] theorem capTab_setFan (i : Nat) (v : Fan) : (s.setFan i v).capTab = s.capTab := rfl
@[simp] theorem calls_setFan (i : Nat) (v : Fan) : (s.setFan i v).calls = s.calls := rfl
@[simp] theorem patchLine_setFan (i : Nat) (v : Fan) : (s.setFan i v).patchLine = s.patchLine := rfl
@[simp] theorem captbl_setFan (i : Nat) (v : Fan) : (s.setFan i v).captbl = s.captbl := rfl
@[simp] theorem captblGen_setFan (i : Nat) (v : Fan) : (s.setFan i v).captblGen = s.captblGen := rfl
@[simp] theorem allocWait_setFan (i : Nat) (v : Fan) : (s.setFan i v).allocWait = s.allocWait := rfl
@[simp] theorem freeWait_setFan (i : Nat) (v : Fan) : (s.setFan i v).freeWait = s.freeWait := rfl
@[simp] theorem withheld_setFan (i : Nat) (v : Fan) : (s.setFan i v).withheld = s.withheld := rfl
@[simp] theorem limits_setFan (i : Nat) (v : Fan) : (s.setFan i v).limits = s.limits := rfl
@[simp] theorem ctxs_setFan (i : Nat) (v : Fan) : (s.setFan i v).ctxs = s.ctxs := rfl
@[simp] theorem parts_setFan (i : Nat) (v : Fan) : (s.setFan i v).parts = s.parts := rfl
@[simp] theorem chans_setFan (i : Nat) (v : Fan) : (s.setFan i v).chans = s.chans := rfl
@[simp] theorem jobs_setFan (i : Nat) (v : Fan) : (s.setFan i v).jobs = s.jobs := rfl
@[simp] theorem queues_setFan (i : Nat) (v : Fan) : (s.setFan i v).queues = s.queues := rfl
@[simp] theorem eps_setFan (i : Nat) (v : Fan) : (s.setFan i v).eps = s.eps := rfl
@[simp] theorem lanes_setFan (i : Nat) (v : Fan) : (s.setFan i v).lanes = s.lanes := rfl

/-! ## setPart -/

@[simp] theorem part_setPart (i j : Nat) (v : Part) : (s.setPart i v).part j = if j = i then v else s.part j := by
  unfold State.setPart State.part; exact tget_tset ..
@[simp] theorem page_setPart (i j : Nat) (v : Part) : (s.setPart i v).page j = s.page j := rfl
@[simp] theorem queue_setPart (i j : Nat) (v : Part) : (s.setPart i v).queue j = s.queue j := rfl
@[simp] theorem job_setPart (i j : Nat) (v : Part) : (s.setPart i v).job j = s.job j := rfl
@[simp] theorem slice_setPart (i j : Nat) (v : Part) : (s.setPart i v).slice j = s.slice j := rfl
@[simp] theorem ctx_setPart (i j : Nat) (v : Part) : (s.setPart i v).ctx j = s.ctx j := rfl
@[simp] theorem graph_setPart (i j : Nat) (v : Part) : (s.setPart i v).graph j = s.graph j := rfl
@[simp] theorem waiter_setPart (i j : Nat) (v : Part) : (s.setPart i v).waiter j = s.waiter j := rfl
@[simp] theorem line_setPart (i j : Nat) (v : Part) : (s.setPart i v).line j = s.line j := rfl
@[simp] theorem barrier_setPart (i j : Nat) (v : Part) : (s.setPart i v).barrier j = s.barrier j := rfl
@[simp] theorem lane_setPart (i j : Nat) (v : Part) : (s.setPart i v).lane j = s.lane j := rfl
@[simp] theorem ep_setPart (i j : Nat) (v : Part) : (s.setPart i v).ep j = s.ep j := rfl
@[simp] theorem hub_setPart (i j : Nat) (v : Part) : (s.setPart i v).hub j = s.hub j := rfl
@[simp] theorem chan_setPart (i j : Nat) (v : Part) : (s.setPart i v).chan j = s.chan j := rfl
@[simp] theorem fan_setPart (i j : Nat) (v : Part) : (s.setPart i v).fan j = s.fan j := rfl
@[simp] theorem slot_setPart (i j : Nat) (v : Part) : (s.setPart i v).slot j = s.slot j := rfl
@[simp] theorem pending_setPart (i : Nat) (v : Part) : (s.setPart i v).pending = s.pending := rfl
@[simp] theorem timebase_setPart (i : Nat) (v : Part) : (s.setPart i v).timebase = s.timebase := rfl
@[simp] theorem freeCtr_setPart (i : Nat) (v : Part) : (s.setPart i v).freeCtr = s.freeCtr := rfl
@[simp] theorem out_setPart (i : Nat) (v : Part) : (s.setPart i v).out = s.out := rfl
@[simp] theorem badLines_setPart (i : Nat) (v : Part) : (s.setPart i v).badLines = s.badLines := rfl
@[simp] theorem pins_setPart (i : Nat) (v : Part) : (s.setPart i v).pins = s.pins := rfl
@[simp] theorem bsn_setPart (i : Nat) (v : Part) : (s.setPart i v).bsn = s.bsn := rfl
@[simp] theorem sel_setPart (i : Nat) (v : Part) : (s.setPart i v).sel = s.sel := rfl
@[simp] theorem idIrqTarget_setPart (i : Nat) (v : Part) : (s.setPart i v).idIrqTarget = s.idIrqTarget := rfl
@[simp] theorem ntfTargets_setPart (i : Nat) (v : Part) : (s.setPart i v).ntfTargets = s.ntfTargets := rfl
@[simp] theorem ntfQueue_setPart (i : Nat) (v : Part) : (s.setPart i v).ntfQueue = s.ntfQueue := rfl
@[simp] theorem loads_setPart (i : Nat) (v : Part) : (s.setPart i v).loads = s.loads := rfl
@[simp] theorem zeroing_setPart (i : Nat) (v : Part) : (s.setPart i v).zeroing = s.zeroing := rfl
@[simp] theorem slotWait_setPart (i : Nat) (v : Part) : (s.setPart i v).slotWait = s.slotWait := rfl
@[simp] theorem blockWait_setPart (i : Nat) (v : Part) : (s.setPart i v).blockWait = s.blockWait := rfl
@[simp] theorem wsh_setPart (i : Nat) (v : Part) : (s.setPart i v).wsh = s.wsh := rfl
@[simp] theorem ntc_setPart (i : Nat) (v : Part) : (s.setPart i v).ntc = s.ntc := rfl
@[simp] theorem vld_setPart (i : Nat) (v : Part) : (s.setPart i v).vld = s.vld := rfl
@[simp] theorem loe_setPart (i : Nat) (v : Part) : (s.setPart i v).loe = s.loe := rfl
@[simp] theorem swb_setPart (i : Nat) (v : Part) : (s.setPart i v).swb = s.swb := rfl
@[simp] theorem per_setPart (i : Nat) (v : Part) : (s.setPart i v).per = s.per := rfl
@[simp] theorem mgt_setPart (i : Nat) (v : Part) : (s.setPart i v).mgt = s.mgt := rfl
@[simp] theorem dbg_setPart (i : Nat) (v : Part) : (s.setPart i v).dbg = s.dbg := rfl
@[simp] theorem dl_setPart (i : Nat) (v : Part) : (s.setPart i v).dl = s.dl := rfl
@[simp] theorem flights_setPart (i : Nat) (v : Part) : (s.setPart i v).flights = s.flights := rfl
@[simp] theorem capTab_setPart (i : Nat) (v : Part) : (s.setPart i v).capTab = s.capTab := rfl
@[simp] theorem calls_setPart (i : Nat) (v : Part) : (s.setPart i v).calls = s.calls := rfl
@[simp] theorem patchLine_setPart (i : Nat) (v : Part) : (s.setPart i v).patchLine = s.patchLine := rfl
@[simp] theorem captbl_setPart (i : Nat) (v : Part) : (s.setPart i v).captbl = s.captbl := rfl
@[simp] theorem captblGen_setPart (i : Nat) (v : Part) : (s.setPart i v).captblGen = s.captblGen := rfl
@[simp] theorem allocWait_setPart (i : Nat) (v : Part) : (s.setPart i v).allocWait = s.allocWait := rfl
@[simp] theorem freeWait_setPart (i : Nat) (v : Part) : (s.setPart i v).freeWait = s.freeWait := rfl
@[simp] theorem withheld_setPart (i : Nat) (v : Part) : (s.setPart i v).withheld = s.withheld := rfl
@[simp] theorem limits_setPart (i : Nat) (v : Part) : (s.setPart i v).limits = s.limits := rfl
@[simp] theorem ctxs_setPart (i : Nat) (v : Part) : (s.setPart i v).ctxs = s.ctxs := rfl
@[simp] theorem chans_setPart (i : Nat) (v : Part) : (s.setPart i v).chans = s.chans := rfl
@[simp] theorem jobs_setPart (i : Nat) (v : Part) : (s.setPart i v).jobs = s.jobs := rfl
@[simp] theorem queues_setPart (i : Nat) (v : Part) : (s.setPart i v).queues = s.queues := rfl
@[simp] theorem eps_setPart (i : Nat) (v : Part) : (s.setPart i v).eps = s.eps := rfl
@[simp] theorem lanes_setPart (i : Nat) (v : Part) : (s.setPart i v).lanes = s.lanes := rfl

/-! ## setSlot -/

@[simp] theorem slot_setSlot (i j : Nat) (v : KeySlot) : (s.setSlot i v).slot j = if j = i then v else s.slot j := by
  unfold State.setSlot State.slot; exact tget_tset ..
@[simp] theorem page_setSlot (i j : Nat) (v : KeySlot) : (s.setSlot i v).page j = s.page j := rfl
@[simp] theorem queue_setSlot (i j : Nat) (v : KeySlot) : (s.setSlot i v).queue j = s.queue j := rfl
@[simp] theorem job_setSlot (i j : Nat) (v : KeySlot) : (s.setSlot i v).job j = s.job j := rfl
@[simp] theorem slice_setSlot (i j : Nat) (v : KeySlot) : (s.setSlot i v).slice j = s.slice j := rfl
@[simp] theorem ctx_setSlot (i j : Nat) (v : KeySlot) : (s.setSlot i v).ctx j = s.ctx j := rfl
@[simp] theorem graph_setSlot (i j : Nat) (v : KeySlot) : (s.setSlot i v).graph j = s.graph j := rfl
@[simp] theorem waiter_setSlot (i j : Nat) (v : KeySlot) : (s.setSlot i v).waiter j = s.waiter j := rfl
@[simp] theorem line_setSlot (i j : Nat) (v : KeySlot) : (s.setSlot i v).line j = s.line j := rfl
@[simp] theorem barrier_setSlot (i j : Nat) (v : KeySlot) : (s.setSlot i v).barrier j = s.barrier j := rfl
@[simp] theorem lane_setSlot (i j : Nat) (v : KeySlot) : (s.setSlot i v).lane j = s.lane j := rfl
@[simp] theorem ep_setSlot (i j : Nat) (v : KeySlot) : (s.setSlot i v).ep j = s.ep j := rfl
@[simp] theorem hub_setSlot (i j : Nat) (v : KeySlot) : (s.setSlot i v).hub j = s.hub j := rfl
@[simp] theorem chan_setSlot (i j : Nat) (v : KeySlot) : (s.setSlot i v).chan j = s.chan j := rfl
@[simp] theorem fan_setSlot (i j : Nat) (v : KeySlot) : (s.setSlot i v).fan j = s.fan j := rfl
@[simp] theorem part_setSlot (i j : Nat) (v : KeySlot) : (s.setSlot i v).part j = s.part j := rfl
@[simp] theorem pending_setSlot (i : Nat) (v : KeySlot) : (s.setSlot i v).pending = s.pending := rfl
@[simp] theorem timebase_setSlot (i : Nat) (v : KeySlot) : (s.setSlot i v).timebase = s.timebase := rfl
@[simp] theorem freeCtr_setSlot (i : Nat) (v : KeySlot) : (s.setSlot i v).freeCtr = s.freeCtr := rfl
@[simp] theorem out_setSlot (i : Nat) (v : KeySlot) : (s.setSlot i v).out = s.out := rfl
@[simp] theorem badLines_setSlot (i : Nat) (v : KeySlot) : (s.setSlot i v).badLines = s.badLines := rfl
@[simp] theorem pins_setSlot (i : Nat) (v : KeySlot) : (s.setSlot i v).pins = s.pins := rfl
@[simp] theorem bsn_setSlot (i : Nat) (v : KeySlot) : (s.setSlot i v).bsn = s.bsn := rfl
@[simp] theorem sel_setSlot (i : Nat) (v : KeySlot) : (s.setSlot i v).sel = s.sel := rfl
@[simp] theorem idIrqTarget_setSlot (i : Nat) (v : KeySlot) : (s.setSlot i v).idIrqTarget = s.idIrqTarget := rfl
@[simp] theorem ntfTargets_setSlot (i : Nat) (v : KeySlot) : (s.setSlot i v).ntfTargets = s.ntfTargets := rfl
@[simp] theorem ntfQueue_setSlot (i : Nat) (v : KeySlot) : (s.setSlot i v).ntfQueue = s.ntfQueue := rfl
@[simp] theorem loads_setSlot (i : Nat) (v : KeySlot) : (s.setSlot i v).loads = s.loads := rfl
@[simp] theorem zeroing_setSlot (i : Nat) (v : KeySlot) : (s.setSlot i v).zeroing = s.zeroing := rfl
@[simp] theorem slotWait_setSlot (i : Nat) (v : KeySlot) : (s.setSlot i v).slotWait = s.slotWait := rfl
@[simp] theorem blockWait_setSlot (i : Nat) (v : KeySlot) : (s.setSlot i v).blockWait = s.blockWait := rfl
@[simp] theorem wsh_setSlot (i : Nat) (v : KeySlot) : (s.setSlot i v).wsh = s.wsh := rfl
@[simp] theorem vld_setSlot (i : Nat) (v : KeySlot) : (s.setSlot i v).vld = s.vld := rfl
@[simp] theorem loe_setSlot (i : Nat) (v : KeySlot) : (s.setSlot i v).loe = s.loe := rfl
@[simp] theorem swb_setSlot (i : Nat) (v : KeySlot) : (s.setSlot i v).swb = s.swb := rfl
@[simp] theorem per_setSlot (i : Nat) (v : KeySlot) : (s.setSlot i v).per = s.per := rfl
@[simp] theorem mgt_setSlot (i : Nat) (v : KeySlot) : (s.setSlot i v).mgt = s.mgt := rfl
@[simp] theorem dbg_setSlot (i : Nat) (v : KeySlot) : (s.setSlot i v).dbg = s.dbg := rfl
@[simp] theorem dl_setSlot (i : Nat) (v : KeySlot) : (s.setSlot i v).dl = s.dl := rfl
@[simp] theorem flights_setSlot (i : Nat) (v : KeySlot) : (s.setSlot i v).flights = s.flights := rfl
@[simp] theorem capTab_setSlot (i : Nat) (v : KeySlot) : (s.setSlot i v).capTab = s.capTab := rfl
@[simp] theorem calls_setSlot (i : Nat) (v : KeySlot) : (s.setSlot i v).calls = s.calls := rfl
@[simp] theorem patchLine_setSlot (i : Nat) (v : KeySlot) : (s.setSlot i v).patchLine = s.patchLine := rfl
@[simp] theorem captbl_setSlot (i : Nat) (v : KeySlot) : (s.setSlot i v).captbl = s.captbl := rfl
@[simp] theorem captblGen_setSlot (i : Nat) (v : KeySlot) : (s.setSlot i v).captblGen = s.captblGen := rfl
@[simp] theorem allocWait_setSlot (i : Nat) (v : KeySlot) : (s.setSlot i v).allocWait = s.allocWait := rfl
@[simp] theorem freeWait_setSlot (i : Nat) (v : KeySlot) : (s.setSlot i v).freeWait = s.freeWait := rfl
@[simp] theorem withheld_setSlot (i : Nat) (v : KeySlot) : (s.setSlot i v).withheld = s.withheld := rfl
@[simp] theorem limits_setSlot (i : Nat) (v : KeySlot) : (s.setSlot i v).limits = s.limits := rfl
@[simp] theorem ctxs_setSlot (i : Nat) (v : KeySlot) : (s.setSlot i v).ctxs = s.ctxs := rfl
@[simp] theorem parts_setSlot (i : Nat) (v : KeySlot) : (s.setSlot i v).parts = s.parts := rfl
@[simp] theorem chans_setSlot (i : Nat) (v : KeySlot) : (s.setSlot i v).chans = s.chans := rfl
@[simp] theorem jobs_setSlot (i : Nat) (v : KeySlot) : (s.setSlot i v).jobs = s.jobs := rfl
@[simp] theorem queues_setSlot (i : Nat) (v : KeySlot) : (s.setSlot i v).queues = s.queues := rfl
@[simp] theorem eps_setSlot (i : Nat) (v : KeySlot) : (s.setSlot i v).eps = s.eps := rfl
@[simp] theorem lanes_setSlot (i : Nat) (v : KeySlot) : (s.setSlot i v).lanes = s.lanes := rfl

/-! ## emit -/

@[simp] theorem page_emit (j : Nat) (o : Out) : (emit s o).page j = s.page j := rfl
@[simp] theorem queue_emit (j : Nat) (o : Out) : (emit s o).queue j = s.queue j := rfl
@[simp] theorem job_emit (j : Nat) (o : Out) : (emit s o).job j = s.job j := rfl
@[simp] theorem slice_emit (j : Nat) (o : Out) : (emit s o).slice j = s.slice j := rfl
@[simp] theorem ctx_emit (j : Nat) (o : Out) : (emit s o).ctx j = s.ctx j := rfl
@[simp] theorem graph_emit (j : Nat) (o : Out) : (emit s o).graph j = s.graph j := rfl
@[simp] theorem waiter_emit (j : Nat) (o : Out) : (emit s o).waiter j = s.waiter j := rfl
@[simp] theorem line_emit (j : Nat) (o : Out) : (emit s o).line j = s.line j := rfl
@[simp] theorem barrier_emit (j : Nat) (o : Out) : (emit s o).barrier j = s.barrier j := rfl
@[simp] theorem lane_emit (j : Nat) (o : Out) : (emit s o).lane j = s.lane j := rfl
@[simp] theorem ep_emit (j : Nat) (o : Out) : (emit s o).ep j = s.ep j := rfl
@[simp] theorem hub_emit (j : Nat) (o : Out) : (emit s o).hub j = s.hub j := rfl
@[simp] theorem chan_emit (j : Nat) (o : Out) : (emit s o).chan j = s.chan j := rfl
@[simp] theorem fan_emit (j : Nat) (o : Out) : (emit s o).fan j = s.fan j := rfl
@[simp] theorem part_emit (j : Nat) (o : Out) : (emit s o).part j = s.part j := rfl
@[simp] theorem slot_emit (j : Nat) (o : Out) : (emit s o).slot j = s.slot j := rfl
@[simp] theorem pending_emit (o : Out) : (emit s o).pending = s.pending := rfl
@[simp] theorem timebase_emit (o : Out) : (emit s o).timebase = s.timebase := rfl
@[simp] theorem freeCtr_emit (o : Out) : (emit s o).freeCtr = s.freeCtr := rfl
@[simp] theorem badLines_emit (o : Out) : (emit s o).badLines = s.badLines := rfl
@[simp] theorem out_emit (o : Out) : (emit s o).out = s.out ++ [o] := rfl
@[simp] theorem pins_emit (o : Out) : (emit s o).pins = s.pins := rfl
@[simp] theorem bsn_emit (o : Out) : (emit s o).bsn = s.bsn := rfl
@[simp] theorem sel_emit (o : Out) : (emit s o).sel = s.sel := rfl
@[simp] theorem idIrqTarget_emit (o : Out) : (emit s o).idIrqTarget = s.idIrqTarget := rfl
@[simp] theorem ntfTargets_emit (o : Out) : (emit s o).ntfTargets = s.ntfTargets := rfl
@[simp] theorem ntfQueue_emit (o : Out) : (emit s o).ntfQueue = s.ntfQueue := rfl
@[simp] theorem loads_emit (o : Out) : (emit s o).loads = s.loads := rfl
@[simp] theorem zeroing_emit (o : Out) : (emit s o).zeroing = s.zeroing := rfl
@[simp] theorem slotWait_emit (o : Out) : (emit s o).slotWait = s.slotWait := rfl
@[simp] theorem blockWait_emit (o : Out) : (emit s o).blockWait = s.blockWait := rfl
@[simp] theorem wsh_emit (o : Out) : (emit s o).wsh = s.wsh := rfl
@[simp] theorem ntc_emit (o : Out) : (emit s o).ntc = s.ntc := rfl
@[simp] theorem vld_emit (o : Out) : (emit s o).vld = s.vld := rfl
@[simp] theorem loe_emit (o : Out) : (emit s o).loe = s.loe := rfl
@[simp] theorem swb_emit (o : Out) : (emit s o).swb = s.swb := rfl
@[simp] theorem per_emit (o : Out) : (emit s o).per = s.per := rfl
@[simp] theorem mgt_emit (o : Out) : (emit s o).mgt = s.mgt := rfl
@[simp] theorem dbg_emit (o : Out) : (emit s o).dbg = s.dbg := rfl
@[simp] theorem dl_emit (o : Out) : (emit s o).dl = s.dl := rfl
@[simp] theorem flights_emit (o : Out) : (emit s o).flights = s.flights := rfl
@[simp] theorem capTab_emit (o : Out) : (emit s o).capTab = s.capTab := rfl
@[simp] theorem calls_emit (o : Out) : (emit s o).calls = s.calls := rfl
@[simp] theorem patchLine_emit (o : Out) : (emit s o).patchLine = s.patchLine := rfl
@[simp] theorem captbl_emit (o : Out) : (emit s o).captbl = s.captbl := rfl
@[simp] theorem captblGen_emit (o : Out) : (emit s o).captblGen = s.captblGen := rfl
@[simp] theorem allocWait_emit (o : Out) : (emit s o).allocWait = s.allocWait := rfl
@[simp] theorem freeWait_emit (o : Out) : (emit s o).freeWait = s.freeWait := rfl
@[simp] theorem withheld_emit (o : Out) : (emit s o).withheld = s.withheld := rfl
@[simp] theorem limits_emit (o : Out) : (emit s o).limits = s.limits := rfl
@[simp] theorem ctxs_emit (o : Out) : (emit s o).ctxs = s.ctxs := rfl
@[simp] theorem parts_emit (o : Out) : (emit s o).parts = s.parts := rfl
@[simp] theorem chans_emit (o : Out) : (emit s o).chans = s.chans := rfl
@[simp] theorem jobs_emit (o : Out) : (emit s o).jobs = s.jobs := rfl
@[simp] theorem queues_emit (o : Out) : (emit s o).queues = s.queues := rfl
@[simp] theorem eps_emit (o : Out) : (emit s o).eps = s.eps := rfl
@[simp] theorem lanes_emit (o : Out) : (emit s o).lanes = s.lanes := rfl

/-! ## emits -/

@[simp] theorem page_emits (j : Nat) (o : List Out) : (emits s o).page j = s.page j := rfl
@[simp] theorem queue_emits (j : Nat) (o : List Out) : (emits s o).queue j = s.queue j := rfl
@[simp] theorem job_emits (j : Nat) (o : List Out) : (emits s o).job j = s.job j := rfl
@[simp] theorem slice_emits (j : Nat) (o : List Out) : (emits s o).slice j = s.slice j := rfl
@[simp] theorem ctx_emits (j : Nat) (o : List Out) : (emits s o).ctx j = s.ctx j := rfl
@[simp] theorem graph_emits (j : Nat) (o : List Out) : (emits s o).graph j = s.graph j := rfl
@[simp] theorem waiter_emits (j : Nat) (o : List Out) : (emits s o).waiter j = s.waiter j := rfl
@[simp] theorem line_emits (j : Nat) (o : List Out) : (emits s o).line j = s.line j := rfl
@[simp] theorem barrier_emits (j : Nat) (o : List Out) : (emits s o).barrier j = s.barrier j := rfl
@[simp] theorem lane_emits (j : Nat) (o : List Out) : (emits s o).lane j = s.lane j := rfl
@[simp] theorem ep_emits (j : Nat) (o : List Out) : (emits s o).ep j = s.ep j := rfl
@[simp] theorem hub_emits (j : Nat) (o : List Out) : (emits s o).hub j = s.hub j := rfl
@[simp] theorem chan_emits (j : Nat) (o : List Out) : (emits s o).chan j = s.chan j := rfl
@[simp] theorem fan_emits (j : Nat) (o : List Out) : (emits s o).fan j = s.fan j := rfl
@[simp] theorem part_emits (j : Nat) (o : List Out) : (emits s o).part j = s.part j := rfl
@[simp] theorem slot_emits (j : Nat) (o : List Out) : (emits s o).slot j = s.slot j := rfl
@[simp] theorem pending_emits (o : List Out) : (emits s o).pending = s.pending := rfl
@[simp] theorem timebase_emits (o : List Out) : (emits s o).timebase = s.timebase := rfl
@[simp] theorem freeCtr_emits (o : List Out) : (emits s o).freeCtr = s.freeCtr := rfl
@[simp] theorem badLines_emits (o : List Out) : (emits s o).badLines = s.badLines := rfl
@[simp] theorem out_emits (o : List Out) : (emits s o).out = s.out ++ o := rfl
@[simp] theorem pins_emits (o : List Out) : (emits s o).pins = s.pins := rfl
@[simp] theorem bsn_emits (o : List Out) : (emits s o).bsn = s.bsn := rfl
@[simp] theorem sel_emits (o : List Out) : (emits s o).sel = s.sel := rfl
@[simp] theorem idIrqTarget_emits (o : List Out) : (emits s o).idIrqTarget = s.idIrqTarget := rfl
@[simp] theorem ntfTargets_emits (o : List Out) : (emits s o).ntfTargets = s.ntfTargets := rfl
@[simp] theorem ntfQueue_emits (o : List Out) : (emits s o).ntfQueue = s.ntfQueue := rfl
@[simp] theorem loads_emits (o : List Out) : (emits s o).loads = s.loads := rfl
@[simp] theorem zeroing_emits (o : List Out) : (emits s o).zeroing = s.zeroing := rfl
@[simp] theorem slotWait_emits (o : List Out) : (emits s o).slotWait = s.slotWait := rfl
@[simp] theorem blockWait_emits (o : List Out) : (emits s o).blockWait = s.blockWait := rfl
@[simp] theorem wsh_emits (o : List Out) : (emits s o).wsh = s.wsh := rfl
@[simp] theorem ntc_emits (o : List Out) : (emits s o).ntc = s.ntc := rfl
@[simp] theorem vld_emits (o : List Out) : (emits s o).vld = s.vld := rfl
@[simp] theorem loe_emits (o : List Out) : (emits s o).loe = s.loe := rfl
@[simp] theorem swb_emits (o : List Out) : (emits s o).swb = s.swb := rfl
@[simp] theorem per_emits (o : List Out) : (emits s o).per = s.per := rfl
@[simp] theorem mgt_emits (o : List Out) : (emits s o).mgt = s.mgt := rfl
@[simp] theorem dbg_emits (o : List Out) : (emits s o).dbg = s.dbg := rfl
@[simp] theorem dl_emits (o : List Out) : (emits s o).dl = s.dl := rfl
@[simp] theorem flights_emits (o : List Out) : (emits s o).flights = s.flights := rfl
@[simp] theorem capTab_emits (o : List Out) : (emits s o).capTab = s.capTab := rfl
@[simp] theorem calls_emits (o : List Out) : (emits s o).calls = s.calls := rfl
@[simp] theorem patchLine_emits (o : List Out) : (emits s o).patchLine = s.patchLine := rfl
@[simp] theorem captbl_emits (o : List Out) : (emits s o).captbl = s.captbl := rfl
@[simp] theorem captblGen_emits (o : List Out) : (emits s o).captblGen = s.captblGen := rfl
@[simp] theorem allocWait_emits (o : List Out) : (emits s o).allocWait = s.allocWait := rfl
@[simp] theorem freeWait_emits (o : List Out) : (emits s o).freeWait = s.freeWait := rfl
@[simp] theorem withheld_emits (o : List Out) : (emits s o).withheld = s.withheld := rfl
@[simp] theorem limits_emits (o : List Out) : (emits s o).limits = s.limits := rfl
@[simp] theorem ctxs_emits (o : List Out) : (emits s o).ctxs = s.ctxs := rfl
@[simp] theorem parts_emits (o : List Out) : (emits s o).parts = s.parts := rfl
@[simp] theorem chans_emits (o : List Out) : (emits s o).chans = s.chans := rfl
@[simp] theorem jobs_emits (o : List Out) : (emits s o).jobs = s.jobs := rfl
@[simp] theorem queues_emits (o : List Out) : (emits s o).queues = s.queues := rfl
@[simp] theorem eps_emits (o : List Out) : (emits s o).eps = s.eps := rfl
@[simp] theorem lanes_emits (o : List Out) : (emits s o).lanes = s.lanes := rfl

/-! ## count -/

@[simp] theorem page_count (p n k j : Nat) : (count s p n k).page j =
    if j = p then { s.page p with cnt := (s.page p).cnt.modify n (fun c => c + BitVec.ofNat 64 k) } else s.page j := by
  unfold count; exact page_setPage ..
@[simp] theorem queue_count (p n k j : Nat) : (count s p n k).queue j = s.queue j := rfl
@[simp] theorem job_count (p n k j : Nat) : (count s p n k).job j = s.job j := rfl
@[simp] theorem slice_count (p n k j : Nat) : (count s p n k).slice j = s.slice j := rfl
@[simp] theorem ctx_count (p n k j : Nat) : (count s p n k).ctx j = s.ctx j := rfl
@[simp] theorem graph_count (p n k j : Nat) : (count s p n k).graph j = s.graph j := rfl
@[simp] theorem waiter_count (p n k j : Nat) : (count s p n k).waiter j = s.waiter j := rfl
@[simp] theorem line_count (p n k j : Nat) : (count s p n k).line j = s.line j := rfl
@[simp] theorem barrier_count (p n k j : Nat) : (count s p n k).barrier j = s.barrier j := rfl
@[simp] theorem lane_count (p n k j : Nat) : (count s p n k).lane j = s.lane j := rfl
@[simp] theorem ep_count (p n k j : Nat) : (count s p n k).ep j = s.ep j := rfl
@[simp] theorem hub_count (p n k j : Nat) : (count s p n k).hub j = s.hub j := rfl
@[simp] theorem chan_count (p n k j : Nat) : (count s p n k).chan j = s.chan j := rfl
@[simp] theorem fan_count (p n k j : Nat) : (count s p n k).fan j = s.fan j := rfl
@[simp] theorem part_count (p n k j : Nat) : (count s p n k).part j = s.part j := rfl
@[simp] theorem slot_count (p n k j : Nat) : (count s p n k).slot j = s.slot j := rfl
@[simp] theorem pending_count (p n k : Nat) : (count s p n k).pending = s.pending := rfl
@[simp] theorem timebase_count (p n k : Nat) : (count s p n k).timebase = s.timebase := rfl
@[simp] theorem freeCtr_count (p n k : Nat) : (count s p n k).freeCtr = s.freeCtr := rfl
@[simp] theorem out_count (p n k : Nat) : (count s p n k).out = s.out := rfl
@[simp] theorem badLines_count (p n k : Nat) : (count s p n k).badLines = s.badLines := rfl
@[simp] theorem pins_count (p n k : Nat) : (count s p n k).pins = s.pins := rfl
@[simp] theorem bsn_count (p n k : Nat) : (count s p n k).bsn = s.bsn := rfl
@[simp] theorem sel_count (p n k : Nat) : (count s p n k).sel = s.sel := rfl
@[simp] theorem idIrqTarget_count (p n k : Nat) : (count s p n k).idIrqTarget = s.idIrqTarget := rfl
@[simp] theorem ntfTargets_count (p n k : Nat) : (count s p n k).ntfTargets = s.ntfTargets := rfl
@[simp] theorem ntfQueue_count (p n k : Nat) : (count s p n k).ntfQueue = s.ntfQueue := rfl
@[simp] theorem loads_count (p n k : Nat) : (count s p n k).loads = s.loads := rfl
@[simp] theorem zeroing_count (p n k : Nat) : (count s p n k).zeroing = s.zeroing := rfl
@[simp] theorem slotWait_count (p n k : Nat) : (count s p n k).slotWait = s.slotWait := rfl
@[simp] theorem blockWait_count (p n k : Nat) : (count s p n k).blockWait = s.blockWait := rfl
@[simp] theorem wsh_count (p n k : Nat) : (count s p n k).wsh = s.wsh := rfl
@[simp] theorem ntc_count (p n k : Nat) : (count s p n k).ntc = s.ntc := rfl
@[simp] theorem vld_count (p n k : Nat) : (count s p n k).vld = s.vld := rfl
@[simp] theorem loe_count (p n k : Nat) : (count s p n k).loe = s.loe := rfl
@[simp] theorem swb_count (p n k : Nat) : (count s p n k).swb = s.swb := rfl
@[simp] theorem per_count (p n k : Nat) : (count s p n k).per = s.per := rfl
@[simp] theorem mgt_count (p n k : Nat) : (count s p n k).mgt = s.mgt := rfl
@[simp] theorem dbg_count (p n k : Nat) : (count s p n k).dbg = s.dbg := rfl
@[simp] theorem dl_count (p n k : Nat) : (count s p n k).dl = s.dl := rfl
@[simp] theorem flights_count (p n k : Nat) : (count s p n k).flights = s.flights := rfl
@[simp] theorem capTab_count (p n k : Nat) : (count s p n k).capTab = s.capTab := rfl
@[simp] theorem calls_count (p n k : Nat) : (count s p n k).calls = s.calls := rfl
@[simp] theorem patchLine_count (p n k : Nat) : (count s p n k).patchLine = s.patchLine := rfl
@[simp] theorem captbl_count (p n k : Nat) : (count s p n k).captbl = s.captbl := rfl
@[simp] theorem captblGen_count (p n k : Nat) : (count s p n k).captblGen = s.captblGen := rfl
@[simp] theorem allocWait_count (p n k : Nat) : (count s p n k).allocWait = s.allocWait := rfl
@[simp] theorem freeWait_count (p n k : Nat) : (count s p n k).freeWait = s.freeWait := rfl
@[simp] theorem withheld_count (p n k : Nat) : (count s p n k).withheld = s.withheld := rfl
@[simp] theorem limits_count (p n k : Nat) : (count s p n k).limits = s.limits := rfl
@[simp] theorem ctxs_count (p n k : Nat) : (count s p n k).ctxs = s.ctxs := rfl
@[simp] theorem parts_count (p n k : Nat) : (count s p n k).parts = s.parts := rfl
@[simp] theorem chans_count (p n k : Nat) : (count s p n k).chans = s.chans := rfl
@[simp] theorem jobs_count (p n k : Nat) : (count s p n k).jobs = s.jobs := rfl
@[simp] theorem queues_count (p n k : Nat) : (count s p n k).queues = s.queues := rfl
@[simp] theorem eps_count (p n k : Nat) : (count s p n k).eps = s.eps := rfl
@[simp] theorem lanes_count (p n k : Nat) : (count s p n k).lanes = s.lanes := rfl

end Sys2Proof.Machine
end

