-- ==== Sys2Proof/Laws/Packet.lean ====
section
/-! SUPPORT. What a packet row comes to where its job stands ready at the packet: the packet's effect, counted as
decoded. -/

namespace Sys2Proof.Machine

/-- A job that the state holds is among the table's entries. -/
theorem tget_mem {α : Type} {t : Table (Option α)} {i : Nat} {x : α} (h : tget none t i = some x) : (i, some x) ∈ t := by
  induction t with
  | nil => simp [tget] at h
  | cons e t ih =>
    obtain ⟨k, v⟩ := e
    unfold tget at h
    split at h
    · subst h; subst k; exact List.mem_cons_self
    · exact List.mem_cons_of_mem _ (ih h)

variable {s : State} {q op : Nat} {j : Job} {ws : List Word}

/-- A job at a launch-kind packet makes its context eligible. -/
theorem AtPacket.eligible (h : AtPacket s q op j ws) (hl : launchKind op = true) :
    eligible s (s.queue q).owner = true := by
  unfold Machine.eligible
  rw [List.any_eq_true]
  refine ⟨(q, some j), tget_mem h.job, ?_⟩
  have hp : j.phase = .run := h.runs.2.1
  simp [atLaunch, hp, streamOpen, h.pkt, h.opcode, hl]

/-- Where the scheduler has taken note of every context, it notes nothing new. -/
theorem noteEligible_all (s : State) (l : List (Nat × Context)) (h : ∀ e ∈ l, (s.ctx e.1).eligible = Machine.eligible s e.1) :
    l.foldl (fun t e => noteEligible t e.1) s = s := by
  induction l with
  | nil => rfl
  | cons e l ih =>
    have he : noteEligible s e.1 = s := by unfold noteEligible; simp [h e List.mem_cons_self]
    rw [List.foldl_cons, he]
    exact ih (fun x hx => h x (List.mem_cons_of_mem _ hx))

/-- The gate is open. -/
theorem AtPacket.gate (h : AtPacket s q op j ws) : gate s q op = (s, true) := by
  unfold Machine.gate
  have hc : chargeHold s q = s := by unfold chargeHold; simp [h.job, h.unheld.1]
  rw [h.job]
  have h1 : (gridKind op && swapHolds s q j) = false := by
    cases hg : gridKind op
    · rfl
    · simp [h.unheld.2 hg]
  simp only [h1, Bool.false_eq_true, if_false]
  by_cases hl : launchKind op = true
  · have hcur := h.current hl
    have hs : schedUpdate s (partQ s q) = s := by
      unfold schedUpdate
      rw [noteEligible_all s _ (fun e he => hcur.2 e ((List.mem_filter.mp he).1))]
      simp [hcur.1, h.eligible hl]
    simp [hl, hs, hcur.1, hc]
  · simp [hl, hc]

/-- The job once its packet counts as decoded. -/
theorem countDecoded_job (h : s.job q = some j) : (countDecoded s q).job q = some { j with decoded := true } := by
  unfold countDecoded
  rw [h]
  cases hd : j.decoded
  · simp [hd]
  · simp only [hd, if_true, h]; cases j; simp_all

/-- A packet row at its packet. -/
theorem AtPacket.run (h : AtPacket s q op j ws) (tok : List Word → Bool) (f : State → Job → List Word → State) :
    runPacket s q op tok f = f (countDecoded s q) { j with decoded := true } ws := by
  unfold runPacket
  rw [h.job]
  have hr := h.runs
  have hw := h.whole
  have hrs : restoreSpill s q = some s := by unfold restoreSpill; simp [h.job, hw.1, hw.2]
  have hq := h.quiet
  have h1 : priorDone s q = true := by unfold priorDone; simp [h.job, hq.1, hq.2]
  simp only [h.pkt, hr.1, hr.2.1, h.opcode, hr.2.2.1, hr.2.2.2, h.area, h.pred, hrs, h1, h.gate, countDecoded_job h.job]
  simp [atPacket, h.job, hr.2.1]

/-! ## Peer messages -/

/-- An accepted peer message: counted, and its effect. -/
theorem PeerMessage.run {die : BitVec 16} {beat : BitVec 256} {type defined : Nat} (h : PeerMessage s die beat type defined)
    (f : State → Nat → State) : peerIn s die.toNat beat type defined f = f (count s pgPER 1) beat.toNat := by
  have h1 := h.domain
  unfold peerIn
  simp only [h.type, h.clean]
  rw [if_neg (by simp)]
  have e1 : domFirst s ≤ die.toNat := h1.1
  have e2 : die.toNat ≤ domLast s := h1.2
  have e3 : domFirst (count s pgPER 1) = domFirst s := rfl
  have e4 : domLast (count s pgPER 1) = domLast s := rfl
  simp [show ¬ (die.toNat < domFirst s ∨ domLast s < die.toNat) by omega]

/-! ## Counting a packet as decoded -/

@[simp] theorem countDecoded_queue (s : State) (q i : Nat) : (countDecoded s q).queue i = s.queue i := by
  unfold countDecoded; split
  · split <;> first | rfl | simp
  · rfl

@[simp] theorem countDecoded_ctx (s : State) (q i : Nat) : (countDecoded s q).ctx i = s.ctx i := by
  unfold countDecoded; split
  · split <;> first | rfl | simp
  · rfl

@[simp] theorem countDecoded_graph (s : State) (q i : Nat) : (countDecoded s q).graph i = s.graph i := by
  unfold countDecoded; split
  · split <;> first | rfl | simp
  · rfl

@[simp] theorem countDecoded_slice (s : State) (q i : Nat) : (countDecoded s q).slice i = s.slice i := by
  unfold countDecoded; split
  · split <;> first | rfl | simp
  · rfl

@[simp] theorem countDecoded_lane (s : State) (q i : Nat) : (countDecoded s q).lane i = s.lane i := by
  unfold countDecoded; split
  · split <;> first | rfl | simp
  · rfl

@[simp] theorem countDecoded_ep (s : State) (q i : Nat) : (countDecoded s q).ep i = s.ep i := by
  unfold countDecoded; split
  · split <;> first | rfl | simp
  · rfl

@[simp] theorem countDecoded_part (s : State) (q i : Nat) : (countDecoded s q).part i = s.part i := by
  unfold countDecoded; split
  · split <;> first | rfl | simp
  · rfl

@[simp] theorem countDecoded_fan (s : State) (q i : Nat) : (countDecoded s q).fan i = s.fan i := by
  unfold countDecoded; split
  · split <;> first | rfl | simp
  · rfl

@[simp] theorem countDecoded_barrier (s : State) (q i : Nat) : (countDecoded s q).barrier i = s.barrier i := by
  unfold countDecoded; split
  · split <;> first | rfl | simp
  · rfl

@[simp] theorem countDecoded_chan (s : State) (q i : Nat) : (countDecoded s q).chan i = s.chan i := by
  unfold countDecoded; split
  · split <;> first | rfl | simp
  · rfl

@[simp] theorem countDecoded_slot (s : State) (q i : Nat) : (countDecoded s q).slot i = s.slot i := by
  unfold countDecoded; split
  · split <;> first | rfl | simp
  · rfl

@[simp] theorem countDecoded_now (s : State) (q : Nat) : (countDecoded s q).now = s.now := by
  unfold countDecoded; split
  · split <;> first | rfl | simp
  · rfl

@[simp] theorem countDecoded_timebase (s : State) (q : Nat) : (countDecoded s q).timebase = s.timebase := by
  unfold countDecoded; split
  · split <;> first | rfl | simp
  · rfl

@[simp] theorem countDecoded_loe (s : State) (q : Nat) : (countDecoded s q).loe = s.loe := by
  unfold countDecoded; split
  · split <;> first | rfl | simp
  · rfl

@[simp] theorem countDecoded_wsh (s : State) (q : Nat) : (countDecoded s q).wsh = s.wsh := by
  unfold countDecoded; split
  · split <;> first | rfl | simp
  · rfl

@[simp] theorem countDecoded_vld (s : State) (q : Nat) : (countDecoded s q).vld = s.vld := by
  unfold countDecoded; split
  · split <;> first | rfl | simp
  · rfl

@[simp] theorem countDecoded_swb (s : State) (q : Nat) : (countDecoded s q).swb = s.swb := by
  unfold countDecoded; split
  · split <;> first | rfl | simp
  · rfl

@[simp] theorem countDecoded_bsn (s : State) (q : Nat) : (countDecoded s q).bsn = s.bsn := by
  unfold countDecoded; split
  · split <;> first | rfl | simp
  · rfl

@[simp] theorem countDecoded_ntc (s : State) (q : Nat) : (countDecoded s q).ntc = s.ntc := by
  unfold countDecoded; split
  · split <;> first | rfl | simp
  · rfl

@[simp] theorem countDecoded_out (s : State) (q : Nat) : (countDecoded s q).out = s.out := by
  unfold countDecoded; split
  · split <;> first | rfl | simp
  · rfl

@[simp] theorem countDecoded_dl (s : State) (q : Nat) : (countDecoded s q).dl = s.dl := by
  unfold countDecoded; split
  · split <;> first | rfl | simp
  · rfl

/-! ## Settling -/

/-- `settle` has a step to spare. -/
theorem settle_eq (s : State) (q : Nat) : settle s q = schedUpdate (settleN (69999 + 1) s q) (partQ s q) := rfl

/-- A job that stands at a packet stays there, and the scheduler takes note of it. -/
theorem settle_live {f : Frame} {fs : List Frame} (hj : s.job q = some j) (hs : j.stack = f :: fs) (h : f.pc < f.pkts.length) :
    settle s q = schedUpdate s (partQ s q) := by
  rw [settle_eq, settleN]; simp [hj, hs, h]

/-- Behind the last packet of an inlined stream the stream ends. -/
theorem settle_inlined {f : Frame} {fs : List Frame} (hj : s.job q = some j) (hs : j.stack = f :: fs) (h : f.pkts.length ≤ f.pc)
    (hk : f.kind = .inlined) : settle s q = schedUpdate (endStream s q) (partQ s q) := by
  rw [settle_eq, settleN]
  have : ¬ f.pc < f.pkts.length := by omega
  simp only [hj, hs, this, if_false, hk]

end Sys2Proof.Machine
end

