-- ==== Sys2Proof/Laws/Sched.lean ====
section
/-! SUPPORT. What the scheduler's update of a partition can change (R273). -/

namespace Sys2Proof.Machine

/-- From s to t only contexts' eligibility and credit, what is current in partition p and its slice's end, and the
counters of page SCH have changed. -/
structure SchedFrame (p : Nat) (s t : State) : Prop where
  ctx : ∀ i, { t.ctx i with eligible := (s.ctx i).eligible, deficit := (s.ctx i).deficit } = s.ctx i
  other : ∀ i, i ≠ p → t.part i = s.part i
  part : { t.part p with cur := (s.part p).cur, sliceEnd := (s.part p).sliceEnd } = s.part p
  page : ∀ i, i ≠ pgSCH → t.page i = s.page i
  rest : { t with ctxs := s.ctxs, parts := s.parts, pages := s.pages } = s

theorem SchedFrame.refl (p : Nat) (s : State) : SchedFrame p s s := ⟨fun _ => rfl, fun _ _ => rfl, rfl, fun _ _ => rfl, rfl⟩

/-- Two parts that agree but for what is current agree with a third together. -/
theorem SchedFrame.trans {p : Nat} {s t u : State} (h : SchedFrame p s t) (k : SchedFrame p t u) : SchedFrame p s u where
  ctx i := by have a := h.ctx i; have b := k.ctx i; rw [← a, ← b]
  other i hi := by rw [k.other i hi, h.other i hi]
  part := by rw [← h.part, ← k.part]
  page i hi := by rw [k.page i hi, h.page i hi]
  rest := by rw [← h.rest, ← k.rest]

theorem schedFrame_setCtx {p c : Nat} {s : State} {x : Context}
    (h : { x with eligible := (s.ctx c).eligible, deficit := (s.ctx c).deficit } = s.ctx c) : SchedFrame p s (s.setCtx c x) where
  ctx i := by
    by_cases hi : i = c
    · subst hi; simpa using h
    · simp [hi]
  other _ _ := rfl
  part := rfl
  page _ _ := rfl
  rest := rfl

theorem schedFrame_setPart {p : Nat} {s : State} (c : Option Nat) (e : Nat) :
    SchedFrame p s (s.setPart p { s.part p with cur := c, sliceEnd := e }) where
  ctx _ := rfl
  other i hi := by simp [hi]
  part := by simp
  page _ _ := rfl
  rest := rfl

theorem schedFrame_noteEligible (p : Nat) (s : State) (c : Nat) : SchedFrame p s (noteEligible s c) := by
  unfold noteEligible
  dsimp only
  split
  · exact .refl p s
  · exact schedFrame_setCtx rfl

theorem schedFrame_notes (p : Nat) (l : List (Nat × Context)) (s : State) :
    SchedFrame p s (l.foldl (fun t e => noteEligible t e.1) s) := by
  induction l generalizing s with
  | nil => exact .refl p s
  | cons e l ih => exact (schedFrame_noteEligible p s e.1).trans (ih _)

theorem schedFrame_refill (p : Nat) (l : List Nat) (s : State) (n : Nat) : SchedFrame p s (refill s n l) := by
  unfold refill
  induction l generalizing s with
  | nil => exact .refl p s
  | cons c l ih =>
    rw [List.foldl_cons]
    refine SchedFrame.trans (schedFrame_setCtx ?_) (ih _)
    rfl

theorem schedFrame_pick {p : Nat} {s t : State} {l : List Nat} (h : pickCredit s p l = some t) : SchedFrame p s t := by
  unfold pickCredit at h
  split at h
  · cases h; exact schedFrame_setPart _ _
  · cases h

theorem schedFrame_count (p : Nat) (s : State) (n k : Nat) : SchedFrame p s (count s pgSCH n k) where
  ctx _ := rfl
  other _ _ := rfl
  part := rfl
  page i hi := by unfold count; simp [hi]
  rest := rfl

theorem schedFrame_decide (p : Nat) (s : State) : SchedFrame p s (decideSched s p) := by
  have h0 := schedFrame_count p s 5 1
  unfold decideSched
  dsimp only
  split
  · exact h0.trans (schedFrame_setPart _ _)
  · split
    · rename_i h; exact h0.trans (schedFrame_pick h)
    · have h1 := h0.trans (schedFrame_refill p (eligibles s p) _ p)
      split
      · rename_i h; exact h1.trans (schedFrame_pick h)
      · exact (h1.trans (schedFrame_refill p (eligibles s p) _ p)).trans (schedFrame_setPart none _)

/-- The scheduler's update. -/
theorem schedUpdate_frame (s : State) (p : Nat) : SchedFrame p s (schedUpdate s p) := by
  unfold schedUpdate
  dsimp only
  have h := schedFrame_notes p (s.ctxs.filter (fun e => e.2.part == p)) s
  split
  · split
    · exact h
    · exact h.trans (schedFrame_decide p _)
  · split
    · exact h
    · exact h.trans (schedFrame_decide p _)

end Sys2Proof.Machine
end

