-- ==== Sys2Proof/Laws/Steady.lean ====
section
/-! SUPPORT. The shared operations, the queues and the packets keep the steady part of the state (Safety.steady). -/

namespace Sys2Proof.Machine

/-- The steady part of a state given field by field: how an update of a state is read. -/
@[simp] theorem steady_mk (pending : List Instr) (timebase : Word) (freeCtr : Nat) (out : List Out) (badLines : List Nat) (pins : Pins) (bsn : Basin)
    (pages : Table Page) (sel : Table Word) (idIrqTarget : W32) (ntfTargets : Table Word) (ntfQueue : List Ntf) (queues : Table Queue)
    (jobs : Table (Option Job)) (slices : Table Slice) (ctxs : Table Context) (graphs : Table (Option Graph)) (zeroing : List Zeroing)
    (withheld : List Nat) (allocWait : List AllocWaiter) (freeWait : List (Nat × Nat × Nat × Nat)) (captbl : Word) (captblGen : W32) (capTab : List (List (Nat × List Byte)))
    (wsh : Wsh) (sad : Table Chan) (lanes : Table Lane) (patchLine : List (Nat × Nat)) (calls : List Nat) (slotWait : List Nat) (blockWait : List BlockMsg) (eps : Table Endpoint)
    (hubs : Table Hub) (chans : Table Channel) (loads : List Load) (fans : Table Fan) (parts : Table Part) (dl : Deadlines)
    (bwrCtrl : W32) (limits : Table Nat) (flights : List Flight) (ntc : Notch) (vld : Veld) (loe : Loess) (swb : Swb) (per : Peer) (mgt : Mgt) (dbg : Dbg) :
    steady (State.mk pending timebase freeCtr out badLines pins bsn pages sel idIrqTarget ntfTargets ntfQueue queues jobs slices ctxs graphs
      zeroing withheld allocWait freeWait captbl captblGen capTab wsh sad lanes patchLine calls slotWait blockWait eps hubs chans loads
      fans parts dl bwrCtrl limits flights ntc vld loe swb per mgt dbg) =
    ⟨pending, timebase, bsn.sliceAwake, bsn.spineAwake, swb.fuses, ntc.debugOpened, ntc.bootDigest⟩ := rfl
@[simp] theorem steady_fold (s : State) :
    Steady.mk s.pending s.timebase s.bsn.sliceAwake s.bsn.spineAwake s.swb.fuses s.ntc.debugOpened s.ntc.bootDigest = steady s := rfl
/-- A fold of steps that keep the steady part keeps it. -/
theorem steady_foldl {α : Type} (f : State → α → State) (h : ∀ s a, steady (f s a) = steady s) (l : List α) (s : State) :
    steady (l.foldl f s) = steady s := by
  induction l generalizing s with
  | nil => rfl
  | cons a l ih => simp [ih, h]
@[simp] theorem steady_ite (c : Prop) [Decidable c] (s t : State) : steady (if c then s else t) = if c then steady s else steady t := by
  split <;> rfl

/-! ## Ops -/

@[simp] theorem steady_State_setPage (s : State) (p : Nat) (v : Page) : steady (State.setPage s p v) = steady s := by
  simp [State.setPage]

@[simp] theorem steady_State_setQueue (s : State) (q : Nat) (v : Queue) : steady (State.setQueue s q v) = steady s := by
  simp [State.setQueue]

@[simp] theorem steady_State_setJob (s : State) (q : Nat) (v : Option Job) : steady (State.setJob s q v) = steady s := by
  simp [State.setJob]

@[simp] theorem steady_State_setSlice (s : State) (k : Nat) (v : Slice) : steady (State.setSlice s k v) = steady s := by
  simp [State.setSlice]

@[simp] theorem steady_State_setCtx (s : State) (c : Nat) (v : Context) : steady (State.setCtx s c v) = steady s := by
  simp [State.setCtx]

@[simp] theorem steady_State_setGraph (s : State) (g : Nat) (v : Option Graph) : steady (State.setGraph s g v) = steady s := by
  simp [State.setGraph]

@[simp] theorem steady_State_setWaiter (s : State) (q : Nat) (v : Waiter) : steady (State.setWaiter s q v) = steady s := by
  simp [State.setWaiter]

@[simp] theorem steady_State_setLine (s : State) (l : Nat) (v : Line) : steady (State.setLine s l v) = steady s := by
  simp [State.setLine]

@[simp] theorem steady_State_setBarrier (s : State) (c : Nat) (v : Chan) : steady (State.setBarrier s c v) = steady s := by
  simp [State.setBarrier]

@[simp] theorem steady_State_setLane (s : State) (k : Nat) (v : Lane) : steady (State.setLane s k v) = steady s := by
  simp [State.setLane]

@[simp] theorem steady_State_setEp (s : State) (e : Nat) (v : Endpoint) : steady (State.setEp s e v) = steady s := by
  simp [State.setEp]

@[simp] theorem steady_State_setHub (s : State) (h : Nat) (v : Hub) : steady (State.setHub s h v) = steady s := by
  simp [State.setHub]

@[simp] theorem steady_State_setChan (s : State) (m : Nat) (v : Channel) : steady (State.setChan s m v) = steady s := by
  simp [State.setChan]

@[simp] theorem steady_State_setFan (s : State) (n : Nat) (v : Fan) : steady (State.setFan s n v) = steady s := by
  simp [State.setFan]

@[simp] theorem steady_State_setPart (s : State) (p : Nat) (v : Part) : steady (State.setPart s p v) = steady s := by
  simp [State.setPart]

@[simp] theorem steady_State_setSlot (s : State) (k : Nat) (v : KeySlot) : steady (State.setSlot s k v) = steady s := by
  simp [State.setSlot]

@[simp] theorem steady_takeFree (s : State) : steady s.takeFree.2 = steady s := by simp [State.takeFree]

@[simp] theorem steady_emit (s : State) (o : Out) : steady (emit s o) = steady s := by
  simp [emit]

@[simp] theorem steady_emits (s : State) (os : List Out) : steady (emits s os) = steady s := by
  simp [emits]

@[simp] theorem steady_count (s : State) (p n : Nat) (k : Nat) : steady (count s p n k) = steady s := by
  simp [count]

@[simp] theorem steady_presentNtf (s : State) (n : Ntf) : steady (presentNtf s n) = steady s := by
  simp [presentNtf]

@[simp] theorem steady_presentIrq (s : State) (p : Nat) : steady (presentIrq s p) = steady s := by
  simp [presentIrq]

@[simp] theorem steady_raiseIrq (s : State) (p : Nat) (bits : W32) : steady (raiseIrq s p bits) = steady s := by
  simp [raiseIrq]

@[simp] theorem steady_setErr (s : State) (p bit : Nat) (addr : Nat) : steady (setErr s p bit addr) = steady s := by
  simp [setErr]

@[simp] theorem steady_wakeSpine (s : State) : steady (wakeSpine s) = steady s := by
  simp [wakeSpine]

@[simp] theorem steady_wakeSlice (s : State) (k : Nat) : steady (wakeSlice s k) = steady s := by
  simp [wakeSlice]

theorem steady_spineEvent (s : State) (h : Held) (f : State → State) (e : ∀ t, steady (f t) = steady t) :
    steady (spineEvent s h f) = steady s := by
  simp only [spineEvent]; split <;> simp [e]

@[simp] theorem steady_issue (s : State) (k : Nat) (who : Access) (outs : List Out) :
    steady (issue s k who outs) = steady s := by
  simp [issue]

@[simp] theorem steady_releasePort (s : State) (k : Nat) :
    steady (releasePort s k) = steady s := by
  simp [releasePort]

@[simp] theorem steady_landed (s : State) (who : Access) :
    steady (landed s who) = steady s := by
  simp only [landed]
  (repeat' split) <;> simp

@[simp] theorem steady_retry (s : State) (who : Access) :
    steady (retry s who) = steady s := by
  simp only [retry]
  (repeat' split) <;> simp

@[simp] theorem steady_countXlt (s : State) (st : Status) : steady (countXlt s st) = steady s := by
  simp [countXlt]

theorem steady_putPieces {s t : State} {port : Nat} {ps : List (Nat × Nat × Nat)} {bs : List Byte}
    (h : putPieces s port ps bs = some t) : steady t = steady s := by
  simp only [putPieces] at h; split at h <;> cases h
  simp

@[simp] theorem steady_putOrDrop (s : State) (page : Nat) (ps : List (Nat × Nat × Nat)) (bs : List Byte) :
    steady (putOrDrop s page ps bs) = steady s := by
  simp only [putOrDrop]; split <;> simp

theorem steady_vWrite {s t : State} {port c va : Nat} {bs : List Byte} (h : vWrite s port c va bs = .ok t) :
    steady t = steady s := by
  simp only [vWrite] at h
  split at h
  · cases h
  · split at h
    · cases h; exact steady_putPieces ‹_›
    · cases h

@[simp] theorem steady_holdHandle (s : State) (c i : Nat) : steady (holdHandle s c i) = steady s := by
  simp [holdHandle]

@[simp] theorem steady_sendMsg (s : State) (lane kind hub extra mask b0 : Nat) (rest : List Word) : steady
    (sendMsg s lane kind hub extra mask b0 rest) = steady s := by
  simp [sendMsg]

@[simp] theorem steady_sendRuns (s : State) (lane kind : Nat) (es : List Nat) (b0 : Nat) (rest : List Word) : steady
    (sendRuns s lane kind es b0 rest) = steady s := by
  simp (disch := (intros; (repeat' split) <;> (try simp))) [sendRuns, steady_foldl]

@[simp] theorem steady_sendRunsSpine (s : State) (kind : Nat) (es : List Nat) (b0 : Nat) (rest : List Word) : steady
    (sendRunsSpine s kind es b0 rest) = steady s := by
  simp (disch := (intros; (repeat' split) <;> (try simp))) [sendRunsSpine, steady_foldl]

@[simp] theorem steady_setUnit (s : State) (k : UnitKind) (u : Nat) (r : UnitRec) : steady (setUnit s k u r) = steady s := by
  simp only [setUnit]
  (repeat' split) <;> simp

@[simp] theorem steady_clearTenant (s : State) (c : Nat) : steady (clearTenant s c) = steady s := by
  simp [clearTenant]

@[simp] theorem steady_advance (s : State) (c : Nat) : steady (advance s c) = steady s := by
  simp [advance]

@[simp] theorem steady_countPacket (s : State) (c : Nat) : steady (countPacket s c) = steady s := by
  simp [countPacket]

/-! ## Wait -/

@[simp] theorem steady_sendPeer (s : State) (die : Nat) (beat : Nat) : steady (sendPeer s die beat) = steady s := by
  simp [sendPeer]

@[simp] theorem steady_sendTwin (s : State) (st : Nat) : steady (sendTwin s st) = steady s := by
  simp [sendTwin]

theorem steady_peerIn (s : State) (die : Nat) (beat : BitVec 256) (type defined : Nat) (f : State → Nat → State)
    (h : ∀ t b, steady (f t b) = steady t) : steady (peerIn s die beat type defined f) = steady s := by
  simp only [peerIn]; (repeat' split) <;> simp [h]

@[simp] theorem steady_sendFence (s : State) (die beat : Nat) : steady (sendFence s die beat) = steady s := by
  simp [sendFence]

theorem steady_takeLine {s t : State} {f : Fence} {l : Nat} (h : takeLine s f = some (l, t)) : steady t = steady s := by
  simp only [takeLine] at h; (repeat' split at h) <;> cases h <;> simp

@[simp] theorem steady_linkWaiter (s : State) (l : Nat) (w : LineWaiter) : steady (linkWaiter s l w) = steady s := by
  simp [linkWaiter]

@[simp] theorem steady_unlinkWaiter (s : State) (l : Nat) (w : LineWaiter) : steady (unlinkWaiter s l w) = steady s := by
  simp [unlinkWaiter]

@[simp] theorem steady_issueAtomic (s : State) (a : Atomic) :
    steady (issueAtomic s a) = steady s := by
  simp [issueAtomic]

@[simp] theorem steady_addAtomic (s : State) (a : Atomic) : steady (addAtomic s a) = steady s := by
  simp [addAtomic]

@[simp] theorem steady_dropAtomic (s : State) (n : Nat) : steady (dropAtomic s n) = steady s := by
  simp [dropAtomic]

@[simp] theorem steady_HeldRead.go (s : State) (r : HeldRead) :
    steady (HeldRead.go s r) = steady s := by
  simp [HeldRead.go]

@[simp] theorem steady_issueRead (s : State) (r : HeldRead) : steady (issueRead s r) = steady s := by
  simp only [issueRead]; split <;> simp

@[simp] theorem steady_releaseReads (s : State) (pa : Nat) :
    steady (releaseReads s pa) = steady s := by
  simp (disch := (intros; (repeat' split) <;> (try simp))) [releaseReads, steady_foldl]

@[simp] theorem steady_nextAtomic (s : State) (pa : Nat) : steady (nextAtomic s pa) = steady s := by
  simp only [nextAtomic]
  (repeat' split) <;> simp

@[simp] theorem steady_readFence (s : State) (w : LineWaiter) (f : Fence) :
    steady (readFence s w f) = steady s := by
  simp [readFence]

@[simp] theorem steady_dropReads (s : State) (w : LineWaiter) (pa : Nat) :
    steady (dropReads s w pa) = steady s := by
  simp [dropReads]

@[simp] theorem steady_putWatch (s : State) (x : RemoteWatch) :
    steady (putWatch s x) = steady s := by
  simp [putWatch]

@[simp] theorem steady_relinkQueue (s : State) (q : Nat) :
    steady (relinkQueue s q) = steady s := by
  simp only [relinkQueue]
  (repeat' split) <;> first | (simp; done) | (simp [steady_takeLine ‹takeLine _ _ = some (_, _)›]; done)

@[simp] theorem steady_relinkWatch (s : State) (x : RemoteWatch) :
    steady (relinkWatch s x) = steady s := by
  simp only [relinkWatch]
  (repeat' split) <;> first | (simp; done) | (simp [steady_takeLine ‹takeLine _ _ = some (_, _)›]; done)

@[simp] theorem steady_relink (s : State) : steady (relink s) = steady s := by
  simp only [relink]
  (repeat' split) <;> first | (simp; done) | simp [steady_takeLine ‹takeLine _ _ = some (_, _)›]

@[simp] theorem steady_clearWait (s : State) (q : Nat) (unwatch : Bool) : steady (clearWait s q unwatch) = steady s := by
  simp only [clearWait]
  (repeat' split) <;> simp

/-! ## Lanes -/

@[simp] theorem steady_putRec (s : State) (k r : Nat) (x : LaunchRec) : steady (putRec s k r x) = steady s := by
  simp [putRec]

@[simp] theorem steady_freeRecord (s : State) (k r : Nat) : steady (freeRecord s k r) = steady s := by
  simp [freeRecord]

@[simp] theorem steady_commandMsgs (s : State) (lane : Nat) (h : CmdHead) (targets : List Nat)
    (desc consts : List Word) (segs : List (Nat × Nat × Nat)) :
    steady (commandMsgs s lane h targets desc consts segs) = steady s := by
  simp [commandMsgs]

@[simp] theorem steady_sendCommand (s : State) (lane : Nat) (h : CmdHead) (targets : List Nat) (desc consts : List Word)    
    (segs : List (Nat × Nat × Nat)) : steady (sendCommand s lane h targets desc consts segs) = steady s := by
  simp only [sendCommand]
  (repeat' split) <;> simp (disch := (intros; (repeat' split) <;> (try simp))) [steady_foldl]

@[simp] theorem steady_issueMsg (s : State) (r : Nat) (m : BlockMsg) : steady (issueMsg s r m) = steady s := by
  simp [issueMsg]

@[simp] theorem steady_pumpMsgs (l : List BlockMsg) (s : State) : steady (pumpMsgs l s) = steady s := by
  induction l generalizing s with
  | nil => rfl
  | cons m ms ih => simp only [pumpMsgs]; split <;> simp [ih]

@[simp] theorem steady_pumpBlock (s : State) : steady (pumpBlock s) = steady s := by
  simp [pumpBlock]

@[simp] theorem steady_sendTagged (s : State) (kind : Nat) (eps : List Nat) (b0 : Nat) (rest : List Word) (second : Bool)
    (purpose : Purpose)     (ctx : Nat) : steady (sendTagged s kind eps b0 rest second purpose ctx) = steady s := by
  simp [sendTagged]

theorem steady_issueZero {s t : State} {z : Zeroing} (h : issueZero s z = some t) : steady t = steady s := by
  simp only [issueZero] at h; (repeat' split at h) <;> cases h <;> simp

@[simp] theorem steady_pumpZeros (l : List Zeroing) (s : State) : steady (pumpZeros l s) = steady s := by
  induction l generalizing s with
  | nil => rfl
  | cons m ms ih =>
    simp only [pumpZeros]; (repeat' split) <;> simp [ih]
    exact steady_issueZero ‹issueZero _ _ = some _›

@[simp] theorem steady_pumpZero (s : State) : steady (pumpZero s) = steady s := by
  simp [pumpZero]

@[simp] theorem steady_toZeroing (s : State) (part : Nat) (gs : List Nat) : steady (toZeroing s part gs) = steady s := by
  simp [toZeroing]

/-! ## Sched -/

@[simp] theorem steady_modJob (s : State) (q : Nat) (f : Job → Job) : steady (modJob s q f) = steady s := by
  simp only [modJob]
  (repeat' split) <;> simp

theorem steady_pickCredit {s t : State} {p : Nat} {l : List Nat} (h : pickCredit s p l = some t) : steady t = steady s := by
  simp only [pickCredit] at h; (repeat' split at h) <;> cases h <;> simp

@[simp] theorem steady_refill (s : State) (p : Nat) (l : List Nat) : steady (refill s p l) = steady s := by
  simp (disch := (intros; (repeat' split) <;> (try simp))) [refill, steady_foldl]

@[simp] theorem steady_decideSched (s : State) (p : Nat) : steady (decideSched s p) = steady s := by
  simp only [decideSched]
  (repeat' split) <;> first | (simp; done) | simp [steady_pickCredit ‹pickCredit _ _ _ = some _›]

@[simp] theorem steady_noteEligible (s : State) (c : Nat) :
    steady (noteEligible s c) = steady s := by
  simp [noteEligible]

@[simp] theorem steady_schedUpdate (s : State) (p : Nat) :
    steady (schedUpdate s p) = steady s := by
  simp only [schedUpdate]
  (repeat' split) <;> simp (disch := (intros; (repeat' split) <;> (try simp))) [steady_foldl]

@[simp] theorem steady_chargeWait (s : State) (q : Nat) : steady (chargeWait s q) = steady s := by
  simp only [chargeWait]
  (repeat' split) <;> simp

@[simp] theorem steady_chargeHold (s : State) (q : Nat) : steady (chargeHold s q) = steady s := by
  simp only [chargeHold]
  (repeat' split) <;> simp

/-! ## Jobs -/

@[simp] theorem steady_releaseGraph (s : State) (c i : Nat) : steady (releaseGraph s c i) = steady s := by
  simp only [releaseGraph]
  (repeat' split) <;> simp

@[simp] theorem steady_releaseObject (s0 : State) (c i : Nat) : steady (releaseObject s0 c i) = steady s0 := by
  simp [releaseObject]

@[simp] theorem steady_unholdHandle (s : State) (c i : Nat) : steady (unholdHandle s c i) = steady s := by
  simp [unholdHandle]

@[simp] theorem steady_holdPacket (s : State) (q : Nat) (h : Option Nat) :
    steady (holdPacket s q h) = steady s := by
  simp only [holdPacket]
  (repeat' split) <;> simp

@[simp] theorem steady_unholdPacket (s : State) (q : Nat) : steady (unholdPacket s q) = steady s := by
  simp only [unholdPacket]
  (repeat' split) <;> simp (disch := (intros; (repeat' split) <;> (try simp))) [steady_foldl]

@[simp] theorem steady_zeroSpill (s : State) (q : Nat) (slot : Option (Nat × Nat)) (len : Nat) :
    steady (zeroSpill s q slot len) = steady s := by
  simp only [zeroSpill]
  (repeat' split) <;> simp

@[simp] theorem steady_releaseBuf (s : State) (q : Nat) : steady (releaseBuf s q) = steady s := by
  simp only [releaseBuf]
  (repeat' split) <;> simp

@[simp] theorem steady_releaseImage (s : State) (q : Nat) : steady (releaseImage s q) = steady s := by
  simp only [releaseImage]
  (repeat' split) <;> simp

@[simp] theorem steady_leaveWaits (s : State) (q : Nat) : steady (leaveWaits s q) = steady s := by
  simp [leaveWaits]

@[simp] theorem steady_dropPlan (s : State) (q : Nat) (p : Plan) : steady (dropPlan s q p) = steady s := by
  simp only [dropPlan]
  (repeat' split) <;> simp (disch := (intros; (repeat' split) <;> (try simp))) [steady_foldl]

@[simp] theorem steady_dropLoads (s : State) (q : Nat) : steady (dropLoads s q) = steady s := by
  simp (disch := (intros; (repeat' split) <;> (try simp))) [dropLoads, steady_foldl]

@[simp] theorem steady_dropPins (s : State) (j : Job) : steady (dropPins s j) = steady s := by
  simp (disch := (intros; (repeat' split) <;> (try simp))) [dropPins, steady_foldl]

@[simp] theorem steady_dropPatch (s : State) (q : Nat) : steady (dropPatch s q) = steady s := by
  simp only [dropPatch]
  (repeat' split) <;> simp

@[simp] theorem steady_dropMove (s : State) (q : Nat) :
    steady (dropMove s q) = steady s := by
  simp [dropMove]

@[simp] theorem steady_endStream (s : State) (q : Nat) : steady (endStream s q) = steady s := by
  simp [endStream]

@[simp] theorem steady_stopJob (s : State) (q : Nat) : steady (stopJob s q) = steady s := by
  simp only [stopJob]
  (repeat' split) <;> simp (disch := (intros; (repeat' split) <;> (try simp))) [steady_foldl]

@[simp] theorem steady_rankJob (s : State) (q : Nat) (r : EndRank) (st : Status) (idx : Option Nat) :
    steady (rankJob s q r st idx) = steady s := by
  simp [rankJob]

@[simp] theorem steady_endJob (s : State) (q : Nat) (r : EndRank) (st : Status) (idx : Option Nat) : steady
    (endJob s q r st idx) = steady s := by
  simp only [endJob]
  (repeat' split) <;> simp

@[simp] theorem steady_capture (s v : State) (c : Nat) (st : Status) (cause : Nat) (cycle : List Nat) (badEp : Option Nat) :
    steady (capture s v c st cause cycle badEp) = steady s := by
  simp only [capture]
  (repeat' split) <;> first | (simp; done) | (simp [steady_vWrite ‹vWrite _ _ _ _ _ = .ok _›]; done)

@[simp] theorem steady_haltBlock (s : State) (cause : Nat) (st : Status) (q : Nat) (job : Option (Nat × Option Nat))
    (cycle : List Nat) (badEp : Option Nat) :
    steady (haltBlock s cause st q job cycle badEp) = steady s := by
  simp [haltBlock]

@[simp] theorem steady_endTrace (s : State) : steady (endTrace s) = steady s := by
  simp [endTrace]

@[simp] theorem steady_loseContext (s : State) (c : Nat) (st : Status) (job : Option (Nat × Option Nat))
    (watchdog : Bool) (cycle : List Nat) (badEp : Option Nat) :
    steady (loseContext s c st job watchdog cycle badEp) = steady s := by
  simp only [loseContext]
  (repeat' split) <;> simp (disch := (intros; (repeat' split) <;> (try simp))) [steady_foldl]

@[simp] theorem steady_faultJob (s : State) (q : Nat) (st : Status) : steady (faultJob s q st) = steady s := by
  simp [faultJob]

@[simp] theorem steady_opStatus (s : State) (q : Nat) (st : Status) : steady (opStatus s q st) = steady s := by
  simp [opStatus]

@[simp] theorem steady_malformed (s : State) (q : Nat) (st : Status) :
    steady (malformed s q st) = steady s := by
  simp only [malformed]
  (repeat' split) <;> simp

/-! ## Flow -/

@[simp] theorem steady_pinSlot (s : State) (g i : Nat) (f : Nat → Nat) : steady (pinSlot s g i f) = steady s := by
  simp only [pinSlot]
  (repeat' split) <;> simp

@[simp] theorem steady_histUpdate (s : State) (c g layer d : Nat) : steady (histUpdate s c g layer d) = steady s := by
  simp [histUpdate]

@[simp] theorem steady_endLayers (s : State) (q : Nat) : steady (endLayers s q) = steady s := by
  simp only [endLayers]
  (repeat' split) <;> simp (disch := (intros; (repeat' split) <;> (try simp))) [steady_foldl]

@[simp] theorem steady_spillOut (s : State) (v : Nat) (x : Nat × Nat) (bytes : List Byte) (f : Job → Job) :
    steady (spillOut s v x bytes f) = steady s := by
  simp only [spillOut]; split
  · simp [steady_putPieces ‹putPieces _ _ _ _ = some _›]
  · simp

@[simp] theorem steady_spillBufOf (s : State) (k : Nat) :
    steady (spillBufOf s k) = steady s := by
  simp only [spillBufOf]
  (repeat' split) <;> simp

@[simp] theorem steady_spillImgOf (s : State) (k : Nat) :
    steady (spillImgOf s k) = steady s := by
  simp only [spillImgOf]
  (repeat' split) <;> simp

@[simp] theorem steady_unspill (s : State) (q : Nat) (slot : Option (Nat × Nat)) (len : Nat) :
    steady (unspill s q slot len) = steady s := by
  simp only [unspill]
  (repeat' split) <;> simp

theorem steady_takeBuf {s t : State} {q : Nat} (h : takeBuf s q = some t) : steady t = steady s := by
  simp only [takeBuf] at h; (repeat' split at h) <;> first | (cases h; done) | (cases h; simp)

theorem steady_takeBufIf {c : Prop} [Decidable c] {s t : State} {q : Nat} (h : (if c then some s else takeBuf s q) = some t) :
    steady t = steady s := by
  split at h
  · cases h; rfl
  · exact steady_takeBuf h

theorem steady_takeImg {s t : State} {q : Nat} (h : takeImg s q = some t) : steady t = steady s := by
  simp only [takeImg] at h; (repeat' split at h) <;> first | (cases h; done) | (cases h; simp)

@[simp] theorem steady_waitImg (s : State) (q : Nat) :
    steady (waitImg s q) = steady s := by
  simp [waitImg]

@[simp] theorem steady_waitBuf (s : State) (q : Nat) : steady (waitBuf s q) = steady s := by
  simp [waitBuf]

@[simp] theorem steady_orphan (s : State) (q : Nat) : steady (orphan s q) = steady s := by
  simp [orphan]

@[simp] theorem steady_dropQueue (s : State) (q : Nat) :
    steady (dropQueue s q) = steady s := by
  simp [dropQueue]

@[simp] theorem steady_ringFault (s : State) (q : Nat) (st : Status) : steady (ringFault s q st) = steady s := by
  simp [ringFault]

@[simp] theorem steady_requestLine (s : State) (q : Nat) : steady (requestLine s q) = steady s := by
  simp only [requestLine]
  (repeat' split) <;> simp

@[simp] theorem steady_badFrag (s : State) (q n crc : Nat) :
    steady (badFrag s q n crc) = steady s := by
  simp [badFrag]

@[simp] theorem steady_requestFrag (s : State) (q : Nat) : steady (requestFrag s q) = steady s := by
  simp only [requestFrag]
  (repeat' split) <;> first | (simp; done) | simp [steady_takeBufIf ‹(if _ then some _ else takeBuf _ _) = some _›]

@[simp] theorem steady_nextFrag (s : State) (q : Nat) : steady (nextFrag s q) = steady s := by
  simp only [nextFrag]
  (repeat' split) <;> simp

@[simp] theorem steady_letGraph (s : State) (q h : Nat) : steady (letGraph s q h) = steady s := by
  simp only [letGraph]
  (repeat' split) <;> simp

@[simp] theorem steady_dropRun (s : State) (q g i h : Nat) (callers : List Frame) :
    steady (dropRun s q g i h callers) = steady s := by
  simp only [dropRun]
  (repeat' split) <;> simp

@[simp] theorem steady_leaveGraph (s : State) (q g i h : Nat) (callers : List Frame) (outer : Bool) :
    steady (leaveGraph s q g i h callers outer) = steady s := by
  simp only [leaveGraph]
  (repeat' split) <;> simp (disch := (intros; (repeat' split) <;> (try simp))) [steady_foldl]

@[simp] theorem steady_settleN (n : Nat) (s : State) (q : Nat) : steady (settleN n s q) = steady s := by
  induction n generalizing s with
  | zero => rfl
  | succ n ih => simp only [settleN]; (repeat' split) <;> simp [ih]

@[simp] theorem steady_settle (s : State) (q : Nat) : steady (settle s q) = steady s := by
  unfold settle; rw [steady_schedUpdate, steady_settleN]

@[simp] theorem steady_retireStack (s : State) (q : Nat) (g : List Frame → List Frame) : steady
    (retireStack s q g) = steady s := by
  simp [retireStack]

@[simp] theorem steady_retire (s : State) (q : Nat) : steady (retire s q) = steady s := by
  simp [retire]

@[simp] theorem steady_retireWith (s : State) (q : Nat) (f : Job → Job) : steady (retireWith s q f) = steady s := by
  simp [retireWith]

@[simp] theorem steady_markHeld (s : State) (q : Nat) :
    steady (markHeld s q) = steady s := by
  simp [markHeld]

@[simp] theorem steady_gate (s : State) (q op : Nat) : steady (gate s q op).1 = steady s := by
  simp only [gate]; (repeat' split) <;> simp

theorem steady_restoreSpill {s t : State} {q : Nat} (h : restoreSpill s q = some t) : steady t = steady s := by
  simp only [restoreSpill] at h
  split at h
  · cases h
  · split at h
    · cases h
    · rename_i t1 h1
      have e : steady t1 = steady s := by
        split at h1
        · exact steady_takeBuf h1
        · cases h1; rfl
      split at h
      · obtain ⟨u, hu, rfl⟩ := Option.map_eq_some_iff.mp h
        simp [steady_takeImg hu, e]
      · cases h; split <;> simp [e]

@[simp] theorem steady_waitSpill (s : State) (q : Nat) (j : Job) :
    steady (waitSpill s q j) = steady s := by
  simp [waitSpill]

@[simp] theorem steady_countDecoded (s : State) (q : Nat) : steady (countDecoded s q) = steady s := by
  simp only [countDecoded]
  (repeat' split) <;> simp

theorem steady_runPacket (s : State) (q op : Nat) (tokens : List Word → Bool) (f : State → Job → List Word → State)
    (h : ∀ t j ws, steady (f t j ws) = steady t) : steady (runPacket s q op tokens f) = steady s := by
  simp only [runPacket]
  (repeat' split) <;> first | rfl | (simp; done) | (simp [steady_restoreSpill ‹restoreSpill _ _ = some _›]; done) |
    (simp [h, steady_restoreSpill ‹restoreSpill _ _ = some _›]; done)

/-! ## Operands -/

@[simp] theorem steady_noteBad (s : State) (q va ifs loops : Nat) (ws : List Word) :
    steady (noteBad s q va ifs loops ws) = steady s := by
  simp [noteBad]

@[simp] theorem steady_countRefused (s : State) (q : Nat) (st : Status) : steady (countRefused s q st) = steady s := by
  simp [countRefused]

/-! ## Fence -/

@[simp] theorem steady_cacheSync (s : State) (key : Nat) (e : Word × Word) : steady (cacheSync s key e) = steady s := by
  simp [cacheSync]

theorem steady_syncEntry {s t : State} {c id : Nat} {m : MemView} {lo hi : Word} (h : syncEntry s c id m = .ok (t, lo, hi)) :
    steady t = steady s := by
  simp only [syncEntry] at h; (repeat' split at h) <;> cases h <;> rfl

theorem steady_resolveFence {s t : State} {c : Nat} {op : Word} {k : Option Bool} {w : Bool} {m : MemView} {f : Fence}
    (h : resolveFence s c op k w m = .ok (t, f)) : steady t = steady s := by
  simp only [resolveFence] at h
  (repeat' split at h) <;> cases h <;> first | rfl | simp [steady_syncEntry ‹syncEntry _ _ _ _ = .ok (_, _, _)›]

@[simp] theorem steady_compensate (s : State) (a : Atomic) : steady (compensate s a) = steady s := by
  simp [compensate]

@[simp] theorem steady_wakeQueue (s : State) (q n : Nat) : steady (wakeQueue s q n) = steady s := by
  simp only [wakeQueue]
  (repeat' split) <;> simp

@[simp] theorem steady_dropWatch (s : State) (x : RemoteWatch) :
    steady (dropWatch s x) = steady s := by
  simp only [dropWatch]
  (repeat' split) <;> simp

@[simp] theorem steady_wakeWatch (s : State) (die q : Nat) (v : Word) : steady (wakeWatch s die q v) = steady s := by
  simp only [wakeWatch]
  (repeat' split) <;> simp

@[simp] theorem steady_waiterFault (st : Status) (s : State) (w : LineWaiter) :
    steady (waiterFault st s w) = steady s := by
  simp only [waiterFault]
  (repeat' split) <;> simp

@[simp] theorem steady_takeConsume (s : State) (f : Fence) (target : Word) (w : LineWaiter) (path : ConsumePath) (c : Nat) :
    steady (takeConsume s f target w path c) = steady s := by
  simp [takeConsume]

@[simp] theorem steady_evalWaiters (word : Nat) (exact free : Bool) (own : Option LineWaiter) (l : List LineWaiter) (s : State)
    (v : Word) : steady (evalWaiters word exact free own l s v).1 = steady s := by
  induction l generalizing s v with
  | nil => rfl
  | cons w ws ih => simp only [evalWaiters]; (repeat' split) <;> simp [ih]

@[simp] theorem steady_rereadLine (s : State) (l : Nat) :
    steady (rereadLine s l) = steady s := by
  simp (disch := (intros; (repeat' split) <;> (try simp))) [rereadLine, steady_foldl]

@[simp] theorem steady_cacheWord (s : State) (l word : Nat) (v : Word) : steady (cacheWord s l word v) = steady s := by
  simp [cacheWord]

@[simp] theorem steady_cacheFence (s : State) (f : Fence) (v : Word) :
    steady (cacheFence s f v) = steady s := by
  simp only [cacheFence]
  (repeat' split) <;> simp

@[simp] theorem steady_evaluate (s : State) (f : Fence) (v : Word) (exact : Bool) (own : Option LineWaiter) :
    steady (evaluate s f v exact own) = steady s := by
  simp only [evaluate]
  (repeat' split) <;> simp

@[simp] theorem steady_noteSignal (s : State) (f : Fence) (last : W32) :
    steady (noteSignal s f last) = steady s := by
  simp only [noteSignal]
  (repeat' split) <;> simp

@[simp] theorem steady_performSignal (s : State) (a : Atomic) :
    steady (performSignal s a) = steady s := by
  simp only [performSignal]
  (repeat' split) <;> simp

@[simp] theorem steady_signalFault (s : State) (a : Atomic) (st : Status) : steady (signalFault s a st) = steady s := by
  simp only [signalFault]
  (repeat' split) <;> simp

@[simp] theorem steady_signal (s : State) (f : Fence) (v : Word) (c : Nat) (last : W32) (job : Option Nat) (deferred : Bool)    
    (pidx : Option Nat) : steady (signal s f v c last job deferred pidx) = steady s := by
  simp only [signal]
  (repeat' split) <;> simp

@[simp] theorem steady_signalRemote (s : State) (f : Fence) (v : Word) (c die : Nat) : steady
    (signalRemote s f v c die) = steady s := by
  simp only [signalRemote]
  (repeat' split) <;> simp

@[simp] theorem steady_judgeSignal (s : State) (a : Atomic) (old : Word) :
    steady (judgeSignal s a old) = steady s := by
  simp [judgeSignal]

@[simp] theorem steady_unlinkWait (s : State) (q : Nat) (w : Waiter) :
    steady (unlinkWait s q w) = steady s := by
  simp [unlinkWait]

@[simp] theorem steady_armWait (s : State) (q : Nat) (w : Waiter) : steady (armWait s q w) = steady s := by
  simp only [armWait]
  (repeat' split) <;> first | (simp; done) | simp [steady_takeLine ‹takeLine _ _ = some (_, _)›]

@[simp] theorem steady_startRemote (s : State) (q : Nat) (w : Waiter) :
    steady (startRemote s q w) = steady s := by
  simp only [startRemote]
  (repeat' split) <;> first | (simp; done) | (simp [steady_takeLine ‹takeLine _ _ = some (_, _)›]; done)

@[simp] theorem steady_startWait (s : State) (q kind : Nat) (f : Fence) (target : Word) :
    steady (startWait s q kind f target) = steady s := by
  simp only [startWait]
  (repeat' split) <;> simp

@[simp] theorem steady_readWait (s : State) (q : Nat) (v : Word) :
    steady (readWait s q v) = steady s := by
  simp [readWait]

@[simp] theorem steady_readUnlinked (s : State) (q : Nat) (v : Word) :
    steady (readUnlinked s q v) = steady s := by
  simp [readUnlinked]

@[simp] theorem steady_queueRead (s : State) (q : Nat) (value : Option Word) :
    steady (queueRead s q value) = steady s := by
  simp only [queueRead]
  (repeat' split) <;> simp

/-! ## Completion -/

@[simp] theorem steady_issuePi (s : State) (q : Nat) : steady (issuePi s q) = steady s := by
  simp only [issuePi]
  (repeat' split) <;> simp

@[simp] theorem steady_issueFetch (s : State) (q : Nat) : steady (issueFetch s q) = steady s := by
  simp only [issueFetch]
  (repeat' split) <;> simp

@[simp] theorem steady_pump (s : State) (q : Nat) : steady (pump s q) = steady s := by
  simp [pump]

@[simp] theorem steady_pumpSlice (s : State) (k : Nat) : steady (pumpSlice s k) = steady s := by
  simp (disch := (intros; (repeat' split) <;> (try simp))) [pumpSlice, steady_foldl]

@[simp] theorem steady_wakeFor (s : State) (k n : Nat) :
    steady (wakeFor s k n) = steady s := by
  simp [wakeFor]

@[simp] theorem steady_ringDoorbell (s : State) (q : Nat) : steady (ringDoorbell s q) = steady s := by
  simp [ringDoorbell]

@[simp] theorem steady_queueEnable (s : State) (q : Nat) : steady (queueEnable s q) = steady s := by
  simp only [queueEnable]
  (repeat' split) <;> simp

@[simp] theorem steady_queueDisable (s : State) (q : Nat) : steady (queueDisable s q) = steady s := by
  simp only [queueDisable]
  (repeat' split) <;> simp

@[simp] theorem steady_queueHold (s : State) (q : Nat) (v : Bool) : steady (queueHold s q v) = steady s := by
  simp [queueHold]

@[simp] theorem steady_writeRecord (s : State) (q : Nat) : steady (writeRecord s q) = steady s := by
  simp only [writeRecord]
  (repeat' split) <;> simp

@[simp] theorem steady_writeCi (s : State) (q : Nat) : steady (writeCi s q) = steady s := by
  simp only [writeCi]
  (repeat' split) <;> simp

@[simp] theorem steady_issueDeferred (m : MemView) (l : List Deferred) (s : State) (q : Nat) :
    steady (issueDeferred m l s q) = steady s := by
  induction l generalizing s with
  | nil => simp [issueDeferred]
  | cons d rest ih =>
    simp only [issueDeferred]
    (repeat' split) <;> simp [ih] <;> simp [steady_resolveFence ‹resolveFence _ _ _ _ _ _ = .ok (_, _)›]

@[simp] theorem steady_completeJob (s : State) (q : Nat) (m : MemView) : steady (completeJob s q m) = steady s := by
  simp only [completeJob]
  (repeat' split) <;> simp

theorem steady_dumpTensor {s t : State} {q : Nat} {j : Job} {a b : Word × Word} {n k : Nat} {m : MemView}
    (h : dumpTensor s q j a b n k m = .ok t) : steady t = steady s := by
  simp only [dumpTensor] at h
  (repeat' split at h) <;> cases h <;> simp [steady_vWrite ‹vWrite _ _ _ _ _ = .ok _›]

@[simp] theorem steady_takeWatches (s : State) (q : Nat) (j : Job) (m : MemView) :
    steady (takeWatches s q j m) = steady s := by
  unfold takeWatches
  apply steady_foldl
  intro t a
  (repeat' split) <;> first
    | (simp; done)
    | (simp [steady_dumpTensor ‹dumpTensor _ _ _ _ _ _ _ _ = .ok _›]; done)
    | (simp (disch := (intros; (repeat' split) <;> (try simp))) [steady_foldl]; done)
    | (simp (disch := (intros; (repeat' split) <;> (try simp))) [steady_foldl, steady_dumpTensor ‹dumpTensor _ _ _ _ _ _ _ _ = .ok _›]; done)
    | (simp_all; done)

@[simp] theorem steady_notifyQueue (s : State) (q : Nat) (j : Job) : steady (notifyQueue s q j) = steady s := by
  simp [notifyQueue]

@[simp] theorem steady_finishJob (s : State) (q : Nat) (j : Job) : steady (finishJob s q j) = steady s := by
  simp [finishJob]

/-! ## Notch -/

@[simp] theorem steady_appendLog (s : State) (p type ctx aux layer operator bytes : Nat) (digest : List Byte) : steady
    (appendLog s p type ctx aux layer operator bytes digest) = steady s := by
  simp [appendLog]

@[simp] theorem steady_sendAllRoutes (s : State) (die beat : Nat) : steady (sendAllRoutes s die beat) = steady s := by
  simp (disch := (intros; (repeat' split) <;> (try simp))) [sendAllRoutes, steady_foldl]

@[simp] theorem steady_zeroSlot (s : State) (k : Nat) : steady (zeroSlot s k) = steady s := by
  simp (disch := (intros; (repeat' split) <;> (try simp))) [zeroSlot, steady_foldl]

@[simp] theorem steady_drainRequest (s : State) (k : Nat) : steady (drainRequest s k) = steady s := by
  simp (disch := (intros; (repeat' split) <;> (try simp))) [drainRequest, steady_foldl]

@[simp] theorem steady_revokeFor (s : State) (c die key : Nat) : steady (revokeFor s c die key) = steady s := by
  simp [revokeFor]

@[simp] theorem steady_stopRequests (s : State) (k : Nat) : steady (stopRequests s k) = steady s := by
  unfold stopRequests; dsimp only
  rw [steady_foldl, steady_foldl, steady_foldl]
  · rfl
  · intro t a; (repeat' split) <;> simp
  · intro t r; split
    · simp
    · rw [steady_foldl] <;> simp
    · rfl
  · intro t e; simp

@[simp] theorem steady_drainSlot (s : State) (k : Nat) : steady (drainSlot s k) = steady s := by
  simp only [drainSlot]
  (repeat' split) <;> simp (disch := (intros; (repeat' split) <;> (try simp))) [steady_foldl]

@[simp] theorem steady_secPublish (s : State) (r : SecReq) : steady (secPublish s r) = steady s := by
  simp [secPublish]

@[simp] theorem steady_mbxAnswer (s : State) (rsp : SpdmRsp) :
    steady (mbxAnswer s rsp) = steady s := by
  simp [mbxAnswer]

@[simp] theorem steady_secComplete (s : State) (st : Status) :
    steady (secComplete s st) = steady s := by
  simp only [secComplete]
  (repeat' split) <;> simp

/-! ## Queues -/

@[simp] theorem steady_endAtFetch (s : State) (q : Nat) (r : EndRank) (st : Status) : steady
    (endAtFetch s q r st) = steady s := by
  simp [endAtFetch]

@[simp] theorem steady_malformedAtFetch (s : State) (q : Nat) (st : Status) : steady (malformedAtFetch s q st) = steady s := by
  simp [malformedAtFetch]

@[simp] theorem steady_takeEntry (s : State) (q : Nat) (ws : List Word) : steady (takeEntry s q ws) = steady s := by
  simp [takeEntry]

@[simp] theorem steady_entryError (s : State) (q : Nat) : steady (entryError s q) = steady s := by
  simp [entryError]

@[simp] theorem steady_pollPi (s : State) (q : Nat) :
    steady (pollPi s q) = steady s := by
  simp [pollPi]

@[simp] theorem steady_takeFragment (s : State) (q : Nat) (j : Job) (ws : List Word) : steady
    (takeFragment s q j ws) = steady s := by
  simp [takeFragment]

/-! ## Watershed -/

@[simp] theorem steady_waitPacket (s : State) (q kind : Nat) (ws : List Word) (m : MemView) : steady
    (waitPacket s q kind ws m) = steady s := by
  simp only [waitPacket]
  (repeat' split) <;> first | (simp; done) | simp [steady_resolveFence ‹resolveFence _ _ _ _ _ _ = .ok (_, _)›]

@[simp] theorem steady_signalPacket (s : State) (q : Nat) (counting : Bool) (ws : List Word) (m : MemView) : steady
    (signalPacket s q counting ws m) = steady s := by
  simp only [signalPacket]
  (repeat' split) <;> first | (simp; done) | simp [steady_resolveFence ‹resolveFence _ _ _ _ _ _ = .ok (_, _)›]

@[simp] theorem steady_armWatch (s : State) (x : RemoteWatch) :
    steady (armWatch s x) = steady s := by
  simp only [armWatch]
  (repeat' split) <;> first | (simp; done) | (simp [steady_takeLine ‹takeLine _ _ = some (_, _)›]; done)

@[simp] theorem steady_consumeLowered (s : State) (a : Atomic) (w : LineWaiter) (path : ConsumePath) :
    steady (consumeLowered s a w path) = steady s := by
  simp only [consumeLowered]
  (repeat' split) <;> simp

@[simp] theorem steady_judgeConsume (s : State) (a : Atomic) (w : LineWaiter) (path : ConsumePath) (o : Word) :
    steady (judgeConsume s a w path o) = steady s := by
  simp only [judgeConsume]
  (repeat' split) <;> simp

@[simp] theorem steady_watchRead (s : State) (x : RemoteWatch) (v : Word) :
    steady (watchRead s x v) = steady s := by
  simp only [watchRead]
  (repeat' split) <;> simp

@[simp] theorem steady_watchReturn (s : State) (d q : Nat) (value : Option Word) :
    steady (watchReturn s d q value) = steady s := by
  simp only [watchReturn]
  (repeat' split) <;> simp

@[simp] theorem steady_evalWords (l : Nat) (vs : List Word) (i : Nat) (s : State) : steady (evalWords l vs i s) = steady s := by
  induction vs generalizing i s with
  | nil => rfl
  | cons v vs ih => simp [evalWords, ih]

@[simp] theorem steady_noteWords (s : State) (ws : List Word) (xs : List LineWaiter) :
    steady (noteWords s ws xs) = steady s := by
  simp (disch := (intros; (repeat' split) <;> (try simp))) [noteWords, steady_foldl]

@[simp] theorem steady_signalOf (s : State) (c : Nat) (id : Nat) (counting : Bool) (v : Word) (last : W32) (m : MemView) :
    steady (signalOf s c id counting v last m) = steady s := by
  simp only [signalOf]
  (repeat' split) <;> first | (simp; done) | simp [steady_resolveFence ‹resolveFence _ _ _ _ _ _ = .ok (_, _)›]

@[simp] theorem steady_notifyFence (s : State) (c id : Nat) (m : MemView) : steady (notifyFence s c id m) = steady s := by
  simp only [notifyFence]
  (repeat' split) <;> first | (simp; done) | simp [steady_resolveFence ‹resolveFence _ _ _ _ _ _ = .ok (_, _)›]

@[simp] theorem steady_signalPage (s : State) (c off : Nat) (data : Word) (operator : Bool) (m : MemView) : steady
    (signalPage s c off data operator m) = steady s := by
  simp [signalPage]

@[simp] theorem steady_syncSignal (s : State) (e id : Nat) (counting : Bool) (v : Word) (m : MemView) : steady
    (syncSignal s e id counting v m) = steady s := by
  simp only [syncSignal]
  (repeat' split) <;> simp

@[simp] theorem steady_syncWordAddr (s : State) (c id : Nat) : steady (syncWordAddr s c id).2 = steady s := by
  simp only [syncWordAddr]; (repeat' split) <;> simp

@[simp] theorem steady_busyWake (s : State) (die b : Nat) : steady (busyWake s die b) = steady s := by
  simp [busyWake]

@[simp] theorem steady_takeWatch (s : State) (x : RemoteWatch) :
    steady (takeWatch s x) = steady s := by
  simp only [takeWatch]
  (repeat' split) <;> simp

@[simp] theorem steady_startWfg (s : State) (debug : Bool) : steady (startWfg s debug) = steady s := by
  simp [startWfg]

/-! ## Packets -/

theorem steady_writeOp {s t : State} {q : Nat} {a b : Word} {bs : List Byte} (h : writeOp s q a b bs = .ok t) :
    steady t = steady s := by
  simp only [writeOp] at h; (repeat' split at h) <;> first | cases h; done | exact steady_vWrite h

end Sys2Proof.Machine
end

