-- ==== Sys2Proof/Laws/SteadyUnits.lean ====
section
/-! SUPPORT. The memory, engine, partition and power operations keep the steady part of the state. -/

namespace Sys2Proof.Machine

/-! ## Observe -/

@[simp] theorem steady_pushEvent (s : State) (e type detail data : Nat) : steady (pushEvent s e type detail data) = steady s := by
  simp [pushEvent]

@[simp] theorem steady_countLayer (s : State) (c : Nat) (layer operator : W32) (launches : Nat) (ns : Nat × Nat) (fj : Nat) :
    steady (countLayer s c layer operator launches ns fj) = steady s := by
  simp [countLayer]

@[simp] theorem steady_dropTrace (s : State) : steady (dropTrace s) = steady s := by
  simp [dropTrace]

theorem steady_drainTrace {s t : State} {bs : List Byte} (h : drainTrace s bs = .ok t) : steady t = steady s := by
  simp only [drainTrace] at h
  split at h
  · simp [steady_vWrite h]
  · split at h <;> cases h
    simp [steady_putPieces ‹putPieces _ _ _ _ = some _›]

@[simp] theorem steady_drainError (s : State) : steady (drainError s) = steady s := by simp [drainError]

@[simp] theorem steady_putTrace (s : State) (bs : List Byte) : steady (putTrace s bs) = steady s := by
  simp only [putTrace]
  (repeat' split) <;> first | (simp; done) | simp [steady_drainTrace ‹drainTrace _ _ = .ok _›]

@[simp] theorem steady_traceRec (s : State) (kind source : Nat) (ctx : Option Nat) (stretched : Bool) (payload : Nat) : steady
    (traceRec s kind source ctx stretched payload) = steady s := by
  simp [traceRec]

@[simp] theorem steady_traceInstructions (s : State) (k p c : Nat) (fw : FwRun) : steady
    (traceInstructions s k p c fw) = steady s := by
  simp (disch := (intros; (repeat' split) <;> (try simp))) [traceInstructions, steady_foldl]

/-! ## Objects -/

@[simp] theorem steady_putPool (s : State) (p : Nat) (pool : Pool) : steady (putPool s p pool) = steady s := by
  simp (disch := (intros; (repeat' split) <;> (try simp))) [putPool, steady_foldl]

theorem steady_allocObject {s t : State} {c n hint a h va : Nat} (e : allocObject s c n hint a = .done t h va) :
    steady t = steady s := by
  simp only [allocObject] at e
  (repeat' split at e) <;> first | cases e; done | (cases e; simp; done)

@[simp] theorem steady_sendAbort (s : State) (lane : Nat) (eps : List Nat) (c : Nat) (tag : Option Nat) : steady
    (sendAbort s lane eps c tag) = steady s := by
  simp [sendAbort]

@[simp] theorem steady_groupClear (s : State) (fan : Nat) (x : Stream) : steady (groupClear s fan x) = steady s := by
  simp [groupClear]

@[simp] theorem steady_sealGo (s : State) (p : Nat) : steady (sealGo s p) = steady s := by
  simp only [sealGo]
  (repeat' split) <;> simp

@[simp] theorem steady_wakeFan (s : State) (f : Nat) :
    steady (wakeFan s f) = steady s := by
  simp (disch := (intros; (repeat' split) <;> (try simp))) [wakeFan, steady_foldl]

@[simp] theorem steady_fanSettle (s : State) (f : Nat) : steady (fanSettle s f) = steady s := by
  simp only [fanSettle]
  (repeat' split) <;> simp

@[simp] theorem steady_dropStreams (s : State) (bad : Stream → Bool) :
    steady (dropStreams s bad) = steady s := by
  unfold dropStreams
  apply steady_foldl
  intro t a
  (repeat' split) <;> first
    | (simp; done)
    | (simp (disch := (intros; (repeat' split) <;> (try simp))) [steady_foldl]; done)
    | (simp_all; done)

@[simp] theorem steady_answerUp (s : State) (e tag : Nat) (block : List Byte) : steady (answerUp s e tag block) = steady s := by
  simp [answerUp]

@[simp] theorem steady_endUp (s : State) (e tag : Nat) (block : List Byte) : steady (endUp s e tag block) = steady s := by
  simp [endUp]

@[simp] theorem steady_resumeFrees (s : State) : steady (resumeFrees s) = steady s := by
  simp (disch := (intros; (repeat' split) <;> (try simp))) [resumeFrees, steady_foldl]

@[simp] theorem steady_abortHolders (s : State) (c i : Nat) : steady (abortHolders s c i) = steady s := by
  simp (disch := (intros; (repeat' split) <;> (try simp))) [abortHolders, steady_foldl]

theorem steady_freeObject {s t : State} {c h i : Nat} (e : freeObject s c h = .ok (t, i)) : steady t = steady s := by
  simp only [freeObject] at e
  (repeat' split at e) <;> first | cases e; done | (cases e; simp; done)

@[simp] theorem steady_allocPacket (s : State) (q : Nat) (ws : List Word) : steady (allocPacket s q ws) = steady s := by
  unfold allocPacket; dsimp only
  split
  · split
    · simp
    · simp [steady_writeOp ‹writeOp _ _ _ _ _ = .ok _›]
  · simp
  · split
    · simp [steady_allocObject ‹allocObject _ _ _ _ _ = .done _ _ _›]
    · simp [steady_writeOp ‹writeOp _ _ _ _ _ = .ok _›, steady_allocObject ‹allocObject _ _ _ _ _ = .done _ _ _›]

@[simp] theorem steady_abortWork (s : State) (c : Nat) : steady (abortWork s c) = steady s := by
  simp (disch := (intros; (repeat' split) <;> (try simp))) [abortWork, steady_foldl]

@[simp] theorem steady_startAbort (s : State) (c : Nat) : steady (startAbort s c) = steady s := by
  simp (disch := (intros; (repeat' split) <;> (try simp))) [startAbort, steady_foldl]

@[simp] theorem steady_disableQueues (s : State) (c : Nat) : steady (disableQueues s c) = steady s := by
  simp (disch := (intros; (repeat' split) <;> (try simp))) [disableQueues, steady_foldl]

@[simp] theorem steady_createPacket (s : State) (q : Nat) (ws : List Word) : steady (createPacket s q ws) = steady s := by
  simp [createPacket]

/-! ## Launch -/

@[simp] theorem steady_noteSkip (s : State) (q e : Nat) (st : Status) : steady (noteSkip s q e st) = steady s := by
  simp only [noteSkip]
  (repeat' split) <;> simp

@[simp] theorem steady_skipPacket (s : State) (q : Nat) (es : List Nat) (st : Status) : steady
    (skipPacket s q es st) = steady s := by
  simp [skipPacket]

@[simp] theorem steady_reserveSlots (l : List Nat) (s : State) : steady (reserveSlots l s).1 = steady s := by
  induction l generalizing s with
  | nil => rfl
  | cons e es ih => simp only [reserveSlots]; split <;> simp [ih]

@[simp] theorem steady_issueCmd (s : State) (q : Nat) (p : Plan) (c : Cmd) (r : Nat) : steady
    (issueCmd s q p c r) = steady s := by
  simp only [issueCmd]
  (repeat' split) <;> simp (disch := (intros; (repeat' split) <;> (try simp))) [steady_foldl]

@[simp] theorem steady_runPlan (n : Nat) (s : State) (q : Nat) (p : Plan) : steady (runPlan n s q p) = steady s := by
  induction n generalizing s p with
  | zero => rfl
  | succ n ih => simp only [runPlan]; (repeat' split) <;> simp [ih]

@[simp] theorem steady_startPlan (s : State) (q : Nat) (p : Plan) (handles : List Nat) : steady
    (startPlan s q p handles) = steady s := by
  simp (disch := (intros; (repeat' split) <;> (try simp))) [startPlan, steady_foldl]

@[simp] theorem steady_launchValid (s : State) (q target : Nat) (es : List Nat) (ws : List Word) (dh : Option Nat) (gen consts :
    Nat) : steady (launchValid s q target es ws dh gen consts) = steady s := by
  simp only [launchValid]
  (repeat' split) <;> simp

theorem steady_measureMove {s t : State} {q : Nat} {ws : List Word} {m : MemView} (h : measureMove s q ws m = .ok t) :
    steady t = steady s := by
  simp only [measureMove] at h
  (repeat' split at h) <;> first | cases h; done | (cases h; simp; done)

@[simp] theorem steady_launchFrom (s : State) (q target : Nat) (es : List Nat) (a b tail : Word) (m : MemView) :
    steady (launchFrom s q target es a b tail m) = steady s := by
  simp only [launchFrom]
  split
  · simp
  · split
    · simp
    · split
      · simp
      · split
        · simp
        · split
          · split
            · simp
            · split
              · simp
              · split
                · split
                  · simp
                  · split
                    · simp
                    · simp [steady_measureMove ‹measureMove _ _ _ _ = .ok _›]
                · simp
          · simp

@[simp] theorem steady_launchGrid (s : State) (q target : Nat) (grid a b tail : Word) (m : MemView) : steady
    (launchGrid s q target grid a b tail m) = steady s := by
  simp only [launchGrid]
  (repeat' split) <;> simp

@[simp] theorem steady_moveRegions (s : State) (q ecmd e size : Nat) (regs : List (Nat × Nat × Option Nat)) (args : List Word) :
    steady (moveRegions s q ecmd e size regs args) = steady s := by
  simp [moveRegions]

/-! ## Imem -/

@[simp] theorem steady_holdLaunch (s : State) (q : Nat) (es : List Nat) :
    steady (holdLaunch s q es) = steady s := by
  simp only [holdLaunch]
  (repeat' split) <;> simp (disch := (intros; (repeat' split) <;> (try simp))) [steady_foldl]

@[simp] theorem steady_holdTargets (s : State) (es : List Nat) :
    steady (holdTargets s es) = steady s := by
  simp (disch := (intros; (repeat' split) <;> (try simp))) [holdTargets, steady_foldl]

@[simp] theorem steady_sendData (lane : Nat) (es : List Nat) (n : Nat) (bs : List Byte) (off : Nat) (s : State) :
    steady (sendData lane es n bs off s) = steady s := by
  induction n generalizing bs off s with
  | zero => rfl
  | succ n ih => simp only [sendData]; split <;> simp [ih]

@[simp] theorem steady_sendLoad (s : State) (l : Load) (body : List Byte) (tag : Nat) : steady
    (sendLoad s l body tag) = steady s := by
  simp [sendLoad]

@[simp] theorem steady_waitFan (s : State) (q : Nat) :
    steady (waitFan s q) = steady s := by
  simp [waitFan]

@[simp] theorem steady_queueStream (s : State) (q f slot : Nat) (x : Stream) :
    steady (queueStream s q f slot x) = steady s := by
  simp [queueStream]

@[simp] theorem steady_placeStream (s : State) (q f : Nat) (x : Stream) :
    steady (placeStream s q f x) = steady s := by
  simp only [placeStream]
  (repeat' split) <;> simp

@[simp] theorem steady_emitStream (s : State) (f : Nat) (x : Stream) (rest : List Stream) (body : List Byte) :
    steady (emitStream s f x rest body) = steady s := by
  simp [emitStream]

@[simp] theorem steady_loseStream (s : State) (x : Stream) (st : Status) :
    steady (loseStream s x st) = steady s := by
  simp [loseStream]

@[simp] theorem steady_endFanStream (s : State) (f : Nat) (x : Stream) (rest : List Stream) :
    steady (endFanStream s f x rest) = steady s := by
  simp [endFanStream]

/-! ## Saddle -/

@[simp] theorem steady_armWrites (s : State) (lane c : Nat) (es : List Nat) (arm : Bool) : steady
    (armWrites s lane c es arm) = steady s := by
  simp [armWrites]

@[simp] theorem steady_wakeArms (s : State) (c : Nat) : steady (wakeArms s c) = steady s := by
  simp (disch := (intros; (repeat' split) <;> (try simp))) [wakeArms, steady_foldl]

@[simp] theorem steady_chanSettle (s : State) (c : Nat) : steady (chanSettle s c) = steady s := by
  simp only [chanSettle]
  (repeat' split) <;> simp

@[simp] theorem steady_disarmSpine (s : State) (c : Nat) (es : List Nat) : steady (disarmSpine s c es) = steady s := by
  simp [disarmSpine]

@[simp] theorem steady_chanOwner (s : State) (c : Nat) (v : Bool) (p : Nat) : steady (chanOwner s c v p) = steady s := by
  simp [chanOwner]

@[simp] theorem steady_disarmAll (s : State) (es : List Nat) : steady (disarmAll s es) = steady s := by
  simp (disch := (intros; (repeat' split) <;> (try simp))) [disarmAll, steady_foldl]

@[simp] theorem steady_fanOwner (s : State) (f : Nat) (v : Bool) (p : Nat) : steady (fanOwner s f v p) = steady s := by
  simp [fanOwner]

/-! ## Capability -/

@[simp] theorem steady_writeCap (s : State) :
    steady (writeCap s) = steady s := by
  simp [writeCap]

@[simp] theorem steady_rewriteCap (s : State) : steady (rewriteCap s) = steady s := by
  simp [rewriteCap]

@[simp] theorem steady_placeCap (s : State) (base : Nat) :
    steady (placeCap s base) = steady s := by
  simp [placeCap]

@[simp] theorem steady_appendDefect (s : State) (clear : Bool) (k : UnitKind) (u stage cause : Nat) : steady
    (appendDefect s clear k u stage cause) = steady s := by
  simp [appendDefect]

@[simp] theorem steady_setUnitState (s : State) (k : UnitKind) (u : Nat) (st : UnitState) (cause : Nat) : steady
    (setUnitState s k u st cause) = steady s := by
  simp [setUnitState]

@[simp] theorem steady_setDefect (s : State) (k : UnitKind) (u cause : Nat) : steady (setDefect s k u cause) = steady s := by
  simp [setDefect]

@[simp] theorem steady_setSuspect (s : State) (k : UnitKind) (u cause : Nat) (restage : Bool) : steady
    (setSuspect s k u cause restage) = steady s := by
  simp only [setSuspect]
  (repeat' split) <;> simp

@[simp] theorem steady_clearUnits (s : State) (p : Nat) (es : List Nat) (owner : List Byte) : steady
    (clearUnits s p es owner) = steady s := by
  simp (disch := (intros; (repeat' split) <;> (try simp))) [clearUnits, steady_foldl]

@[simp] theorem steady_changeOwner (s : State) (p : Nat) (owner : List Byte) : steady (changeOwner s p owner) = steady s := by
  simp (disch := (intros; (repeat' split) <;> (try simp))) [changeOwner, steady_foldl]

@[simp] theorem steady_endSeal (s : State) (p : Nat) : steady (endSeal s p) = steady s := by
  simp [endSeal]

/-! ## Lifecycle -/

@[simp] theorem steady_answerAborts (s : State) (c : Nat) : steady (answerAborts s c) = steady s := by
  simp (disch := (intros; (repeat' split) <;> (try simp))) [answerAborts, steady_foldl]

@[simp] theorem steady_startClear (s : State) (c : Nat) : steady (startClear s c) = steady s := by
  simp [startClear]

@[simp] theorem steady_startRemoval (s : State) (c : Nat) : steady (startRemoval s c) = steady s := by
  simp only [startRemoval]
  (repeat' split) <;> simp (disch := (intros; (repeat' split) <;> (try simp))) [steady_foldl]

@[simp] theorem steady_clearRings (s : State) (c : Nat) : steady (clearRings s c) = steady s := by
  simp [clearRings]

@[simp] theorem steady_freeQueues (s : State) (c : Nat) : steady (freeQueues s c) = steady s := by
  simp (disch := (intros; (repeat' split) <;> (try simp))) [freeQueues, steady_foldl]

@[simp] theorem steady_removeContext (s : State) (c : Nat) :
    steady (removeContext s c) = steady s := by
  simp only [removeContext]
  (repeat' split) <;> simp

@[simp] theorem steady_refuseQueue (s : State) (q : Nat) (st : Status) : steady (refuseQueue s q st) = steady s := by
  simp [refuseQueue]

@[simp] theorem steady_refuseUp (s : State) (e tag : Nat) : steady (refuseUp s e tag) = steady s := by
  simp [refuseUp]

@[simp] theorem steady_serveAlloc (s : State) (e tag c size hint attr : Nat) : steady
    (serveAlloc s e tag c size hint attr) = steady s := by
  simp only [serveAlloc]
  (repeat' split) <;> first | (simp; done) | simp [steady_allocObject ‹allocObject _ _ _ _ _ = .done _ _ _›]

theorem steady_upstream (s : State) (e b0 b1 op : Nat) (f : State → Nat → Nat → State) (h : ∀ t c k, steady
    (f t c k) = steady t) :
    steady (upstream s e b0 b1 op f) = steady s := by
  simp only [upstream]; (repeat' split) <;> simp [h]

@[simp] theorem steady_upAlloc (s : State) (e b0 b1 : Nat) : steady (upAlloc s e b0 b1) = steady s :=
  steady_upstream s e b0 b1 1 _ (fun t c k => steady_serveAlloc t e k c _ _ _)

@[simp] theorem steady_upFree (s : State) (e b0 : Nat) : steady (upFree s e b0) = steady s := by
  apply steady_upstream; intro t c k
  (repeat' split) <;> first | (simp; done) | simp [steady_freeObject ‹freeObject _ _ _ = .ok (_, _)›]

@[simp] theorem steady_upOther (s : State) (e b0 b1 : Nat) :
    steady (upOther s e b0 b1) = steady s := by
  simp only [upOther]
  (repeat' split) <;> simp

@[simp] theorem steady_upstreamIn (s : State) (k : UpKind) (e b0 b1 : Nat) :
    steady (upstreamIn s k e b0 b1) = steady s := by
  simp only [upstreamIn]
  (repeat' split) <;> simp

@[simp] theorem steady_upstreamEvent (s : State) (k : UpKind) (e b0 b1 : Nat) :
    steady (upstreamEvent s k e b0 b1) = steady s :=
  steady_spineEvent s _ _ (fun t => steady_upstreamIn t k e b0 b1)

@[simp] theorem steady_resumePacket (s : State) (q : Nat) : steady (resumePacket s q) = steady s := by
  simp only [resumePacket]
  (repeat' split) <;> simp

/-! ## Veld -/

@[simp] theorem steady_askHub (s : State) (h f : Nat) : steady (askHub s h f) = steady s := by
  simp [askHub]

@[simp] theorem steady_askRail (s : State) (r mv : Nat) : steady (askRail s r mv) = steady s := by
  simp [askRail]

@[simp] theorem steady_changeHubs (s : State) (hs : List Nat) (f : Nat) : steady (changeHubs s hs f) = steady s := by
  simp (disch := (intros; (repeat' split) <;> (try simp))) [changeHubs, steady_foldl]

@[simp] theorem steady_markChanging (s : State) (g : List Nat × List Nat) (f : Nat) :
    steady (markChanging s g f) = steady s := by
  simp (disch := (intros; (repeat' split) <;> (try simp))) [markChanging, steady_foldl]

@[simp] theorem steady_changeGroup (s : State) (g : List Nat × List Nat) (f : Nat) : steady (changeGroup s g f) = steady s := by
  simp (disch := (intros; (repeat' split) <;> (try simp))) [changeGroup, steady_foldl]

@[simp] theorem steady_bindMhz (s : State) (p : Nat) :
    steady (bindMhz s p) = steady s := by
  simp [bindMhz]

@[simp] theorem steady_applyGroup (s : State) (g : List Nat × List Nat) : steady (applyGroup s g) = steady s := by
  simp [applyGroup]

@[simp] theorem steady_windowGroup (s : State) (g : List Nat × List Nat) : steady (windowGroup s g) = steady s := by
  simp [windowGroup]

@[simp] theorem steady_windowLoose (s : State) (h : Nat) : steady (windowLoose s h) = steady s := by
  simp [windowLoose]

@[simp] theorem steady_settleGroups (s : State) : steady (settleGroups s) = steady s := by
  unfold settleGroups; apply steady_foldl; intro t a
  (repeat' split) <;> simp (disch := (intros; (repeat' split) <;> (try simp))) [steady_foldl]

@[simp] theorem steady_propose (s : State) (p : Nat) : steady (propose s p) = steady s := by
  simp [propose]

@[simp] theorem steady_coordinate (s : State) (p : Nat) : steady (coordinate s p) = steady s := by
  simp (disch := (intros; (repeat' split) <;> (try simp))) [coordinate, steady_foldl]

@[simp] theorem steady_setChosen (s : State) (p f : Nat) : steady (setChosen s p f) = steady s := by
  simp [setChosen]

@[simp] theorem steady_refuseFreq (s : State) (die : Nat) : steady (refuseFreq s die) = steady s := by
  simp [refuseFreq]

@[simp] theorem steady_learnPut (s : State) (l : Learn) : steady (learnPut s l) = steady s := by
  simp [learnPut]

@[simp] theorem steady_learnUse (s : State) (l : Option Learn) : steady (learnUse s l) = steady s := by
  cases l <;> simp [learnUse]

@[simp] theorem steady_learnEnd (s : State) (p : Nat) : steady (learnEnd s p) = steady s := by
  simp only [learnEnd]
  (repeat' split) <;> simp

@[simp] theorem steady_rechoose (s : State) (p : Nat) : steady (rechoose s p) = steady s := by
  simp [rechoose]

@[simp] theorem steady_veldLayer (s : State) (p : Nat) (layer : W32) : steady (veldLayer s p layer) = steady s := by
  simp [veldLayer]

@[simp] theorem steady_takeHint (s : State) (p : Nat) (layer : W32) (durUs : Nat) : steady
    (takeHint s p layer durUs) = steady s := by
  simp only [takeHint]
  (repeat' split) <;> simp

@[simp] theorem steady_applyVld (s : State) (w : VldWrite) : steady (applyVld s w) = steady s := by
  simp only [applyVld]
  (repeat' split) <;> first | rfl | simp

theorem ite_both {α : Type} (P : α → Prop) {c : Prop} [Decidable c] {a b : α} (ha : P a) (hb : P b) :
    P (if c then a else b) := by
  split <;> assumption

theorem applyVld_keeps (s : State) (w : VldWrite) :
    (applyVld s w).hubs = s.hubs ∧ (applyVld s w).pins = s.pins ∧ (applyVld s w).vld.energyDie = s.vld.energyDie ∧
      (applyVld s w).vld.meas = s.vld.meas := by
  unfold applyVld
  dsimp only
  repeat' refine ite_both (fun t : State => t.hubs = s.hubs ∧ t.pins = s.pins ∧ t.vld.energyDie = s.vld.energyDie ∧
    t.vld.meas = s.vld.meas) ?_ ?_
  all_goals exact ⟨rfl, rfl, rfl, rfl⟩

/-- The writes a window takes leave the hubs, the pins, the die's energy and the measurement alone. -/
theorem applyWrites_keeps (s : State) :
    (applyWrites s).hubs = s.hubs ∧ (applyWrites s).pins = s.pins ∧ (applyWrites s).vld.energyDie = s.vld.energyDie ∧
      (applyWrites s).vld.meas = s.vld.meas := by
  have h : ∀ (l : List VldWrite) (t : State), (l.foldl applyVld t).hubs = t.hubs ∧ (l.foldl applyVld t).pins = t.pins ∧
      (l.foldl applyVld t).vld.energyDie = t.vld.energyDie ∧ (l.foldl applyVld t).vld.meas = t.vld.meas := by
    intro l
    induction l with
    | nil => exact fun t => ⟨rfl, rfl, rfl, rfl⟩
    | cons w ws ih =>
      intro t
      obtain ⟨a, b, c, d⟩ := ih (applyVld t w)
      obtain ⟨e, f, g, i⟩ := applyVld_keeps t w
      exact ⟨a.trans e, b.trans f, c.trans g, d.trans i⟩
  exact h s.vld.late { s with vld := { s.vld with late := [] } }

@[simp] theorem steady_applyWrites (s : State) : steady (applyWrites s) = steady s := by
  unfold applyWrites
  rw [steady_foldl _ (fun t w => by simp)]; rfl

@[simp] theorem steady_finishRelease (s : State) : steady (finishRelease s) = steady s := by
  unfold finishRelease; split
  · rw [steady_foldl _ (fun t a => by simp)]; rfl
  · rfl

@[simp] theorem steady_askReady (s : State) : steady (askReady s) = steady s := by
  simp only [askReady]
  rw [steady_foldl]
  · apply steady_foldl; intro t g; split
    · rfl
    · apply steady_foldl; intro u h; simp
  · intro t h; (repeat' split) <;> simp

@[simp] theorem steady_chargeJob (s : State) (q : Nat) (layer operator : W32) (e : Nat) : steady
    (chargeJob s q layer operator e) = steady s := by
  simp [chargeJob]

@[simp] theorem steady_chargeCtx (s : State) (c : Nat) (layer operator : W32) (e : Nat) : steady
    (chargeCtx s c layer operator e) = steady s := by
  simp [chargeCtx]

@[simp] theorem steady_chargeEp (s : State) (e fj : Nat) : steady (chargeEp s e fj) = steady s := by
  simp only [chargeEp]
  (repeat' split) <;> simp

@[simp] theorem steady_chargeHub (s : State) (group : Bool) (e : HubEnergy) : steady (chargeHub s group e) = steady s := by
  simp (disch := (intros; (repeat' split) <;> (try simp))) [chargeHub, steady_foldl]

@[simp] theorem steady_measure (s : State) : steady (measure s) = steady s := by
  simp only [measure]
  (repeat' split) <;> simp

theorem steady_vldOf (s : State) (x : Veld) (p k : Nat) : steady (count { s with vld := x } p k) = steady s := by simp

@[simp] theorem steady_conflict (s : State) (p tier : Nat) : steady (conflict s p tier) = steady s := steady_vldOf s _ _ _

@[simp] theorem steady_shareAll (s : State) (es : List HubEnergy) : steady (shareAll s es) = steady s := by
  simp only [shareAll]
  (repeat' split) <;> simp (disch := (intros; (repeat' split) <;> (try simp))) [steady_foldl]

@[simp] theorem steady_recordWindow (s : State) (es : List HubEnergy) (p : Nat) :
    steady (recordWindow s es p) = steady s := by
  simp [recordWindow]

@[simp] theorem steady_learnWindow (s : State) (es : List HubEnergy) (p : Nat) : steady (learnWindow s es p) = steady s := by
  simp [learnWindow]

@[simp] theorem steady_setEst (s : State) (gain : Nat) : steady (setEst s gain) = steady s := steady_vldOf s _ _ _

theorem steady_vldIs (s : State) (x : Veld) : steady { s with vld := x } = steady s := by simp

@[simp] theorem steady_chargeUncore (s : State) (gain : Nat) : steady (chargeUncore s gain) = steady s := steady_vldIs s _

@[simp] theorem steady_closeWindow (s : State) : steady (closeWindow s) = steady s := by
  simp (disch := (intros; (repeat' split) <;> (try simp))) [closeWindow, steady_foldl]

@[simp] theorem steady_skipWindow (s : State) : steady (skipWindow s) = steady s := by
  simp (disch := (intros; (repeat' split) <;> (try simp))) [skipWindow, steady_foldl]

/-! ## Graphs -/

@[simp] theorem steady_releaseArea (s : State) (c : Nat) (x : GSlot) : steady (releaseArea s c x) = steady s := by
  simp [releaseArea]

@[simp] theorem steady_failPatch (s : State) (q : Nat) (st : Status) : steady (failPatch s q st) = steady s := by
  simp [failPatch]

@[simp] theorem steady_finishPatch (s : State) (q i key slot : Nat) (src : List Word) (ws : List Word) (m : MemView) : steady
    (finishPatch s q i key slot src ws m) = steady s := by
  simp only [finishPatch]
  (repeat' split) <;> first | (simp; done) | simp [steady_putPieces ‹putPieces _ _ _ _ = some _›]

@[simp] theorem steady_patchFrom (s : State) (q i : Nat) (ws : List Word) (m : MemView) : steady
    (patchFrom s q i ws m) = steady s := by
  simp only [patchFrom]
  (repeat' split) <;> simp

@[simp] theorem steady_patchTurn (s : State) (q : Nat) :
    steady (patchTurn s q) = steady s := by
  simp only [patchTurn]
  (repeat' split) <;> simp

@[simp] theorem steady_patchWaits (s : State) (q key : Nat) :
    steady (patchWaits s q key) = steady s := by
  simp [patchWaits]

theorem steady_holdPatch {s t : State} {q i : Nat} {ws : List Word} (h : holdPatch s q ws = .ok (t, i)) :
    steady t = steady s := by
  simp only [holdPatch] at h
  (repeat' split at h) <;> first | (cases h; done) | (cases h; simp)

@[simp] theorem steady_histTouch (s : State) (c g layer : Nat) : steady (histTouch s c g layer) = steady s := by
  simp only [histTouch]
  (repeat' split) <;> simp

theorem steady_dlRecords (s : State) (x : Deadlines) : steady { s with dl := x } = steady s := by simp

@[simp] theorem steady_recordMiss (s : State) (q layer pred d kind : Nat) : steady (recordMiss s q layer pred d kind) = steady s :=
  steady_dlRecords s _

@[simp] theorem steady_closeRuns (q : Nat) (up levels : List Frame) (s : State) :
    steady (closeNested.closeRuns q up levels s) = steady s := by
  induction up generalizing levels s with
  | nil => cases levels <;> rfl
  | cons f up ih =>
    cases levels with
    | nil => rfl
    | cons g levels =>
      simp only [closeNested.closeRuns, ih]
      split <;> simp

@[simp] theorem steady_closeNested (s : State) (q keep : Nat) : steady (closeNested s q keep) = steady s := by
  simp only [closeNested]; split <;> simp

@[simp] theorem steady_deadlineCheck (s : State) (q : Nat) (j : Job) (layer : Nat) : steady
    (deadlineCheck s q j layer).1 = steady s := by
  simp only [deadlineCheck]
  (repeat' split) <;> simp (disch := (intros; (repeat' split) <;> (try simp))) [steady_foldl]

@[simp] theorem steady_takeTag (s : State) (q : Nat) (layer operator : W32) : steady (takeTag s q layer operator) = steady s := by
  simp only [takeTag]
  (repeat' split) <;> simp

/-! ## Partitions -/

@[simp] theorem steady_writePace (s : State) (c l : Nat) : steady (writePace s c l) = steady s := by
  simp only [writePace]
  (repeat' split) <;> first | (simp; done) | simp [steady_vWrite ‹vWrite _ _ _ _ _ = .ok _›]

@[simp] theorem steady_paceAll (s : State) (p : Nat) : steady (paceAll s p) = steady s := by
  unfold paceAll; apply steady_foldl; intro t a
  (repeat' split) <;> simp (disch := (intros; (repeat' split) <;> (try simp))) [steady_foldl]

@[simp] theorem steady_gridWrite (s : State) (op p gen : Nat) (m : Members) (cores : List Nat) : steady
    (gridWrite s op p gen m cores) = steady s := by
  simp [gridWrite]

@[simp] theorem steady_bindOwners (s : State) (p kind : Nat) (us : List Nat) : steady (bindOwners s p kind us) = steady s := by
  simp (disch := (intros; (repeat' split) <;> (try simp))) [bindOwners, steady_foldl]

@[simp] theorem steady_bindDone (s : State) (p : Nat) : steady (bindDone s p) = steady s := by
  simp only [bindDone]
  (repeat' split) <;> simp

@[simp] theorem steady_stageGo (s : State) (p : Nat) : steady (stageGo s p) = steady s := by
  simp [stageGo]

@[simp] theorem steady_applyBind (s : State) (q p kind : Nat) (un : Bool) (es : List BindEntry) : steady
    (applyBind s q p kind un es) = steady s := by
  simp [applyBind]

@[simp] theorem steady_migSettle (s : State) (p : Nat) : steady (migSettle s p) = steady s := by
  simp only [migSettle]
  (repeat' split) <;> simp

@[simp] theorem steady_bindTurn (s : State) (q : Nat) :
    steady (bindTurn s q) = steady s := by
  simp only [bindTurn]
  (repeat' split) <;> simp

@[simp] theorem steady_bindPacket (s : State) (q : Nat) (ws : List Word) (un : Bool) (m : MemView) : steady
    (bindPacket s q ws un m) = steady s := by
  simp only [bindPacket]
  (repeat' split) <;> simp

theorem steady_moveGranule {s t : State} {p c : Nat} {e : PageEntry} (h : moveGranule s p c e = some t) :
    steady t = steady s := by
  simp only [moveGranule] at h
  (repeat' split at h) <;> first | cases h; done | (cases h; simp; done)

@[simp] theorem steady_moveGranules (l : List PageEntry) (p c : Nat) (s : State) : steady (moveGranules l p c s) = steady s := by
  induction l generalizing s with
  | nil => rfl
  | cons e es ih =>
    simp only [moveGranules]; split
    · rw [ih, steady_moveGranule ‹_›]
    · rfl

@[simp] theorem steady_migrated (s : State) (p c old new key : Nat) (ok : Bool) :
    steady (migrated s p c old new key ok) = steady s := by
  simp only [migrated]
  (repeat' split) <;> simp

@[simp] theorem steady_moveUnits (s : State) (old new : Members) (p : Nat) : steady (moveUnits s old new p) = steady s := by
  simp (disch := (intros; (repeat' split) <;> (try simp))) [moveUnits, steady_foldl]

@[simp] theorem steady_finishSwap (s : State) (p : Nat) : steady (finishSwap s p) = steady s := by
  simp only [finishSwap]
  (repeat' split) <;> simp

@[simp] theorem steady_swapSettle (s : State) (p : Nat) : steady (swapSettle s p) = steady s := by
  simp [swapSettle]

@[simp] theorem steady_tableFault (s : State) (p op e : Nat) : steady (tableFault s p op e) = steady s := by
  simp [tableFault]

@[simp] theorem steady_tableSettle (s : State) (p : Nat) : steady (tableSettle s p) = steady s := by
  simp [tableSettle]

@[simp] theorem steady_tableLate (e : Nat) (t : State) (h : Nat × Nat × LaunchRec × Nat × Nat) :
    steady (tableLate e t h) = steady t := by
  simp [tableLate]

/-! ## Regulation -/

@[simp] theorem steady_throttle (s : State) (m : Nat) : steady (throttle s m) = steady s := by
  simp [throttle]

@[simp] theorem steady_sendLimit (s : State) (lims : List (Nat × Nat)) (m : Nat) : steady (sendLimit s lims m) = steady s := by
  simp only [sendLimit]
  (repeat' split) <;> simp

/-! ## Units -/

@[simp] theorem steady_karLoad (s : State) (e : Nat) :
    steady (karLoad s e) = steady s := by
  simp [karLoad]

@[simp] theorem steady_karMessages (s : State) (cold : Bool) (e : Nat) :
    steady (karMessages s cold e) = steady s := by
  simp (disch := (intros; (repeat' split) <;> (try simp))) [karMessages, steady_foldl]

@[simp] theorem steady_runClear (s : State) (k : UnitKind) (u : Nat) : steady (runClear s k u) = steady s := by
  simp only [runClear]
  (repeat' split) <;> simp

@[simp] theorem steady_applyRun (s : State) (k : UnitKind) (u : Nat) (r : RunResult) :
    steady (applyRun s k u r) = steady s := by
  simp only [applyRun]
  (repeat' split) <;> simp (disch := (intros; (repeat' split) <;> (try simp))) [steady_foldl]

@[simp] theorem steady_endTest (s : State) (q : Nat) (passed : Bool) :
    steady (endTest s q passed) = steady s := by
  simp [endTest]

@[simp] theorem steady_restage (s : State) (e : Nat) : steady (restage s e) = steady s := by
  simp [restage]

@[simp] theorem steady_runUnit (s : State) (k : UnitKind) (u : Nat) (r : RunResult) :
    steady (runUnit s k u r) = steady s := by
  simp (disch := (intros; (repeat' split) <;> (try simp))) [runUnit, steady_foldl]

@[simp] theorem steady_keyAck (s : State) (k d : Nat) : steady (keyAck s k d) = steady s := by
  simp [keyAck]

@[simp] theorem steady_keyAckAll (s : State) (d : Nat) : steady (keyAckAll s d) = steady s := by
  simp (disch := (intros; (repeat' split) <;> (try simp))) [keyAckAll, steady_foldl]

@[simp] theorem steady_abortCmd (s : State) (e tag : Nat) : steady (abortCmd s e tag) = steady s := by
  simp only [abortCmd]
  (repeat' split) <;> simp

@[simp] theorem steady_modReset (s : State) (id : Nat) (f : ResetOp → ResetOp) : steady (modReset s id f) = steady s := by
  simp [modReset]

@[simp] theorem steady_finishReset (s : State) (id : Nat) : steady (finishReset s id) = steady s := by
  simp only [finishReset]
  (repeat' split) <;> simp

@[simp] theorem steady_resetSettle (s : State) (id : Nat) : steady (resetSettle s id) = steady s := by
  simp only [resetSettle]
  (repeat' split) <;> simp

@[simp] theorem steady_startReset (s : State) (id : Nat) (es : List Nat) (disarm : Bool) : steady
    (startReset s id es disarm) = steady s := by
  simp (disch := (intros; (repeat' split) <;> (try simp))) [startReset, steady_foldl]

@[simp] theorem steady_partialReset (s : State) (q : Nat) (ws : List Word) : steady (partialReset s q ws) = steady s := by
  simp (disch := (intros; (repeat' split) <;> (try simp))) [partialReset, steady_foldl]

@[simp] theorem steady_startRetrain (s : State) (m id : Nat) : steady (startRetrain s m id) = steady s := by
  simp [startRetrain]

@[simp] theorem steady_endRetrain (s : State) (m : Nat) (ok : Bool) : steady (endRetrain s m ok) = steady s := by
  simp only [endRetrain]
  (repeat' split) <;> simp

@[simp] theorem steady_releaseHeld (s : State) (l : Nat) : steady (releaseHeld s l) = steady s := by
  simp (disch := (intros; (repeat' split) <;> (try simp))) [releaseHeld, steady_foldl]

@[simp] theorem steady_linkRetrained (s : State) (q : Nat) (ok : Bool) : steady (linkRetrained s q ok) = steady s := by
  simp only [linkRetrained]
  (repeat' split) <;> simp

@[simp] theorem steady_issueLinkRetrain (s : State) (q l e : Nat) : steady (issueLinkRetrain s q l e) = steady s := by
  simp only [issueLinkRetrain]
  (repeat' split) <;> simp

@[simp] theorem steady_stateReport (s : State) (m st : Nat) : steady (stateReport s m st) = steady s := by
  simp only [stateReport]
  (repeat' split) <;> simp

end Sys2Proof.Machine
end

