-- ==== Sys2Proof/Laws/SteadyHost.lean ====
section
/-! SUPPORT. The Notch, bring-up, tokens, routines and ports keep the steady part of the state. -/

namespace Sys2Proof.Machine

/-! ## Keys -/

@[simp] theorem steady_refuseInstall (s : State) (q k : Nat) (st : Status) : steady (refuseInstall s q k st) = steady s := by
  simp [refuseInstall]

@[simp] theorem steady_installKey (s : State) (k p c : Nat) (y : KeyPayload) : steady (installKey s k p c y) = steady s := by
  simp (disch := (intros; (repeat' split) <;> (try simp))) [installKey, steady_foldl]

/-! ## Firmware -/

@[simp] theorem steady_loadSlice (s : State) (k : Nat) (im : List Byte) : steady (loadSlice s k im) = steady s := by
  simp [loadSlice]

@[simp] theorem steady_loadSpine (s : State) (im : List Byte) :
    steady (loadSpine s im) = steady s := by
  simp [loadSpine]

@[simp] theorem steady_logActivation (s : State) (part : Nat) (digest : List Byte) : steady
    (logActivation s part digest) = steady s := by
  simp (disch := (intros; (repeat' split) <;> (try simp))) [logActivation, steady_foldl]

@[simp] theorem steady_stopParts (s : State) :
    steady (stopParts s) = steady s := by
  simp only [stopParts]
  (repeat' split) <;> simp

@[simp] theorem steady_nextPart (s : State) : steady (nextPart s) = steady s := by
  simp only [nextPart]
  (repeat' split) <;> simp

@[simp] theorem steady_refuseStore (s : State) (dst : Nat) : steady (refuseStore s dst) = steady s := by
  simp [refuseStore]

@[simp] theorem steady_spiGo (s : State) : steady (spiGo s) = steady s := by
  simp [spiGo]

@[simp] theorem steady_rcvBegin (s : State) : steady (rcvBegin s) = steady s := by
  simp [rcvBegin]

@[simp] theorem steady_rcvAppend (s : State) (w : Word) : steady (rcvAppend s w) = steady s := by
  simp [rcvAppend]

@[simp] theorem steady_rcvVerify (s : State) : steady (rcvVerify s) = steady s := by
  simp [rcvVerify]

@[simp] theorem steady_rcvProgram (s : State) : steady (rcvProgram s) = steady s := by
  simp only [rcvProgram]
  (repeat' split) <;> simp

@[simp] theorem steady_rcvBoot (s : State) : steady (rcvBoot s) = steady s := by
  simp [rcvBoot]

/-! ## Bringup -/

@[simp] theorem steady_blockReset (s : State) :
    steady (blockReset s) = { steady s with sliceAwake := 0, spineAwake := false } := rfl

@[simp] theorem steady_startBoot (s : State) (warm : Bool) : steady (startBoot s warm) = steady s := by
  simp [startBoot]

@[simp] theorem steady_writeStage (s : State) (n : Nat) : steady (writeStage s n) = steady s := by
  simp [writeStage]

@[simp] theorem steady_endStage (s : State) (n result a b code : Nat) : steady (endStage s n result a b code) = steady s := by
  simp [endStage]

@[simp] theorem steady_zeroStale (s : State) : steady (zeroStale s) = steady s := by
  unfold zeroStale; apply steady_foldl; intro t a
  (repeat' split) <;> simp (disch := (intros; (repeat' split) <;> (try simp))) [steady_foldl]

theorem steady_notchKeys (s : State) (cold : Bool) (im : List Byte) :
    steady (notchKeys s cold im) = { steady s with bootDigest := if cold then imgDigest im else s.ntc.bootDigest } := by
  simp only [notchKeys]
  rw [steady_foldl]
  · cases cold <;> rfl
  · intro t c; simp

@[simp] theorem steady_noteDefect (s : State) (kind id stage cause : Nat) : steady
    (noteDefect s kind id stage cause) = steady s := by
  simp [noteDefect]

@[simp] theorem steady_discovery (s : State) (hubs : List Nat) (second : Bool) : steady (discovery s hubs second) = steady s := by
  simp [discovery]

@[simp] theorem steady_foundEp (s : State) (x : Found) : steady (foundEp s x) = steady s := by
  simp [foundEp]

@[simp] theorem steady_fuseLinks (s : State) : steady (fuseLinks s) = steady s := by
  simp (disch := (intros; (repeat' split) <;> (try simp))) [fuseLinks, steady_foldl]

@[simp] theorem steady_chanIn (s : State) (x : ChanIn) : steady (chanIn s x) = steady s := by
  simp [chanIn]

@[simp] theorem steady_linkIn (s : State) (x : LinkIn) : steady (linkIn s x) = steady s := by
  simp [linkIn]

@[simp] theorem steady_silentLink (s : State) (e : Nat) :
    steady (silentLink s e) = steady s := by
  simp [silentLink]

@[simp] theorem steady_bootRun (s : State) (r : BitVec 14 × RunResult) : steady (bootRun s r) = steady s := by
  simp [bootRun]

@[simp] theorem steady_releaseFloor (s : State) : steady (releaseFloor s) = steady s := by
  simp (disch := (intros; (repeat' split) <;> (try simp))) [releaseFloor, steady_foldl]

@[simp] theorem steady_doBind0 (s : State) : steady (doBind0 s) = steady s := by
  simp [doBind0]

theorem steady_makeCtx0 {s t : State} (h : makeCtx0 s = .done t) : steady t = steady s := by
  simp only [makeCtx0] at h
  (repeat' split at h) <;> first | (cases h; done) | (cases h; simp)

theorem steady_doMap0 {s t : State} (h : doMap0 s = .done t) : steady t = steady s := by
  have go : ∀ (l : List (Nat × Nat × Nat)) (o : Setup), (∀ u, o = .done u → steady u = steady s) →
      ∀ v, l.foldl (fun t r => match t with
        | .done u => (match allocObject u 0 r.2.1 r.1 (r.2.2 % 8) with
          | .done v _ _ => .done v
          | .wait => .wait
          | .fail _ => .fail)
        | x => x) o = .done v → steady v = steady s := by
    intro l
    induction l with
    | nil => intro o ho v hv; exact ho v hv
    | cons r rs ih =>
      intro o ho v hv
      refine ih _ ?_ v hv
      intro u hu
      dsimp only at hu
      split at hu
      · split at hu
        · cases hu; rw [steady_allocObject ‹_›]; exact ho _ rfl
        · cases hu
        · cases hu
      · exact ho _ hu
  exact go _ (.done s) (by intro u hu; cases hu; rfl) t h

theorem steady_makeQueue0 {s t : State} (h : makeQueue0 s = some t) : steady t = steady s := by
  simp only [makeQueue0] at h
  (repeat' split at h) <;> first | cases h; done | (cases h; simp [steady_vWrite ‹vWrite _ _ _ _ _ = .ok _›]; done)

@[simp] theorem steady_makeSecQueue (s : State) : steady (makeSecQueue s) = steady s := by
  simp [makeSecQueue]

@[simp] theorem steady_fillPools (s : State) :
    steady (fillPools s) = steady s := by
  simp (disch := (intros; (repeat' split) <;> (try simp))) [fillPools, steady_foldl]

@[simp] theorem steady_appendNew (s : State) : steady (appendNew s) = steady s := by
  simp (disch := (intros; (repeat' split) <;> (try simp))) [appendNew, steady_foldl]

@[simp] theorem steady_begin7 (s : State) :
    steady (begin7 s) = steady s := by
  simp [begin7]

@[simp] theorem steady_finish7 (s : State) (handed : Nat) : steady (finish7 s handed) = steady s := by
  simp [finish7]

/-! ## Tokens -/

@[simp] theorem steady_jobToken (s : State) (q : Nat) (ns : Nat × Nat) (stretched : Bool) (skip : Option Status) : steady
    (jobToken s q ns stretched skip) = steady s := by
  simp [jobToken]

@[simp] theorem steady_ctxToken (s : State) (c : Nat) (ns : Nat × Nat) : steady (ctxToken s c ns) = steady s := by
  simp [ctxToken]

@[simp] theorem steady_takeToken (s : State) (k r e : Nat) (x : LaunchRec) : steady (takeToken s k r e x) = steady s := by
  simp (disch := (intros; (repeat' split) <;> (try simp))) [takeToken, steady_foldl]

@[simp] theorem steady_retireCmd (s : State) (e tag : Nat) : steady (retireCmd s e tag) = steady s := by
  simp [retireCmd]

@[simp] theorem steady_settleResets (s : State) : steady (settleResets s) = steady s := by
  simp (disch := (intros; (repeat' split) <;> (try simp))) [settleResets, steady_foldl]

@[simp] theorem steady_zeroToken (s : State) (g : Nat) (ok : Bool) : steady (zeroToken s g ok) = steady s := by
  simp only [zeroToken]
  (repeat' split) <;> simp

@[simp] theorem steady_jobPurpose (s : State) (q e st : Nat) (ns : Nat × Nat) (stretched : Bool) (x : LaunchRec) : steady
    (jobPurpose s q e st ns stretched x) = steady s := by
  simp only [jobPurpose]
  (repeat' split) <;> simp

@[simp] theorem steady_orphanPurpose (s : State) (e st : Nat) (ns : Nat × Nat) (x : LaunchRec) : steady
    (orphanPurpose s e st ns x) = steady s := by
  simp only [orphanPurpose]
  (repeat' split) <;> simp

@[simp] theorem steady_tablePurpose (s : State) (p op e st : Nat) (late : Bool) : steady
    (tablePurpose s p op e st late) = steady s := by
  simp [tablePurpose]

@[simp] theorem steady_tokenPurpose (s : State) (e st : Nat) (ns : Nat × Nat) (stretched : Bool) (x : LaunchRec) : steady
    (tokenPurpose s e st ns stretched x) = steady s := by
  simp only [tokenPurpose]
  (repeat' split) <;> simp

@[simp] theorem steady_acceptToken (s : State) (k r e tag st cycles : Nat) (stretched : Bool) (x : LaunchRec) : steady
    (acceptToken s k r e tag st cycles stretched x) = steady s := by
  simp [acceptToken]

@[simp] theorem steady_tokenIn (s : State) (e tag st cycles : Nat) (stretched : Bool) :
    steady (tokenIn s e tag st cycles stretched) = steady s := by
  simp only [tokenIn]
  (repeat' split) <;> simp

@[simp] theorem steady_absorbCmd (t : State) (c : Nat × Nat) :
    steady (absorbCmd t c) = steady t := by
  simp only [absorbCmd]
  (repeat' split) <;> simp

/-! ## Faults -/

@[simp] theorem steady_markFired (s : State) (c : Nat) : steady (markFired s c) = steady s := by
  simp [markFired]

@[simp] theorem steady_wdogLose (s : State) (cycle : List Nat) (st : Status) (c : Nat) : steady
    (wdogLose s cycle st c) = steady s := by
  simp [wdogLose]

@[simp] theorem steady_wdogFire (s : State) (c : Nat) (m : MemView) : steady (wdogFire s c m) = steady s := by
  simp only [wdogFire]
  (repeat' split) <;> simp (disch := (intros; (repeat' split) <;> (try simp))) [steady_foldl]

@[simp] theorem steady_eccLose (s : State) (c : Nat) (job : Option Nat) : steady (eccLose s c job) = steady s := by
  simp only [eccLose]
  (repeat' split) <;> simp

@[simp] theorem steady_eccQueue (s : State) (q : Nat) : steady (eccQueue s q) = steady s := by
  simp [eccQueue]

@[simp] theorem steady_lossMark (s : State) (e i : Nat) : steady (lossMark s e i) = steady s := by
  simp [lossMark]

@[simp] theorem steady_traceMark (s : State) (i : Nat) :
    steady (traceMark s i) = steady s := by
  simp [traceMark]

@[simp] theorem steady_eccOutcome (s : State) (i : EccItem) : steady (eccOutcome s i) = steady s := by
  cases i <;> simp only [eccOutcome] <;> (repeat' split) <;> simp

@[simp] theorem steady_traceTime (s : State) : steady (traceTime s) = steady s := by
  simp only [traceTime]
  (repeat' split) <;> simp

@[simp] theorem steady_startTrace (s : State) (o : TraceOwner) (no ctx : Nat) : steady (startTrace s o no ctx) = steady s := by
  simp only [startTrace]
  (repeat' split) <;> simp

/-! ## Twin -/

@[simp] theorem steady_doorbell (s : State) (q cls c : Nat) : steady (doorbell s q cls c).1 = steady s := by
  simp only [doorbell]; (repeat' split) <;> simp

@[simp] theorem steady_forwardDoorbell (s : State) (q cls c : Nat) : steady (forwardDoorbell s q cls c) = steady s := by
  simp [forwardDoorbell]

@[simp] theorem steady_twinDoorbell (s : State) (q cls c : Nat) : steady (twinDoorbell s q cls c) = steady s := by
  simp [twinDoorbell]

@[simp] theorem steady_handBack (s : State) : steady (handBack s) = steady s := by
  simp (disch := (intros; (repeat' split) <;> (try simp))) [handBack, steady_foldl]

theorem steady_fromTwin (s : State) (die : Nat) (f : State → State) (h : ∀ t, steady (f t) = steady t) :
    steady (fromTwin s die f) = steady s := by
  simp only [fromTwin]; (repeat' split) <;> simp [h]

/-! ## Routines -/

theorem steady_wr {s t : State} {q va : Nat} {bs : List Byte} (h : wr s q va bs = .ok t) : steady t = steady s := steady_vWrite h

@[simp] theorem steady_free32 (s : State) : steady (free32 s).2 = steady s := by simp [free32]

@[simp] theorem steady_waitProc (s : State) (q : Nat) (id : Nat) : steady (waitProc s q id) = steady s := by
  simp [waitProc]

@[simp] theorem steady_routineTurn (s : State) (q : Nat) :
    steady (routineTurn s q) = steady s := by
  simp [routineTurn]

@[simp] theorem steady_enterCall (s : State) (q : Nat) :
    steady (enterCall s q) = steady s := by
  simp [enterCall]

@[simp] theorem steady_freeProc (s : State) (q : Nat) : steady (freeProc s q) = steady s := by
  simp only [freeProc]
  (repeat' split) <;> simp

@[simp] theorem steady_putOutputs (l : List (Nat × List Byte)) (s : State) (q : Nat) :
    steady (putOutputs s q l).1 = steady s := by
  induction l generalizing s with
  | nil => rfl
  | cons x xs ih =>
    simp only [putOutputs]; split
    · rw [ih, steady_wr ‹_›]
    · rfl

@[simp] theorem steady_putCommit (l : List (Nat × List Byte)) (e : Option Status) (s : State) (q : Nat) :
    steady (putCommit s q l e).1 = steady s := by
  induction l generalizing s e with
  | nil => rfl
  | cons x xs ih =>
    simp only [putCommit]; split
    · rw [ih, steady_wr ‹_›]
    · rw [ih]

@[simp] theorem steady_endRoutine (s : State) (q : Nat) (v : Word) (st : Status) : steady (endRoutine s q v st) = steady s := by
  simp [endRoutine]

@[simp] theorem steady_failRoutine (s : State) (q : Nat) (st : Status) : steady (failRoutine s q st) = steady s := by
  simp [failRoutine]

@[simp] theorem steady_softmaxWeight (s : State) (x : FVal) (xs : List FVal) : steady (softmaxWeight s x xs).2 = steady s := by
  simp only [softmaxWeight]; (repeat' split) <;> first | rfl | exact steady_takeFree s

@[simp] theorem steady_routeWeight (s : State) (mode : Nat) (l : List FVal) (sel : List Nat) (e : Nat) :
    steady (routeWeight s mode l sel e).2 = steady s := by
  simp only [routeWeight]; (repeat' split) <;> simp

@[simp] theorem steady_placeToken (mode cap : Nat) (lg : List FVal) (sel l : List Nat)
    (a : State × List Word × List Nat × Nat) :
    steady (placeToken mode cap lg sel l a).1 = steady a.1 := by
  induction l generalizing a with
  | nil => rfl
  | cons e es ih => simp only [placeToken]; split <;> simp [ih]

@[simp] theorem steady_shapeRun (l : List ShapeEntry) (s : State) (q dva : Nat) (src : Nat → Except Status Nat) (n : Nat) :
    steady (shapeRun s q dva src l n).1 = steady s := by
  induction l generalizing s n with
  | nil => rfl
  | cons e es ih =>
    simp only [shapeRun]; split
    · rfl
    · split
      · exact steady_putOutputs _ _ _
      · rw [ih]; exact steady_putOutputs _ _ _

@[simp] theorem steady_clampWord (s : State) (f : FVal → FVal → FVal) (x y : FVal) : steady (clampWord s f x y).2 = steady s := by
  simp only [clampWord]; split <;> simp

@[simp] theorem steady_lossUpdate (s : State) (r : List Byte) (o : Bool) : steady (lossUpdate s r o).1 = steady s := by
  simp only [lossUpdate]; (repeat' split) <;> simp

theorem steady_dumpOrDrop {s t : State} {q : Nat} {j : Job} {a b : Word × Word} {n k : Nat} {m : MemView}
    (h : dumpOrDrop s q j a b n m = .ok (t, k)) : steady t = steady s := by
  simp only [dumpOrDrop] at h
  split at h
  · cases h; exact steady_dumpTensor ‹_›
  · split at h <;> cases h
    simp

@[simp] theorem steady_endAlloc (s : State) (q : Nat) (p : List Byte) (h : Nat) (st : Status) (va : Nat) : steady
    (endAlloc s q p h st va) = steady s := by
  simp only [endAlloc]
  (repeat' split) <;> first | (simp; done) | simp [steady_writeOp ‹writeOp _ _ _ _ _ = .ok _›]

/-! ## Debug -/

@[simp] theorem steady_authNew (s : State) : steady (authNew s) = steady s := by
  simp only [authNew]
  (repeat' split) <;> simp

@[simp] theorem steady_authCheck (s : State) : steady (authCheck s) = steady s := by
  simp only [authCheck]
  (repeat' split) <;> simp

@[simp] theorem steady_authClose (s : State) : steady (authClose s) = steady s := by
  simp [authClose]

/-! ## RegWrite -/

@[simp] theorem steady_putSel (s : State) (v : View) (p off bits : Nat) (d : Word) : steady
    (putSel s v p off bits d) = steady s := by
  simp [putSel]

@[simp] theorem steady_irqEdge (before after : Page) (s : State) (p : Nat) : steady (irqEdge before after s p) = steady s := by
  simp [irqEdge]

@[simp] theorem steady_putCommon (s : State) (v : View) (p off : Nat) (d : Word) : steady (putCommon s v p off d) = steady s := by
  simp [putCommon]

@[simp] theorem steady_putIrqTarget (s : State) (w : W32) : steady (putIrqTarget s w) = steady s := by
  simp (disch := (intros; (repeat' split) <;> (try simp))) [putIrqTarget, steady_foldl]

@[simp] theorem steady_putID (s : State) (v : View) (off : Nat) (d : Word) : steady (putID s v off d) = steady s := by
  simp [putID]

@[simp] theorem steady_putHFE (s : State) (v : View) (off : Nat) (d cover : Word) : steady
    (putHFE s v off d cover) = steady s := by
  simp [putHFE]

@[simp] theorem steady_putBSN (s : State) (v : View) (off : Nat) (d : Word) : steady (putBSN s v off d) = steady s := by
  simp (disch := (intros; (repeat' split) <;> (try simp))) [putBSN, steady_foldl]

@[simp] theorem steady_putQueueCtrl (s : State) (v : View) (q : Nat) (d : Word) : steady (putQueueCtrl s v q d) = steady s := by
  simp [putQueueCtrl]

@[simp] theorem steady_putSTP (s : State) (v : View) (off : Nat) (d : Word) : steady (putSTP s v off d) = steady s := by
  simp [putSTP]

@[simp] theorem steady_syncInval (s : State) (c : Nat) (all : Bool) (id : Nat) : steady (syncInval s c all id) = steady s := by
  simp [syncInval]

@[simp] theorem steady_putProbe (s : State) (v : View) (d cover : Word) (b0 : Bool) (m : MemView) : steady
    (putProbe s v d cover b0 m) = steady s := by
  simp [putProbe]

@[simp] theorem steady_putWSH (s : State) (v : View) (off : Nat) (d cover : Word) (b0 : Bool) (m : MemView) : steady
    (putWSH s v off d cover b0 m) = steady s := by
  simp [putWSH]

@[simp] theorem steady_putSAD (s : State) (v : View) (off : Nat) (d : Word) : steady (putSAD s v off d) = steady s := by
  simp only [putSAD]
  (repeat' split) <;> simp

@[simp] theorem steady_putECP (s : State) (v : View) (off : Nat) (d cover : Word) : steady
    (putECP s v off d cover) = steady s := by
  simp [putECP]

@[simp] theorem steady_putFAN (s : State) (v : View) (off : Nat) (d : Word) : steady (putFAN s v off d) = steady s := by
  simp only [putFAN]
  (repeat' split) <;> simp

@[simp] theorem steady_putOBJ (s : State) (v : View) (off : Nat) (d : Word) : steady (putOBJ s v off d) = steady s := by
  simp [putOBJ]

@[simp] theorem steady_putSpad (s : State) (c base size : Nat) : steady (putSpad s c base size) = steady s := by
  simp [putSpad]

@[simp] theorem steady_putSCH (s : State) (v : View) (off : Nat) (d cover : Word) : steady
    (putSCH s v off d cover) = steady s := by
  simp [putSCH]

@[simp] theorem steady_putBWR (s : State) (v : View) (off : Nat) (d : Word) : steady (putBWR s v off d) = steady s := by
  simp [putBWR]

@[simp] theorem steady_putNTC (s : State) (v : View) (off : Nat) (d : Word) : steady (putNTC s v off d) = steady s := by
  simp [putNTC]

@[simp] theorem steady_putLate (s : State) (w : VldWrite) : steady (putLate s w) = steady s := rfl

@[simp] theorem steady_putRack (s : State) (d : Word) : steady (putRack s d) = steady s := by
  simp [putRack]

@[simp] theorem steady_putVLD (s : State) (v : View) (off : Nat) (d cover : Word) : steady
    (putVLD s v off d cover) = steady s := by
  simp [putVLD]

@[simp] theorem steady_putTraceCtrl (s : State) (v : View) (d : Word) : steady (putTraceCtrl s v d) = steady s := by
  simp [putTraceCtrl]

@[simp] theorem steady_putLOE (s : State) (v : View) (off : Nat) (d cover : Word) : steady
    (putLOE s v off d cover) = steady s := by
  simp [putLOE]

@[simp] theorem steady_putRcv (s : State) (d : Word) : steady (putRcv s d) = steady s := by
  simp [putRcv]

@[simp] theorem steady_putSpi (s : State) (d : Word) : steady (putSpi s d) = steady s := by
  simp [putSpi]

@[simp] theorem steady_putSWB (s : State) (v : View) (off : Nat) (d cover : Word) : steady
    (putSWB s v off d cover) = steady s := by
  simp [putSWB]

@[simp] theorem steady_putPER (s : State) (v : View) (off : Nat) (d : Word) : steady (putPER s v off d) = steady s := by
  simp [putPER]

@[simp] theorem steady_putMGT (s : State) (v : View) (off : Nat) (d : Word) : steady (putMGT s v off d) = steady s := by
  simp [putMGT]

@[simp] theorem steady_putDBG (s : State) (v : View) (off : Nat) (d : Word) : steady (putDBG s v off d) = steady s := by
  simp [putDBG]

@[simp] theorem steady_putReg (s : State) (v : View) (p off : Nat) (d cover : Word) (b0 : Bool) (m : MemView) : steady
    (putReg s v p off d cover b0 m) = steady s := by
  simp [putReg]

@[simp] theorem steady_put64 (s : State) (v : View) (p off : Nat) (d : Word) (lo hi : Bool) (m : MemView) : steady
    (put64 s v p off d lo hi m) = steady s := by
  simp [put64]

/-! ## Host -/

@[simp] theorem steady_hostReply (s : State) (id : BitVec 8) (outs : List Out) :
    steady (hostReply s id outs) = steady s := by
  simp [hostReply]

@[simp] theorem steady_hostAnswer (s : State) (id : BitVec 8) (resp : Nat) :
    steady (hostAnswer s id resp) = steady s := by
  simp [hostAnswer]

theorem steady_dbgDr (s : State) (x : Dbg) (o : Out) : steady (emit { s with dbg := x } o) = steady s := by simp

@[simp] theorem steady_debugAnswer (s : State) (err : Bool) (data : Nat) : steady (debugAnswer s err data) = steady s := by
  unfold debugAnswer; split
  · exact steady_dbgDr s _ _
  · rfl

@[simp] theorem steady_writeAnswer (s : State) (v : View) (id : BitVec 8) (resp : Nat) :
    steady (writeAnswer s v id resp) = steady s := by
  simp only [writeAnswer]
  (repeat' split) <;> simp

@[simp] theorem steady_mgmtAnswer (s : State) (data : Nat) :
    steady (mgmtAnswer s data) = steady s := by
  simp [mgmtAnswer]

@[simp] theorem steady_wakePage (s : State) (p : Nat) : steady (wakePage s p) = steady s := by
  simp only [wakePage]
  (repeat' split) <;> simp

@[simp] theorem steady_hold (s : State) (p : Nat) (h : Held) : steady (hold s p h) = steady s := by
  simp [hold]

@[simp] theorem steady_putBeats (s : State) (v : View) (bs : List RegBeat) (m : MemView) :
    steady (putBeats s v bs m) = steady s := by
  simp (disch := (intros; (repeat' split) <;> (try simp))) [putBeats, steady_foldl]

@[simp] theorem steady_doWrite (s : State) (v : View) (id : BitVec 8) (resp : Nat) (bs : List RegBeat) (m : MemView) :
    steady (doWrite s v id resp bs m) = steady s := by
  simp [doWrite]

@[simp] theorem steady_acceptWrite (s : State) (v : View) (id : BitVec 8) (resp : Nat) (bs : List RegBeat) (m : MemView) :
    steady (acceptWrite s v id resp bs m) = steady s := by
  simp [acceptWrite]

@[simp] theorem steady_doRead (s : State) (v : View) (id : BitVec 8) (bs : List (Option RegBeat)) :
    steady (doRead s v id bs) = steady s := by
  simp [doRead]

@[simp] theorem steady_acceptRead (s : State) (v : View) (id : BitVec 8) (bs : List (Option RegBeat)) :
    steady (acceptRead s v id bs) = steady s := by
  simp [acceptRead]

@[simp] theorem steady_hostRefuse (s : State) (r : HostReq) (write : Bool) (resp : Nat) (privilege : Bool) :
    steady (hostRefuse s r write resp privilege) = steady s := by
  simp [hostRefuse]

theorem steady_judged (s : State) (r : HostReq) (f : State → State) (h : ∀ t, steady (f t) = steady t) :
    steady (judged s r f) = steady s := by
  simp only [judged]; (repeat' split) <;> simp [h]

@[simp] theorem steady_hostRegWrite (s : State) (r : HostReq) (d : Word) (m : MemView) :
    steady (hostRegWrite s r d m) = steady s := by
  simp [hostRegWrite]

@[simp] theorem steady_hostRegRead (s : State) (r : HostReq) :
    steady (hostRegRead s r) = steady s := by
  simp [hostRegRead]

@[simp] theorem steady_mgmtRefuse (s : State) : steady (mgmtRefuse s) = steady s := by
  simp [mgmtRefuse]

@[simp] theorem steady_mgmtWrite (s0 : State) (addr : Nat) (d : W32) (strb : Nat) :
    steady (mgmtWrite s0 addr d strb) = steady s0 := by
  simp only [mgmtWrite]
  (repeat' split) <;> simp

@[simp] theorem steady_windowRead (s : State) : steady (windowRead s).1 = steady s := by
  simp only [windowRead]; (repeat' split) <;> simp

@[simp] theorem steady_doMgmtRead (s : State) (addr : Nat) : steady (doMgmtRead s addr) = steady s := by
  simp only [doMgmtRead]
  (repeat' split) <;> simp

@[simp] theorem steady_mgmtRead (s0 : State) (addr : Nat) : steady (mgmtRead s0 addr) = steady s0 := by
  simp only [mgmtRead]
  (repeat' split) <;> simp

@[simp] theorem steady_doDebugRead (s : State) (off : Nat) (wide : Bool) : steady (doDebugRead s off wide) = steady s := by
  simp [doDebugRead]

@[simp] theorem steady_debugRead (s : State) (off : Nat) (wide : Bool) : steady (debugRead s off wide) = steady s := by
  simp [debugRead]

@[simp] theorem steady_alignedWrite (s : State) (v : View) (off : Nat) (wide : Bool) (d : Word) (m : MemView) :
    steady (alignedWrite s v off wide d m) = steady s := by
  simp [alignedWrite]

@[simp] theorem steady_debugWrite (s : State) (off : Nat) (wide : Bool) (d : Word) (m : MemView) : steady
    (debugWrite s off wide d m) = steady s := by
  simp [debugWrite]

@[simp] theorem steady_regWrite (s : State) (r : RegReq) (m : MemView) : steady (regWrite s r m) = steady s := by
  cases r with
  | host h d =>
    simp only [regWrite]
    apply steady_judged; intro t; split <;> simp
  | mgmt a d b => simp only [regWrite]; split <;> simp
  | security off wide d => simp only [regWrite]; split <;> simp
  | debug off wide d => simp only [regWrite]; split <;> simp

@[simp] theorem steady_doorbellAccepted (s : State) (r : HostReq) :
    steady (doorbellAccepted s r) = steady s := by
  simp [doorbellAccepted]

@[simp] theorem steady_signalAccepted (s : State) (r : HostReq) (d : Word) (m : MemView) :
    steady (signalAccepted s r d m) = steady s := by
  simp only [signalAccepted]; split
  · simp
  · rw [steady_spineEvent]
    · simp
    · intro t; simp

@[simp] theorem steady_deliver (s : State) (h : Held) (m : MemView) :
    steady (deliver s h m) = steady s := by
  simp only [deliver]
  (repeat' split) <;> simp

@[simp] theorem steady_deliverAll (m : MemView) (l : List Held) (b : List Nat) (s : State) : steady
    (deliverAll m l b s) = steady s := by
  induction l generalizing b s with
  | nil => rfl
  | cons h rest ih => simp only [deliverAll]; split <;> simp [ih]

@[simp] theorem steady_deliverHeld (s : State) (m : MemView) :
    steady (deliverHeld s m) = steady s := by
  simp [deliverHeld]

/-! ## Mailbox -/

@[simp] theorem steady_State_setMbx (s : State) (x : Mailbox) : steady (State.setMbx s x) = steady s := by
  simp [State.setMbx]

theorem steady_mbxWrite (s : State) (h : HostReq) (d : Word) (go : Option (State → State))
    (k : ∀ f, go = some f → ∀ t, steady (f t) = steady t) : steady (mbxWrite s h d go) = steady s := by
  simp only [mbxWrite]
  (repeat' split) <;> simp
  rename_i f _
  simp [k f rfl]

@[simp] theorem steady_mbxRead (s0 : State) (h : HostReq) :
    steady (mbxRead s0 h) = steady s0 := by
  simp [mbxRead]

@[simp] theorem steady_hostRead (s : State) (h : HostReq) :
    steady (hostRead s h) = steady s := by
  simp only [hostRead]
  (repeat' split) <;> simp

@[simp] theorem steady_State_setSessions (s : State) (xs : List Session) : steady (State.setSessions s xs) = steady s := by
  simp [State.setSessions]

@[simp] theorem steady_modSession (s : State) (sid : Nat) (f : Session → Session) : steady (modSession s sid f) = steady s := by
  simp [modSession]

@[simp] theorem steady_endOf (s : State) (sid : Nat) : steady (endOf s sid) = steady s := by
  simp [endOf]

theorem steady_inSession (s : State) (sid : Nat) (f : State → State) (h : ∀ t, steady (f t) = steady t) :
    steady (inSession s sid f) = steady s := by
  simp only [inSession]; split <;> simp [h]

@[simp] theorem steady_vendorAnswer (s : State) (st : Status) : steady (vendorAnswer s st) = steady s := by
  simp [vendorAnswer]

end Sys2Proof.Machine
end

