-- ==== Sys2Proof/Laws/SteadyRows.lean ====
section
/-! SUPPORT. Each command, but those of resets, wakes, sleeps, stages 0 and 2 and AUTH_RESULT, keeps the steady part of the state. -/

namespace Sys2Proof.Machine

@[simp] theorem after_next (s t : State) : after s (.next t) = t := rfl
@[simp] theorem after_fault (s : State) (f : Fault) : after s (.fault f) = s := rfl
@[simp] theorem after_refused (s : State) (r : Refusal) : after s (.refused r) = s := rfl

theorem steady_packetRow (s u : State) (q op : Nat) (tokens : List Word → Bool) (f : State → Job → List Word → State)
    (h : ∀ t j ws, steady (f t j ws) = steady t) : steady (after s (packetRow u q op tokens f)) = steady u :=
  steady_runPacket u q op tokens f h

/-- The same of a packet whose turn is first taken. -/
theorem steady_turnRow {s u : State} {q op : Nat} {tokens : List Word → Bool} {f : State → Job → List Word → State}
    (e : steady u = steady s) (h : ∀ t j ws, steady (f t j ws) = steady t) : steady (after s (packetRow u q op tokens f)) = steady s :=
  (steady_packetRow s u q op tokens f h).trans e

theorem steady_waitRow (s : State) (q op : Nat) (w : List Word → Bool) (f : State → Job → List Word → State)
    (h : ∀ t j ws, steady (f t j ws) = steady t) : steady (after s (waitRow s q op w f)) = steady s := by
  simp only [waitRow]; (repeat' split) <;> first | rfl | exact steady_packetRow s s q op _ f h

theorem steady_atStage (s : State) (n : Nat) (f : State → State) (h : ∀ t, steady (f t) = steady t) :
    steady (after s (atStage s n f)) = steady s := by
  simp only [atStage]; split <;> simp [h]

theorem steady_mbxRow (s : State) (r : RegReq) (go : Option (State → State)) (k : ∀ f, go = some f → ∀ t, steady (f t) = steady t) :
    steady (after s (mbxRow s r go)) = steady s := by
  cases r with
  | host h d => simp only [mbxRow]; split <;> simp; exact steady_judged _ _ _ (fun t => steady_mbxWrite t h d go k)
  | mgmt a d b => rfl
  | security a b c => rfl
  | debug a b c => rfl

@[simp] theorem steady_mbxRow_none (s : State) (r : RegReq) : steady (after s (mbxRow s r none)) = steady s :=
  steady_mbxRow s r none (by intro f h; cases h)

theorem steady_goRow (s : State) (r : RegReq) (f : State → State) (h : ∀ t, steady (f t) = steady t) :
    steady (after s (goRow s r f)) = steady s :=
  steady_mbxRow s r _ (by intro g e; cases e; exact h)

theorem steady_vendorRow (s : State) (r : RegReq) (sid : BitVec 16) (body : List Byte) (n : Nat) (f : State → Nat → State)
    (h : ∀ t k, steady (f t k) = steady t) : steady (after s (vendorRow s r sid body n f)) = steady s := by
  apply steady_goRow; intro t; split <;> simp [h]

@[simp] theorem steady_signalRow (s : State) (r : HostReq) (d : Word) (m : MemView) (ok : Bool) :
    steady (after s (signalRow s r d m ok)) = steady s := by
  simp only [signalRow]; split
  · simp only [after_next]; apply steady_judged; intro t; simp
  · rfl

@[simp] theorem steady_writeRow (s : State) (r : RegReq) (p off : Nat) (ok : Nat → Bool) (m : MemView) :
    steady (after s (writeRow s r p off ok m)) = steady s := by
  simp only [writeRow]; (repeat' split) <;> simp

@[simp] theorem steady_writeRow64 (s : State) (r : RegReq) (p off : Nat) (m : MemView) :
    steady (after s (writeRow64 s r p off m)) = steady s := by
  simp only [writeRow64]; (repeat' split) <;> simp

/-! ### Routines -/

/-- A routine's result leaves the steady part as it was. -/
def Still (s : State) (r : Except Status Done) : Prop := ∀ d, r = .ok d → steady d.st = steady s

theorem still_bind {α : Type} {s : State} {x : Except Status α} {k : α → Except Status Done} (h : ∀ a, Still s (k a)) :
    Still s (x >>= k) := by
  cases x with
  | error e => intro d hd; cases hd
  | ok a => exact h a

theorem still_okBind {α : Type} {s : State} {a : α} {k : α → Except Status Done} (h : Still s (k a)) :
    Still s (Except.ok a >>= k) := h

theorem still_wr {s u : State} {q va : Nat} {bs : List Byte} {k : State → Except Status Done}
    (h : ∀ t, steady t = steady u → Still s (k t)) : Still s (wr u q va bs >>= k) := by
  cases e : wr u q va bs with
  | error e => intro d hd; cases hd
  | ok t => exact h t (steady_wr e)

theorem still_ok {s t : State} {v : Word} {st : Status} {e : Option Status} (h : steady t = steady s) : Still s (.ok ⟨t, v, st, e⟩) := by
  intro d hd; cases hd; exact h

theorem still_dump {s u : State} {q : Nat} {j : Job} {a b : Word × Word} {n : Nat} {m : MemView}
    {k : State × Nat → Except Status Done} (h : ∀ t, steady t.1 = steady u → Still s (k t)) : Still s (dumpOrDrop u q j a b n m >>= k) := by
  cases e : dumpOrDrop u q j a b n m with
  | error e => intro d hd; cases hd
  | ok t => exact h t (steady_dumpOrDrop e)

theorem still_error {s : State} {e : Status} : Still s (.error e) := by intro d hd; cases hd

theorem steady_placeTokens (mode cap k : Nat) (f : Nat → List FVal) (l : List Nat) (a : State × List Word × List Nat × Nat) :
    steady (l.foldl (fun a t => placeToken mode cap (f t) (topK (f t) k) (topK (f t) k) a) a).1 = steady a.1 := by
  induction l generalizing a with
  | nil => rfl
  | cons t ts ih => simp [ih]

theorem steady_routineRow (s : State) (q id : Nat) (f : List Byte → Except Status Done) (h : ∀ p, Still s (f p)) :
    steady (after s (routineRow s q id f)) = steady s := by
  simp only [routineRow]
  (repeat' split) <;> first | rfl | (simp; done) | simp [h _ _ ‹_ = Except.ok _›]

theorem still_scaleTensor (s : State) (q va : Nat) (f : Fmt) (b : Bool) (r : List Byte) (n : Nat) :
    Still s (scaleTensor s q va f b r n) := by
  simp only [scaleTensor]
  split
  · exact still_ok (steady_putCommit _ _ _ _)
  · split <;> exact still_ok (by rw [steady_putCommit]; split <;> simp)

theorem steady_execPollDue (qb : BitVec 18) (s : State) : steady (after s (execPollDue qb s)) = steady s := by
  simp only [execPollDue]
  (repeat' split) <;> simp

theorem steady_execPiReadReturn (qb : BitVec 18) (data : Option Word) (s : State) : steady (after s
    (execPiReadReturn qb data s)) = steady s := by
  simp only [execPiReadReturn]
  (repeat' split) <;> simp

theorem steady_entryReturn (q : Nat) (data : Option (List Word)) (s : State) : steady (after s (entryReturn q data s)) = steady s := by
  simp only [entryReturn]
  (repeat' split) <;> simp

theorem steady_execEntryReadReturn (qb : BitVec 18) (data : Option (List Word)) (s : State) : steady (after s
    (execEntryReadReturn qb data s)) = steady s := by
  have h := steady_entryReturn qb.toNat data s
  unfold execEntryReadReturn
  generalize entryReturn qb.toNat data s = r at h
  cases r <;> simp_all

theorem steady_execFragmentReadReturn (qb : BitVec 18) (data : Option (List Word)) (s : State) : steady (after s
    (execFragmentReadReturn qb data s)) = steady s := by
  simp only [execFragmentReadReturn]
  (repeat' split) <;> simp

theorem steady_execFragmentBufferGrant (k : BitVec 3) (s : State) : steady (after s
    (execFragmentBufferGrant k s)) = steady s := by
  simp only [execFragmentBufferGrant]
  (repeat' split) <;> first | (simp; done) | simp [steady_takeBuf ‹takeBuf _ _ = some _›]

theorem steady_execConstImageGrant (k : BitVec 3) (s : State) : steady (after s (execConstImageGrant k s)) = steady s := by
  simp only [execConstImageGrant]
  (repeat' split) <;> first | (simp; done) | simp [steady_takeImg ‹takeImg _ _ = some _›]

theorem steady_execJobCompletion (qb : BitVec 18) (m : MemView) (s : State) : steady (after s
    (execJobCompletion qb m s)) = steady s := by
  simp only [execJobCompletion]
  (repeat' split) <;> simp

theorem steady_execCompletionRecordComplete (qb : BitVec 18) (ok : Bool) (s : State) : steady (after s
    (execCompletionRecordComplete qb ok s)) = steady s := by
  simp only [execCompletionRecordComplete]
  (repeat' split) <;> simp

theorem steady_execCiWriteComplete (qb : BitVec 18) (ok : Bool) (s : State) : steady (after s
    (execCiWriteComplete qb ok s)) = steady s := by
  simp only [execCiWriteComplete]
  (repeat' split) <;> simp

theorem steady_execPcrdGrant (qb : BitVec 18) (w : ChiWait) (s : State) : steady (after s (execPcrdGrant qb w s)) = steady s := by
  simp only [execPcrdGrant]
  (repeat' split) <;> simp

theorem steady_execWaitFence (q : BitVec 18) (m : MemView) (s : State) : steady (after s (execWaitFence q m s)) = steady s := by
  simp only [execWaitFence]
  apply steady_packetRow; intro t j ws
  simp

theorem steady_execWaitCount (q : BitVec 18) (m : MemView) (s : State) : steady (after s (execWaitCount q m s)) = steady s := by
  simp only [execWaitCount]
  apply steady_packetRow; intro t j ws
  simp

theorem steady_execSignalFence (q : BitVec 18) (m : MemView) (s : State) : steady (after s
    (execSignalFence q m s)) = steady s := by
  simp only [execSignalFence]
  apply steady_packetRow; intro t j ws
  simp

theorem steady_execCredit (q : BitVec 18) (m : MemView) (s : State) : steady (after s (execCredit q m s)) = steady s := by
  simp only [execCredit]
  apply steady_packetRow; intro t j ws
  simp

theorem steady_execFenceAtomicComplete (n : Nat) (old : Option Word) (m : MemView) (s : State) : steady (after s
    (execFenceAtomicComplete n old m s)) = steady s := by
  simp only [execFenceAtomicComplete]
  (repeat' split) <;> simp

theorem steady_execConsumeAddReturn (n : Nat) (old : Option Word) (s : State) : steady (after s
    (execConsumeAddReturn n old s)) = steady s := by
  simp only [execConsumeAddReturn]
  (repeat' split) <;> first | (simp; done) | simp [steady_takeLine ‹takeLine _ _ = some (_, _)›]

theorem steady_execFenceRecheckReturn (qb : BitVec 18) (die : Option (BitVec 16)) (value : Option Word) (s : State) : steady
    (after s (execFenceRecheckReturn qb die value s)) = steady s := by
  simp only [execFenceRecheckReturn]
  (repeat' split) <;> simp

theorem steady_execLineRereadReturn (lb : BitVec 16) (data : Option (List Word)) (s : State) : steady (after s
    (execLineRereadReturn lb data s)) = steady s := by
  simp only [execLineRereadReturn]
  (repeat' split) <;> simp (disch := (intros; (repeat' split) <;> (try simp))) [steady_foldl]

theorem steady_execUnlinkedReread (qb : BitVec 18) (die : Option (BitVec 16)) (s : State) : steady (after s
    (execUnlinkedReread qb die s)) = steady s := by
  simp only [execUnlinkedReread]
  (repeat' split) <;> simp

theorem steady_execRemoteWatchRetry (qb : BitVec 18) (s : State) : steady (after s (execRemoteWatchRetry qb s)) = steady s := by
  simp only [execRemoteWatchRetry]
  (repeat' split) <;> simp

theorem steady_execSyncSignal (e : BitVec 14) (id : BitVec 24) (v : Word) (m : MemView) (s : State) : steady (after s
    (execSyncSignal e id v m s)) = steady s := by
  simp [execSyncSignal]

theorem steady_execSyncAdd (e : BitVec 14) (id : BitVec 24) (v : Word) (m : MemView) (s : State) : steady (after s
    (execSyncAdd e id v m s)) = steady s := by
  simp [execSyncAdd]

theorem steady_execReservedSyncOp (e : BitVec 14) (_id : BitVec 24) (op : BitVec 2) (_v : Word) (s : State) : steady (after s
    (execReservedSyncOp e _id op _v s)) = steady s := by
  simp only [execReservedSyncOp]
  (repeat' split) <;> simp

theorem steady_execFenceSignal (die : BitVec 16) (beat : BitVec 256) (s : State) : steady (after s
    (execFenceSignal die beat s)) = steady s := by
  simp only [execFenceSignal, after_next]
  apply steady_peerIn; intro t b
  simp

theorem steady_execFenceWatch (die : BitVec 16) (beat : BitVec 256) (s : State) : steady (after s
    (execFenceWatch die beat s)) = steady s := by
  simp only [execFenceWatch, after_next]
  apply steady_peerIn; intro t b
  (repeat' split) <;> first | (simp; done) | simp [steady_takeLine ‹takeLine _ _ = some (_, _)›]

theorem steady_execFenceUnwatch (die : BitVec 16) (beat : BitVec 256) (s : State) : steady (after s
    (execFenceUnwatch die beat s)) = steady s := by
  simp only [execFenceUnwatch, after_next]
  apply steady_peerIn; intro t b
  (repeat' split) <;> simp

theorem steady_execFenceWake (die : BitVec 16) (beat : BitVec 256) (s : State) : steady (after s
    (execFenceWake die beat s)) = steady s := by
  simp only [execFenceWake, after_next]
  apply steady_peerIn; intro t b
  simp

theorem steady_execFenceFault (die : BitVec 16) (beat : BitVec 256) (s : State) : steady (after s
    (execFenceFault die beat s)) = steady s := by
  simp only [execFenceFault, after_next]
  apply steady_peerIn; intro t b
  simp

theorem steady_execWfgDone (s : State) : steady (after s (execWfgDone s)) = steady s := by
  simp only [execWfgDone]
  (repeat' split) <;> simp

theorem steady_execNop (q : BitVec 18) (s : State) : steady (after s (execNop q s)) = steady s := by
  simp only [execNop]
  apply steady_packetRow; intro t j ws
  simp

theorem steady_execSetConst (qb : BitVec 18) (m : MemView) (s : State) : steady (after s (execSetConst qb m s)) = steady s := by
  simp only [execSetConst]
  apply steady_packetRow; intro t j ws
  split
  · simp
  · rename_i u h
    have e : steady u = steady t := by
      split at h
      · cases h; rfl
      · exact steady_takeImg h
    split <;> simp [e]

theorem steady_execIfPkt (qb : BitVec 18) (m : MemView) (s : State) : steady (after s (execIfPkt qb m s)) = steady s := by
  simp only [execIfPkt]
  apply steady_packetRow; intro t j ws
  (repeat' split) <;> simp

theorem steady_execElsePkt (qb : BitVec 18) (s : State) : steady (after s (execElsePkt qb s)) = steady s := by
  simp only [execElsePkt]
  apply steady_packetRow; intro t j ws
  simp

theorem steady_execEndif (qb : BitVec 18) (s : State) : steady (after s (execEndif qb s)) = steady s := by
  simp only [execEndif]
  apply steady_packetRow; intro t j ws
  simp

theorem steady_execLoop (qb : BitVec 18) (m : MemView) (s : State) : steady (after s (execLoop qb m s)) = steady s := by
  simp only [execLoop]
  apply steady_packetRow; intro t j ws
  (repeat' split) <;> simp

theorem steady_execEndloop (qb : BitVec 18) (s : State) : steady (after s (execEndloop qb s)) = steady s := by
  simp only [execEndloop]
  apply steady_packetRow; intro t j ws
  simp

theorem steady_execCallBuffer (qb : BitVec 18) (m : MemView) (s : State) : steady (after s
    (execCallBuffer qb m s)) = steady s := by
  simp only [execCallBuffer]
  apply steady_packetRow; intro t j ws
  (repeat' split) <;> first | (simp; done) | simp [steady_takeBufIf ‹(if _ then some _ else takeBuf _ _) = some _›]

theorem steady_execReturnPkt (qb : BitVec 18) (s : State) : steady (after s (execReturnPkt qb s)) = steady s := by
  simp only [execReturnPkt]
  apply steady_packetRow; intro t j ws
  simp

theorem steady_execTimestamp (qb : BitVec 18) (s : State) : steady (after s (execTimestamp qb s)) = steady s := by
  simp only [execTimestamp]
  apply steady_packetRow; intro t j ws
  (repeat' split) <;> first | (simp; done) | simp [steady_writeOp ‹writeOp _ _ _ _ _ = .ok _›]

theorem steady_execAlloc (q : BitVec 18) (s : State) : steady (after s (execAlloc q s)) = steady s := by
  simp only [execAlloc]
  apply steady_packetRow; intro t j ws
  simp

theorem steady_execFree (qb : BitVec 18) (s : State) : steady (after s (execFree qb s)) = steady s := by
  simp only [execFree]
  apply steady_packetRow; intro t j ws
  (repeat' split) <;> first | (simp; done) | simp [steady_freeObject ‹freeObject _ _ _ = .ok (_, _)›]

theorem steady_execContextDestroy (qb : BitVec 18) (s : State) : steady (after s (execContextDestroy qb s)) = steady s := by
  simp only [execContextDestroy]
  apply steady_packetRow; intro t j ws
  simp

theorem steady_execContextCreate (q : BitVec 18) (s : State) : steady (after s (execContextCreate q s)) = steady s := by
  simp only [execContextCreate]
  apply steady_packetRow; intro t j ws
  simp

theorem steady_execLaunch (qb : BitVec 18) (m : MemView) (s : State) : steady (after s (execLaunch qb m s)) = steady s := by
  simp only [execLaunch]
  apply steady_packetRow; intro t j ws
  simp

theorem steady_execLaunchIndirect (qb : BitVec 18) (m : MemView) (s : State) : steady (after s
    (execLaunchIndirect qb m s)) = steady s := by
  simp only [execLaunchIndirect]
  apply steady_packetRow; intro t j ws
  (repeat' split) <;> simp

theorem steady_execCopy (qb : BitVec 18) (s : State) : steady (after s (execCopy qb s)) = steady s := by
  simp only [execCopy]
  apply steady_packetRow; intro t j ws
  (repeat' split) <;> simp

theorem steady_execFill (qb : BitVec 18) (s : State) : steady (after s (execFill qb s)) = steady s := by
  simp only [execFill]
  apply steady_packetRow; intro t j ws
  (repeat' split) <;> simp

theorem steady_execSlotGrant (eb : BitVec 14) (s : State) : steady (after s (execSlotGrant eb s)) = steady s := by
  simp only [execSlotGrant]
  (repeat' split) <;> simp

theorem steady_execLaunchRecordGrant (kb : BitVec 3) (s : State) : steady (after s (execLaunchRecordGrant kb s)) = steady s := by
  simp only [execLaunchRecordGrant]
  (repeat' split) <;> simp

theorem steady_execLoadImem (qb : BitVec 18) (m : MemView) (s : State) : steady (after s (execLoadImem qb m s)) = steady s := by
  simp only [execLoadImem]
  apply steady_packetRow; intro t j ws
  (repeat' split) <;> simp (disch := (intros; (repeat' split) <;> (try simp))) [steady_foldl]

theorem steady_execImemLoadIssue (m : MemView) (s : State) : steady (after s (execImemLoadIssue m s)) = steady s := by
  simp only [execImemLoadIssue]
  (repeat' split) <;> simp

theorem steady_execFanStream (qb : BitVec 18) (m : MemView) (s : State) : steady (after s (execFanStream qb m s)) = steady s := by
  simp only [execFanStream]
  apply steady_packetRow; intro t j ws
  (repeat' split) <;> simp

theorem steady_execFanStreamEmit (fb : BitVec 5) (m : MemView) (s : State) : steady (after s
    (execFanStreamEmit fb m s)) = steady s := by
  simp only [execFanStreamEmit]
  (repeat' split) <;> simp

theorem steady_execFanStreamComplete (fb : BitVec 5) (s : State) : steady (after s (execFanStreamComplete fb s)) = steady s := by
  simp only [execFanStreamComplete]
  (repeat' split) <;> simp (disch := (intros; (repeat' split) <;> (try simp))) [steady_foldl]

theorem steady_execBarrierArm (qb : BitVec 18) (s : State) : steady (after s (execBarrierArm qb s)) = steady s := by
  simp only [execBarrierArm]
  apply steady_packetRow; intro t j ws
  (repeat' split) <;> simp

theorem steady_execBarrierReleaseRaise (cb : BitVec 6) (s : State) : steady (after s
    (execBarrierReleaseRaise cb s)) = steady s := by
  rfl

theorem steady_execBarrierReleaseLower (cb : BitVec 6) (s : State) : steady (after s
    (execBarrierReleaseLower cb s)) = steady s := by
  simp only [execBarrierReleaseLower]
  (repeat' split) <;> simp

theorem steady_execTeardownComplete (cb : BitVec 14) (s : State) : steady (after s (execTeardownComplete cb s)) = steady s := by
  simp only [execTeardownComplete]
  (repeat' split) <;> simp

theorem steady_execContextRemovalComplete (cb : BitVec 14) (s : State) : steady (after s
    (execContextRemovalComplete cb s)) = steady s := by
  simp only [execContextRemovalComplete]
  (repeat' split) <;> simp

theorem steady_execContextAbort (die : BitVec 16) (beat : BitVec 256) (s : State) : steady (after s
    (execContextAbort die beat s)) = steady s := by
  simp only [execContextAbort, after_next]
  apply steady_peerIn; intro t b
  simp only [steady_answerAborts, steady_abortWork, steady_disableQueues]
  split <;> simp

theorem steady_execAbortDone (die : BitVec 16) (beat : BitVec 256) (s : State) : steady (after s
    (execAbortDone die beat s)) = steady s := by
  simp only [execAbortDone, after_next]
  apply steady_peerIn; intro t b
  simp

theorem steady_execQueueCreate (qb : BitVec 18) (ok : Bool) (s : State) : steady (after s
    (execQueueCreate qb ok s)) = steady s := by
  simp only [execQueueCreate]
  split
  · rfl
  · apply steady_packetRow; intro t j ws
    (repeat' split) <;> first | (simp; done) | simp [steady_vWrite ‹vWrite _ _ _ _ _ = .ok _›]

theorem steady_execQueueRelease (qb : BitVec 18) (s : State) : steady (after s (execQueueRelease qb s)) = steady s := by
  simp only [execQueueRelease]
  split
  · rfl
  · apply steady_packetRow; intro t j ws
    simp

theorem steady_execUpstreamAlloc (eb : BitVec 14) (b0 b1 : BitVec 128) (s : State) : steady (after s
    (execUpstreamAlloc eb b0 b1 s)) = steady s := by
  simp [execUpstreamAlloc]

theorem steady_execUpstreamFree (eb : BitVec 14) (b0 : BitVec 128) (s : State) : steady (after s
    (execUpstreamFree eb b0 s)) = steady s := by
  simp [execUpstreamFree]

theorem steady_execUnknownUpstreamRequest (eb : BitVec 14) (b0 b1 : BitVec 128) (s : State) : steady (after s
    (execUnknownUpstreamRequest eb b0 b1 s)) = steady s := by
  simp [execUnknownUpstreamRequest]

theorem steady_execAllocResume (s : State) : steady (after s (execAllocResume s)) = steady s := by
  simp only [execAllocResume]
  (repeat' split) <;> simp

theorem steady_execQuery (qb : BitVec 18) (s : State) : steady (after s (execQuery qb s)) = steady s := by
  simp only [execQuery]
  apply steady_packetRow; intro t j ws
  (repeat' split) <;> first | (simp; done) | simp [steady_writeOp ‹writeOp _ _ _ _ _ = .ok _›]

theorem steady_execFreqPropose (die : BitVec 16) (beat : BitVec 256) (s : State) : steady (after s
    (execFreqPropose die beat s)) = steady s := by
  simp only [execFreqPropose, after_next]
  apply steady_peerIn; intro t b
  (repeat' split) <;> simp

theorem steady_execFreqSet (die : BitVec 16) (beat : BitVec 256) (s : State) : steady (after s
    (execFreqSet die beat s)) = steady s := by
  simp only [execFreqSet, after_next]
  apply steady_peerIn; intro t b
  (repeat' split) <;> simp

theorem steady_execFreqProposeResend (p : BitVec 8) (s : State) : steady (after s (execFreqProposeResend p s)) = steady s := by
  simp only [execFreqProposeResend]
  (repeat' split) <;> simp

theorem steady_execFreqProposeMissing (pb : BitVec 8) (die : BitVec 16) (s : State) : steady (after s
    (execFreqProposeMissing pb die s)) = steady s := by
  simp only [execFreqProposeMissing]
  (repeat' split) <;> simp

theorem steady_execPhaseHint (q : BitVec 18) (s : State) : steady (after s (execPhaseHint q s)) = steady s := by
  simp only [execPhaseHint]
  apply steady_packetRow; intro t j ws
  simp

theorem steady_execHintExpiry (p : BitVec 8) (s : State) : steady (after s (execHintExpiry p s)) = steady s := by
  rfl

theorem steady_execActivityBeat (grp : BitVec 7) (data : BitVec 128) (s : State) : steady (after s
    (execActivityBeat grp data s)) = steady s := by
  simp only [execActivityBeat, after_next]
  rw [steady_foldl _ (fun t i => by simp)]
  split <;> simp

theorem steady_execMeasurement (mw : BitVec 20) (s : State) : steady (after s (execMeasurement mw s)) = steady s := by
  simp only [execMeasurement]
  (repeat' split) <;> simp (disch := (intros; (repeat' split) <;> (try simp))) [steady_foldl]

theorem steady_execFrequencyDone (hb : BitVec 9) (s : State) : steady (after s (execFrequencyDone hb s)) = steady s := by
  simp only [execFrequencyDone]
  (repeat' split) <;> simp

theorem steady_execRailAck (r : BitVec 2) (s : State) : steady (after s (execRailAck r s)) = steady s := by
  simp only [execRailAck]
  (repeat' split) <;> simp

theorem steady_execRailAckTimeout (r : BitVec 2) (s : State) : steady (after s (execRailAckTimeout r s)) = steady s := by
  simp only [execRailAckTimeout]
  (repeat' split) <;> simp

theorem steady_execAlert (s : State) : steady (after s (execAlert s)) = steady s := by
  simp (disch := (intros; (repeat' split) <;> (try simp))) [execAlert, steady_foldl]

theorem steady_execAlertRelease (s : State) : steady (after s (execAlertRelease s)) = steady s := by
  simp only [execAlertRelease]
  (repeat' split) <;> simp (disch := (intros; (repeat' split) <;> (try simp))) [steady_foldl]

theorem steady_execActivityWindow (s : State) : steady (after s (execActivityWindow s)) = steady s := by
  simp only [execActivityWindow]
  split
  · simp
  · simp only [after_next, steady_closeWindow]
    rw [steady_foldl _ (by intro t h; simp), steady_foldl _ (by intro t h; simp), steady_shareAll, steady_foldl _
      (by intro t h; simp),
      steady_chargeUncore, steady_foldl _ (by intro t h; simp), steady_setEst, steady_measure]
    simp

theorem steady_execRackBudgetStale (s : State) : steady (after s (execRackBudgetStale s)) = steady s := by
  rfl

theorem steady_execGraphPatch (qb : BitVec 18) (m : MemView) (s : State) : steady (after s
    (execGraphPatch qb m s)) = steady s := by
  simp only [execGraphPatch]
  apply steady_turnRow (steady_patchTurn _ _); intro t j ws
  split
  · simp
  · split <;> simp [steady_holdPatch ‹holdPatch _ _ _ = .ok (_, _)›]

theorem steady_execGraphRun (qb : BitVec 18) (m : MemView) (fw : FwRun) (s : State) : steady (after s (execGraphRun qb m fw s)) = steady s := by
  simp only [execGraphRun]
  apply steady_packetRow; intro t j ws
  (repeat' split) <;> first | (simp; done) |
    (rw [steady_settle, steady_modJob, steady_pinSlot, steady_foldl _ (by intro u x; simp)]; simp)

theorem steady_execDeadline (q : BitVec 18) (s : State) : steady (after s (execDeadline q s)) = steady s := by
  simp only [execDeadline]
  apply steady_packetRow; intro t j ws
  simp

theorem steady_execFallback (qb : BitVec 18) (s : State) : steady (after s (execFallback qb s)) = steady s := by
  simp only [execFallback]
  apply steady_packetRow; intro t j ws
  (repeat' split) <;> simp

theorem steady_execFallbackSwitch (qb : BitVec 18) (s : State) : steady (after s (execFallbackSwitch qb s)) = steady s := by
  simp only [execFallbackSwitch]
  (repeat' split) <;> simp

theorem steady_execTag (qb : BitVec 18) (s : State) : steady (after s (execTag qb s)) = steady s := by
  simp only [execTag]
  apply steady_packetRow; intro t j ws
  (repeat' split) <;> simp

theorem steady_execWatch (qb : BitVec 18) (s : State) : steady (after s (execWatch qb s)) = steady s := by
  simp only [execWatch]
  apply steady_packetRow; intro t j ws
  (repeat' split) <;> simp

theorem steady_execPacingWindowWrite (c : BitVec 14) (line : Nat) (s : State) : steady (after s
    (execPacingWindowWrite c line s)) = steady s := by
  simp only [execPacingWindowWrite]
  (repeat' split) <;> simp

theorem steady_execBind (q : BitVec 18) (m : MemView) (s : State) : steady (after s (execBind q m s)) = steady s := by
  simp only [execBind]
  apply steady_turnRow (steady_bindTurn _ _); intro t j ws
  simp

theorem steady_execUnbind (q : BitVec 18) (m : MemView) (s : State) : steady (after s (execUnbind q m s)) = steady s := by
  simp only [execUnbind]
  apply steady_turnRow (steady_bindTurn _ _); intro t j ws
  simp

theorem steady_execChannelMigration (pb : BitVec 8) (cb : BitVec 14) (s : State) : steady (after s
    (execChannelMigration pb cb s)) = steady s := by
  simp only [execChannelMigration]
  (repeat' split) <;> simp

theorem steady_execEpochSwap (qb : BitVec 18) (s : State) : steady (after s (execEpochSwap qb s)) = steady s := by
  simp only [execEpochSwap]
  apply steady_packetRow; intro t j ws
  (repeat' split) <;> simp

theorem steady_execEpochSwapTakeEffect (pb : BitVec 8) (s : State) : steady (after s
    (execEpochSwapTakeEffect pb s)) = steady s := by
  simp only [execEpochSwapTakeEffect]
  (repeat' split) <;> simp

theorem steady_execSwapDeferral (pb : BitVec 8) (s : State) : steady (after s (execSwapDeferral pb s)) = steady s := by
  simp only [execSwapDeferral]
  (repeat' split) <;> simp (disch := (intros; (repeat' split) <;> (try simp))) [steady_foldl]

theorem steady_execTableWriteTimeout (eb : BitVec 14) (s : State) : steady (after s (execTableWriteTimeout eb s)) = steady s := by
  simp (disch := (intros; (repeat' split) <;> (try simp))) [execTableWriteTimeout, steady_foldl]

theorem steady_execSetShares (qb : BitVec 18) (s : State) : steady (after s (execSetShares qb s)) = steady s := by
  simp only [execSetShares]
  apply steady_packetRow; intro t j ws
  simp

theorem steady_execSliceEnd (p : BitVec 8) (s : State) : steady (after s (execSliceEnd p s)) = steady s := by
  simp only [execSliceEnd]
  (repeat' split) <;> simp

theorem steady_execRegulatorSet (qb : BitVec 18) (s : State) : steady (after s (execRegulatorSet qb s)) = steady s := by
  simp only [execRegulatorSet]
  apply steady_packetRow; intro t j ws
  simp

theorem steady_execCreditInterval (active : List (BitVec 10)) (s : State) : steady (after s
    (execCreditInterval active s)) = steady s := by
  simp only [execCreditInterval]
  (repeat' split) <;> simp (disch := (intros; (repeat' split) <;> (try simp))) [steady_foldl]

theorem steady_execChannelReportStale (cb : BitVec 5) (s : State) : steady (after s
    (execChannelReportStale cb s)) = steady s := by
  rfl

theorem steady_execBoundaryKnownAnswerRun (k : UnitKind) (n : BitVec 14) (r : RunResult) (s : State) : steady (after s
    (execBoundaryKnownAnswerRun k n r s)) = steady s := by
  simp only [execBoundaryKnownAnswerRun]
  (repeat' split) <;> simp

theorem steady_execKnownAnswerRunTimeout (k : UnitKind) (n : BitVec 14) (s : State) : steady (after s
    (execKnownAnswerRunTimeout k n s)) = steady s := by
  simp only [execKnownAnswerRunTimeout]
  (repeat' split) <;> simp

theorem steady_execSelftest (qb : BitVec 18) (r : RunResult) (s : State) : steady (after s (execSelftest qb r s)) = steady s := by
  simp only [execSelftest]
  apply steady_waitRow; intro t j ws
  simp

theorem steady_execRetrain (qb : BitVec 18) (s : State) : steady (after s (execRetrain qb s)) = steady s := by
  simp only [execRetrain]
  apply steady_waitRow; intro t j ws
  (repeat' split) <;> simp

theorem steady_execTrainWaitExpiry (m : BitVec 5) (s : State) : steady (after s (execTrainWaitExpiry m s)) = steady s := by
  simp [execTrainWaitExpiry]

theorem steady_execLevelReport (mb : BitVec 5) (kind : BitVec 2) (value : BitVec 12) (s : State) : steady (after s
    (execLevelReport mb kind value s)) = steady s := by
  simp only [execLevelReport]
  (repeat' split) <;> simp

theorem steady_execKeyInstall (qb : BitVec 18) (s : State) : steady (after s (execKeyInstall qb s)) = steady s := by
  simp only [execKeyInstall]
  apply steady_packetRow; intro t j ws
  (repeat' split) <;> simp

theorem steady_execKeyRevoke (qb : BitVec 18) (s : State) : steady (after s (execKeyRevoke qb s)) = steady s := by
  simp only [execKeyRevoke]
  apply steady_packetRow; intro t j ws
  simp

theorem steady_execKeyDrainAck (src : BitVec 10) (id : BitVec 12) (s : State) : steady (after s
    (execKeyDrainAck src id s)) = steady s := by
  simp [execKeyDrainAck]

theorem steady_execKeyDrain (die : BitVec 16) (beat : BitVec 256) (s : State) : steady (after s
    (execKeyDrain die beat s)) = steady s := by
  simp only [execKeyDrain, after_next]
  apply steady_peerIn; intro t b
  simp

theorem steady_execKeyDrained (src : PeerSrc) (beat : BitVec 256) (s : State) : steady (after s
    (execKeyDrained src beat s)) = steady s := by
  simp only [execKeyDrained, after_next]
  apply steady_peerIn; intro t b
  (repeat' split) <;> simp

theorem steady_execDrainAckTimeout (kb : BitVec 12) (db : BitVec 10) (s : State) : steady (after s
    (execDrainAckTimeout kb db s)) = steady s := by
  simp only [execDrainAckTimeout]
  (repeat' split) <;> simp

theorem steady_execRemoteDrainTimeout (kb : BitVec 12) (s : State) : steady (after s
    (execRemoteDrainTimeout kb s)) = steady s := by
  simp only [execRemoteDrainTimeout]
  (repeat' split) <;> simp (disch := (intros; (repeat' split) <;> (try simp))) [steady_foldl]

theorem steady_execKeySlotRelease (kb : BitVec 12) (s : State) : steady (after s (execKeySlotRelease kb s)) = steady s := by
  simp only [execKeySlotRelease]
  (repeat' split) <;> simp

theorem steady_execSealPartition (qb : BitVec 18) (s : State) : steady (after s (execSealPartition qb s)) = steady s := by
  simp only [execSealPartition]
  apply steady_packetRow; intro t j ws
  (repeat' split) <;> simp

theorem steady_execMeasureReport (qb : BitVec 18) (s : State) : steady (after s (execMeasureReport qb s)) = steady s := by
  simp only [execMeasureReport]
  apply steady_packetRow; intro t j ws
  (repeat' split) <;> first | (simp; done) | simp [steady_putPieces ‹putPieces _ _ _ _ = some _›]

@[simp] theorem steady_spillImage (s : State) (im : List Byte) : steady (spillImage s im) = steady s := by
  simp only [spillImage]
  split <;> simp

theorem steady_execFwActivate (qb : BitVec 18) (image : List Byte) (s : State) : steady (after s
    (execFwActivate qb image s)) = steady s := by
  simp only [execFwActivate]
  apply steady_packetRow; intro t j ws
  simp

theorem steady_execFwSliceActivate (part : Fin 9) (s : State) : steady (after s (execFwSliceActivate part s)) = steady s := by
  simp only [execFwSliceActivate]
  (repeat' split) <;> simp

theorem steady_execSpiStoreDone (ok : Bool) (m : MemView) (s : State) : steady (after s
    (execSpiStoreDone ok m s)) = steady s := by
  simp only [execSpiStoreDone]
  (repeat' split) <;> simp

theorem steady_execBlockResetRelease (s : State) : steady (after s (execBlockResetRelease s)) = steady s := by
  simp only [execBlockResetRelease]
  (repeat' split) <;> simp

theorem steady_execStage1 (sfdp : Option (List SpiMode)) (flash : List Byte) (s : State) : steady (after s
    (execStage1 sfdp flash s)) = steady s := by
  simp only [execStage1]
  apply steady_atStage; intro t
  (repeat' split) <;> simp

theorem steady_execStage3 (sramOk : Bool) (s : State) : steady (after s (execStage3 sramOk s)) = steady s := by
  simp only [execStage3]
  apply steady_atStage; intro t
  simp

theorem steady_execStage4 (found : List Found) (s : State) : steady (after s (execStage4 found s)) = steady s := by
  simp only [execStage4]
  apply steady_atStage; intro t
  (repeat' split) <;> simp (disch := (intros; (repeat' split) <;> (try simp))) [steady_foldl]

theorem steady_execStage5 (chans : List ChanIn) (links : List LinkIn) (s : State) : steady (after s
    (execStage5 chans links s)) = steady s := by
  simp only [execStage5]
  apply steady_atStage; intro t
  have h (u : State) (e : Nat) : steady (if links.any (fun x => x.ep.toNat == e) then u else silentLink u e) = steady u := by
    split <;> simp
  split <;> simp only [steady_endStage, steady_emits, steady_foldl _ steady_writeStage, steady_foldl _ h, steady_foldl _ steady_linkIn,
    steady_foldl _ steady_chanIn, steady_discovery]

theorem steady_execStage6 (runs : List (BitVec 14 × RunResult)) (windows : List CalWindow) (karPresent : Bool) (s : State) :
    steady (after s (execStage6 runs windows karPresent s)) = steady s := by
  simp only [execStage6]
  apply steady_atStage; intro t
  split
  · simp
  · simp only [steady_endStage]
    exact (steady_foldl _ (by intro u r; simp) _ _).trans (by simp)

theorem steady_setup7 {s t : State} (h : setup7 s = .done t) : steady t = steady s := by
  simp only [setup7] at h
  split at h
  · split at h
    · split at h
      · cases h
        simp [steady_makeQueue0 ‹makeQueue0 _ = some _›, steady_doMap0 ‹doMap0 _ = .done _›, steady_makeCtx0 ‹makeCtx0 _ = .done _›]
      · cases h
    · rw [steady_doMap0 h, steady_makeCtx0 ‹makeCtx0 _ = .done _›]
  · exact steady_makeCtx0 h

theorem steady_execStage7 (s : State) : steady (after s (execStage7 s)) = steady s := by
  simp only [execStage7]
  apply steady_atStage; intro t
  (repeat' split) <;> first | (with_reducible rfl; done) | (simp; done) | simp [steady_setup7 ‹setup7 _ = .done _›]

theorem steady_execEngineToken (eb : BitVec 14) (tb : BitVec 16) (status : Byte) (cycles : BitVec 48) (stretched : Bool) (s :
    State) : steady (after s (execEngineToken eb tb status cycles stretched s)) = steady s := by
  simp only [execEngineToken, after_next]
  apply steady_spineEvent; intro t; simp

theorem steady_execAbortAbsorb (eb : BitVec 14) (s : State) : steady (after s (execAbortAbsorb eb s)) = steady s := by
  simp only [execAbortAbsorb]
  (repeat' split) <;> simp (disch := (intros; (repeat' split) <;> (try simp))) [steady_foldl]

theorem steady_execEngineEvent (eb : BitVec 14) (data : BitVec 128) (s : State) : steady (after s
    (execEngineEvent eb data s)) = steady s := by
  simp only [execEngineEvent]
  (repeat' split) <;> simp

theorem steady_execWatchdogCheck (m : MemView) (s : State) : steady (after s (execWatchdogCheck m s)) = steady s := by
  simp only [execWatchdogCheck]
  (repeat' split) <;> simp (disch := (intros; (repeat' split) <;> (try simp))) [steady_foldl]

theorem steady_execPatrolScrub (page array : BitVec 8) (word : W32) (item : EccItem) (e : EccRead) (s : State) : steady (after s
    (execPatrolScrub page array word item e s)) = steady s := by
  simp only [execPatrolScrub]
  (repeat' split) <;> simp

theorem steady_execTime30Wrap (s : State) : steady (after s (execTime30Wrap s)) = steady s := by
  simp only [execTime30Wrap]
  (repeat' split) <;> simp

theorem steady_execTwinState (die : BitVec 16) (beat : BitVec 256) (s : State) : steady (after s
    (execTwinState die beat s)) = steady s := by
  simp only [execTwinState, after_next]
  apply steady_peerIn; intro t b; apply steady_fromTwin; intro u
  (repeat' split) <;> simp

theorem steady_execTwinStateResend (s : State) : steady (after s (execTwinStateResend s)) = steady s := by
  simp [execTwinStateResend]

theorem steady_execDoorbellFwd (die : BitVec 16) (beat : BitVec 256) (s : State) : steady (after s
    (execDoorbellFwd die beat s)) = steady s := by
  simp only [execDoorbellFwd, after_next]
  apply steady_peerIn; intro t b; apply steady_fromTwin; intro u
  simp

theorem steady_execHandback (die : BitVec 16) (beat : BitVec 256) (s : State) : steady (after s
    (execHandback die beat s)) = steady s := by
  simp only [execHandback, after_next]
  apply steady_peerIn; intro t b; apply steady_fromTwin; intro u
  simp

theorem steady_execHandbackEnd (die : BitVec 16) (beat : BitVec 256) (s : State) : steady (after s
    (execHandbackEnd die beat s)) = steady s := by
  simp only [execHandbackEnd, after_next]
  apply steady_peerIn; intro t b; apply steady_fromTwin; intro u
  simp

theorem steady_execHeartbeatSeen (s : State) : steady (after s (execHeartbeatSeen s)) = steady s := by
  simp [execHeartbeatSeen]

theorem steady_execHeartbeatLost (s : State) : steady (after s (execHeartbeatLost s)) = steady s := by
  simp only [execHeartbeatLost]
  (repeat' split) <;> simp

theorem steady_execUnlistedPeerMessage (die : BitVec 16) (beat : BitVec 256) (s : State) : steady (after s
    (execUnlistedPeerMessage die beat s)) = steady s := by
  simp only [execUnlistedPeerMessage]
  (repeat' split) <;> simp

theorem steady_execCallRoutine (qb : BitVec 18) (m : MemView) (fw : FwRun) (s : State) : steady (after s
    (execCallRoutine qb m fw s)) = steady s := by
  simp only [execCallRoutine]
  apply steady_turnRow (steady_routineTurn _ _); intro t j ws
  (repeat' split) <;> simp

theorem steady_execScaleUpdate (q : BitVec 18) (m : MemView) (s : State) : steady (after s
    (execScaleUpdate q m s)) = steady s := by
  simp only [execScaleUpdate]
  apply steady_routineRow; intro p
  unfold scaleUpdate
  repeat' (first
    | (with_reducible refine still_okBind ?_)
    | (with_reducible refine still_wr ?_; intro _ _)
    | (with_reducible refine still_dump ?_; intro _ _)
    | (with_reducible refine still_bind ?_; intro _)
    | exact still_error
    | (dsimp only)
    | split)
  all_goals first | (exact still_ok (by simp [*])) | exact still_scaleTensor _ _ _ _ _ _ _ | (apply still_ok; simp_all; done)

theorem steady_execAmaxReduce (q : BitVec 18) (m : MemView) (s : State) : steady (after s (execAmaxReduce q m s)) = steady s := by
  simp only [execAmaxReduce]
  apply steady_routineRow; intro p
  unfold amaxReduce
  repeat' (first
    | (with_reducible refine still_okBind ?_)
    | (with_reducible refine still_wr ?_; intro _ _)
    | (with_reducible refine still_dump ?_; intro _ _)
    | (with_reducible refine still_bind ?_; intro _)
    | exact still_error
    | (dsimp only)
    | split)
  all_goals first | (exact still_ok (by simp [*])) | exact still_scaleTensor _ _ _ _ _ _ _ | (apply still_ok; simp_all; done)

theorem steady_execTopkRoute (q : BitVec 18) (m : MemView) (s : State) : steady (after s (execTopkRoute q m s)) = steady s := by
  simp only [execTopkRoute]
  apply steady_routineRow; intro p
  unfold topkRoute
  repeat' (first
    | (with_reducible refine still_okBind ?_)
    | (with_reducible refine still_wr ?_; intro _ _)
    | (with_reducible refine still_dump ?_; intro _ _)
    | (with_reducible refine still_bind ?_; intro _)
    | exact still_error
    | (dsimp only)
    | split)
  all_goals exact still_ok (by simp [*, steady_placeTokens])

theorem steady_execPrefixSum (q : BitVec 18) (m : MemView) (s : State) : steady (after s (execPrefixSum q m s)) = steady s := by
  simp only [execPrefixSum]
  apply steady_routineRow; intro p
  unfold prefixSum
  repeat' (first
    | (with_reducible refine still_okBind ?_)
    | (with_reducible refine still_wr ?_; intro _ _)
    | (with_reducible refine still_dump ?_; intro _ _)
    | (with_reducible refine still_bind ?_; intro _)
    | exact still_error
    | (dsimp only)
    | split)
  all_goals first | (exact still_ok (by simp [*])) | exact still_scaleTensor _ _ _ _ _ _ _ | (apply still_ok; simp_all; done)

theorem steady_execHistogram (q : BitVec 18) (m : MemView) (s : State) : steady (after s (execHistogram q m s)) = steady s := by
  simp only [execHistogram]
  apply steady_routineRow; intro p
  unfold histogramR
  repeat' (first
    | (with_reducible refine still_okBind ?_)
    | (with_reducible refine still_wr ?_; intro _ _)
    | (with_reducible refine still_dump ?_; intro _ _)
    | (with_reducible refine still_bind ?_; intro _)
    | exact still_error
    | (dsimp only)
    | split)
  all_goals first | (exact still_ok (by simp [*])) | exact still_scaleTensor _ _ _ _ _ _ _ | (apply still_ok; simp_all; done)

theorem steady_execSortSmall (q : BitVec 18) (m : MemView) (s : State) : steady (after s (execSortSmall q m s)) = steady s := by
  simp only [execSortSmall]
  apply steady_routineRow; intro p
  unfold sortSmall
  repeat' (first
    | (with_reducible refine still_okBind ?_)
    | (with_reducible refine still_wr ?_; intro _ _)
    | (with_reducible refine still_dump ?_; intro _ _)
    | (with_reducible refine still_bind ?_; intro _)
    | exact still_error
    | (dsimp only)
    | split)
  all_goals first | (exact still_ok (by simp [*])) | exact still_scaleTensor _ _ _ _ _ _ _ | (apply still_ok; simp_all; done)

theorem steady_execShapeEval (q : BitVec 18) (m : MemView) (s : State) : steady (after s (execShapeEval q m s)) = steady s := by
  simp only [execShapeEval]
  apply steady_routineRow; intro p
  unfold shapeEval
  repeat' (first
    | (with_reducible refine still_okBind ?_)
    | (with_reducible refine still_wr ?_; intro _ _)
    | (with_reducible refine still_dump ?_; intro _ _)
    | (with_reducible refine still_bind ?_; intro _)
    | exact still_error
    | (dsimp only)
    | split)
  all_goals first | (exact still_ok (by simp [*])) | exact still_scaleTensor _ _ _ _ _ _ _ | (apply still_ok; simp_all; done)

theorem steady_execLossScaleCheck (q : BitVec 18) (m : MemView) (s : State) : steady (after s
    (execLossScaleCheck q m s)) = steady s := by
  simp only [execLossScaleCheck]
  apply steady_routineRow; intro p
  unfold lossScaleCheck
  repeat' (first
    | (with_reducible refine still_okBind ?_)
    | (with_reducible refine still_wr ?_; intro _ _)
    | (with_reducible refine still_dump ?_; intro _ _)
    | (with_reducible refine still_bind ?_; intro _)
    | exact still_error
    | (dsimp only)
    | split)
  all_goals first | (exact still_ok (by simp [*])) | exact still_scaleTensor _ _ _ _ _ _ _ | (apply still_ok; simp_all; done)

theorem steady_execSpecAccept (q : BitVec 18) (m : MemView) (s : State) : steady (after s (execSpecAccept q m s)) = steady s := by
  simp only [execSpecAccept]
  apply steady_routineRow; intro p
  unfold specAccept
  repeat' (first
    | (with_reducible refine still_okBind ?_)
    | (with_reducible refine still_wr ?_; intro _ _)
    | (with_reducible refine still_dump ?_; intro _ _)
    | (with_reducible refine still_bind ?_; intro _)
    | exact still_error
    | (dsimp only)
    | split)
  all_goals first | (exact still_ok (by simp [*])) | exact still_scaleTensor _ _ _ _ _ _ _ | (apply still_ok; simp_all; done)

theorem steady_execCopySmall (q : BitVec 18) (m : MemView) (s : State) : steady (after s (execCopySmall q m s)) = steady s := by
  simp only [execCopySmall]
  apply steady_routineRow; intro p
  unfold copySmall
  repeat' (first
    | (with_reducible refine still_okBind ?_)
    | (with_reducible refine still_wr ?_; intro _ _)
    | (with_reducible refine still_dump ?_; intro _ _)
    | (with_reducible refine still_bind ?_; intro _)
    | exact still_error
    | (dsimp only)
    | split)
  all_goals first | (exact still_ok (by simp [*])) | exact still_scaleTensor _ _ _ _ _ _ _ | (apply still_ok; simp_all; done)

theorem steady_execHashMeasure (q : BitVec 18) (m : MemView) (s : State) : steady (after s
    (execHashMeasure q m s)) = steady s := by
  simp only [execHashMeasure]
  apply steady_routineRow; intro p
  unfold hashMeasure
  repeat' (first
    | (with_reducible refine still_okBind ?_)
    | (with_reducible refine still_wr ?_; intro _ _)
    | (with_reducible refine still_dump ?_; intro _ _)
    | (with_reducible refine still_bind ?_; intro _)
    | exact still_error
    | (dsimp only)
    | split)
  all_goals first | (exact still_ok (by simp [*])) | exact still_scaleTensor _ _ _ _ _ _ _ | (apply still_ok; simp_all; done)

theorem steady_execWatchDump (q : BitVec 18) (m : MemView) (s : State) : steady (after s (execWatchDump q m s)) = steady s := by
  simp only [execWatchDump]
  apply steady_routineRow; intro p
  unfold watchDump
  repeat' (first
    | (with_reducible refine still_okBind ?_)
    | (with_reducible refine still_wr ?_; intro _ _)
    | (with_reducible refine still_dump ?_; intro _ _)
    | (with_reducible refine still_bind ?_; intro _)
    | exact still_error
    | (dsimp only)
    | split)
  all_goals first | (exact still_ok (by simp [*])) | exact still_scaleTensor _ _ _ _ _ _ _ | (apply still_ok; simp_all; done)

theorem steady_execRoutineAlloc (qb : BitVec 18) (s : State) : steady (after s (execRoutineAlloc qb s)) = steady s := by
  simp only [execRoutineAlloc]
  (repeat' split) <;> first | (simp; done) | simp [steady_allocObject ‹allocObject _ _ _ _ _ = .done _ _ _›]

theorem steady_execRoutineFree (qb : BitVec 18) (s : State) : steady (after s (execRoutineFree qb s)) = steady s := by
  simp only [execRoutineFree]
  (repeat' split) <;> first | (simp; done) | simp [steady_freeObject ‹freeObject _ _ _ = .ok (_, _)›]

theorem steady_execTestReset (s : State) : steady (after s (execTestReset s)) = steady s := by
  simp [execTestReset]

theorem steady_execDoorbellWrite (r : HostReq) (s : State) : steady (after s (execDoorbellWrite r s)) = steady s := by
  simp only [execDoorbellWrite, after_next]
  apply steady_judged; intro t
  simp

theorem steady_execSigSet (r : HostReq) (d : Word) (m : MemView) (s : State) : steady (after s
    (execSigSet r d m s)) = steady s := by
  exact steady_signalRow _ _ _ _ _

theorem steady_execSigAdd (r : HostReq) (d : Word) (m : MemView) (s : State) : steady (after s
    (execSigAdd r d m s)) = steady s := by
  exact steady_signalRow _ _ _ _ _

theorem steady_execSigNotify (r : HostReq) (d : Word) (m : MemView) (s : State) : steady (after s
    (execSigNotify r d m s)) = steady s := by
  exact steady_signalRow _ _ _ _ _

theorem steady_execSignalPageFormatError (r : HostReq) (d : Word) (s : State) : steady (after s
    (execSignalPageFormatError r d s)) = steady s := by
  exact steady_signalRow _ _ _ _ _

theorem steady_execNotificationTransfer (s : State) : steady (after s (execNotificationTransfer s)) = steady s := by
  simp only [execNotificationTransfer]
  (repeat' split) <;> simp

theorem steady_execClearCounters (r : RegReq) (s : State) : steady (after s (execClearCounters r s)) = steady s := by
  exact steady_writeRow _ _ _ _ _ _

theorem steady_execIrqForce (r : RegReq) (s : State) : steady (after s (execIrqForce r s)) = steady s := by
  exact steady_writeRow _ _ _ _ _ _

theorem steady_execIrqStatusClear (r : RegReq) (s : State) : steady (after s (execIrqStatusClear r s)) = steady s := by
  exact steady_writeRow _ _ _ _ _ _

theorem steady_execInjectUe (r : RegReq) (s : State) : steady (after s (execInjectUe r s)) = steady s := by
  exact steady_writeRow _ _ _ _ _ _

theorem steady_execInjectCe (r : RegReq) (s : State) : steady (after s (execInjectCe r s)) = steady s := by
  exact steady_writeRow _ _ _ _ _ _

theorem steady_execPageLock (r : RegReq) (s : State) : steady (after s (execPageLock r s)) = steady s := by
  exact steady_writeRow _ _ _ _ _ _

theorem steady_execIrqTargetEnable (r : RegReq) (s : State) : steady (after s (execIrqTargetEnable r s)) = steady s := by
  exact steady_writeRow _ _ _ _ _ _

theorem steady_execSliceAwakeForce (r : RegReq) (s : State) : steady (after s (execSliceAwakeForce r s)) = steady s := by
  exact steady_writeRow _ _ _ _ _ _

theorem steady_execStpQCtrlEnable (r : RegReq) (s : State) : steady (after s (execStpQCtrlEnable r s)) = steady s := by
  exact steady_writeRow _ _ _ _ _ _

theorem steady_execStpQCtrlDisable (r : RegReq) (s : State) : steady (after s (execStpQCtrlDisable r s)) = steady s := by
  exact steady_writeRow _ _ _ _ _ _

theorem steady_execStpQCtrlHoldSet (r : RegReq) (s : State) : steady (after s (execStpQCtrlHoldSet r s)) = steady s := by
  exact steady_writeRow _ _ _ _ _ _

theorem steady_execStpQCtrlHoldClear (r : RegReq) (s : State) : steady (after s (execStpQCtrlHoldClear r s)) = steady s := by
  exact steady_writeRow _ _ _ _ _ _

theorem steady_execStpQCtrlWarm (r : RegReq) (s : State) : steady (after s (execStpQCtrlWarm r s)) = steady s := by
  exact steady_writeRow _ _ _ _ _ _

theorem steady_execRackBudgetWrite (r : RegReq) (s : State) : steady (after s (execRackBudgetWrite r s)) = steady s := by
  exact steady_writeRow _ _ _ _ _ _

theorem steady_execSyncInvalEntry (r : RegReq) (s : State) : steady (after s (execSyncInvalEntry r s)) = steady s := by
  exact steady_writeRow _ _ _ _ _ _

theorem steady_execSyncInvalAll (r : RegReq) (s : State) : steady (after s (execSyncInvalAll r s)) = steady s := by
  exact steady_writeRow _ _ _ _ _ _

theorem steady_execWfgStart (r : RegReq) (s : State) : steady (after s (execWfgStart r s)) = steady s := by
  exact steady_writeRow _ _ _ _ _ _

theorem steady_execProbeSelect (r : RegReq) (m : MemView) (s : State) : steady (after s (execProbeSelect r m s)) = steady s := by
  exact steady_writeRow64 _ _ _ _ _

theorem steady_execChannelOwnerChange (r : RegReq) (s : State) : steady (after s (execChannelOwnerChange r s)) = steady s := by
  exact steady_writeRow _ _ _ _ _ _

theorem steady_execFanOwnerChange (r : RegReq) (s : State) : steady (after s (execFanOwnerChange r s)) = steady s := by
  exact steady_writeRow _ _ _ _ _ _

theorem steady_execPaceBaseWrite (r : RegReq) (s : State) : steady (after s (execPaceBaseWrite r s)) = steady s := by
  exact steady_writeRow64 _ _ _ _ _

theorem steady_execCtxSpadWrite (r : RegReq) (s : State) : steady (after s (execCtxSpadWrite r s)) = steady s := by
  exact steady_writeRow64 _ _ _ _ _

theorem steady_execTraceStart (r : RegReq) (s : State) : steady (after s (execTraceStart r s)) = steady s := by
  exact steady_writeRow _ _ _ _ _ _

theorem steady_execTraceStop (r : RegReq) (s : State) : steady (after s (execTraceStop r s)) = steady s := by
  exact steady_writeRow _ _ _ _ _ _

theorem steady_execSpiStoreGo (r : RegReq) (s : State) : steady (after s (execSpiStoreGo r s)) = steady s := by
  exact steady_writeRow _ _ _ _ _ _

theorem steady_execRcvBegin (r : RegReq) (s : State) : steady (after s (execRcvBegin r s)) = steady s := by
  exact steady_writeRow _ _ _ _ _ _

theorem steady_execRcvVerify (r : RegReq) (s : State) : steady (after s (execRcvVerify r s)) = steady s := by
  exact steady_writeRow _ _ _ _ _ _

theorem steady_execRcvProgram (r : RegReq) (s : State) : steady (after s (execRcvProgram r s)) = steady s := by
  exact steady_writeRow _ _ _ _ _ _

theorem steady_execRcvBoot (r : RegReq) (s : State) : steady (after s (execRcvBoot r s)) = steady s := by
  exact steady_writeRow _ _ _ _ _ _

theorem steady_execRcvData (r : RegReq) (s : State) : steady (after s (execRcvData r s)) = steady s := by
  exact steady_writeRow64 _ _ _ _ _

theorem steady_execAuthNew (r : RegReq) (s : State) : steady (after s (execAuthNew r s)) = steady s := by
  exact steady_writeRow _ _ _ _ _ _

theorem steady_execAuthCheck (r : RegReq) (s : State) : steady (after s (execAuthCheck r s)) = steady s := by
  exact steady_writeRow _ _ _ _ _ _

theorem steady_execAuthClose (r : RegReq) (s : State) : steady (after s (execAuthClose r s)) = steady s := by
  exact steady_writeRow _ _ _ _ _ _

theorem steady_execMgmtLatchRead (a : BitVec 16) (s : State) : steady (after s (execMgmtLatchRead a s)) = steady s := by
  simp only [execMgmtLatchRead]
  (repeat' split) <;> simp

theorem steady_execMgtWinData (s : State) : steady (after s (execMgtWinData s)) = steady s := by
  simp only [execMgtWinData]
  (repeat' split) <;> simp

theorem steady_execRegisterAccessInstrument (dr : BitVec 88) (m : MemView) (s : State) : steady (after s
    (execRegisterAccessInstrument dr m s)) = steady s := by
  simp only [execRegisterAccessInstrument]
  (repeat' split) <;> simp

theorem steady_execRefusedRegisterRead (r : RegReq) (s : State) : steady (after s (execRefusedRegisterRead r s)) = steady s := by
  simp only [execRefusedRegisterRead]
  (repeat' split) <;> simp

theorem steady_execRegisterWrite (r : RegReq) (m : MemView) (s : State) : steady (after s
    (execRegisterWrite r m s)) = steady s := by
  simp only [execRegisterWrite]
  (repeat' split) <;> simp

theorem steady_execMbxClaim (r : RegReq) (s : State) : steady (after s (execMbxClaim r s)) = steady s := by
  simp [execMbxClaim]

theorem steady_execMbxRelease (r : RegReq) (s : State) : steady (after s (execMbxRelease r s)) = steady s := by
  simp [execMbxRelease]

theorem steady_execMailboxClaimExpiry (s : State) : steady (after s (execMailboxClaimExpiry s)) = steady s := by
  rfl

theorem steady_execMailboxRequestNotParsed (r : RegReq) (s : State) : steady (after s
    (execMailboxRequestNotParsed r s)) = steady s := by
  simp only [execMailboxRequestNotParsed]
  apply steady_goRow; intro t
  simp

theorem steady_execGetVersion (r : RegReq) (s : State) : steady (after s (execGetVersion r s)) = steady s := by
  simp only [execGetVersion]
  apply steady_goRow; intro t
  simp

theorem steady_execGetCapabilities (r : RegReq) (s : State) : steady (after s (execGetCapabilities r s)) = steady s := by
  simp only [execGetCapabilities]
  apply steady_goRow; intro t
  simp

theorem steady_execNegotiateAlgorithms (r : RegReq) (s : State) : steady (after s (execNegotiateAlgorithms r s)) = steady s := by
  simp only [execNegotiateAlgorithms]
  apply steady_goRow; intro t
  simp

theorem steady_execChallenge (r : RegReq) (s : State) : steady (after s (execChallenge r s)) = steady s := by
  simp only [execChallenge]
  apply steady_goRow; intro t
  simp

theorem steady_execUnsupportedRequest (r : RegReq) (_code : Byte) (s : State) : steady (after s
    (execUnsupportedRequest r _code s)) = steady s := by
  simp only [execUnsupportedRequest]
  apply steady_goRow; intro t
  simp

theorem steady_execGetDigests (r : RegReq) (x : SessionRef) (s : State) : steady (after s (execGetDigests r x s)) = steady s := by
  simp only [execGetDigests]
  apply steady_goRow; intro t
  simp

theorem steady_execGetCertificate (r : RegReq) (x : SessionRef) (s : State) : steady (after s
    (execGetCertificate r x s)) = steady s := by
  simp only [execGetCertificate]
  apply steady_goRow; intro t
  simp

theorem steady_execGetMeasurements (r : RegReq) (x : SessionRef) (i : Byte) (nonce : List Byte) (s : State) : steady (after s
    (execGetMeasurements r x i nonce s)) = steady s := by
  simp only [execGetMeasurements]
  split
  · rfl
  · apply steady_goRow; intro t; split
    · simp
    · rw [steady_mbxAnswer]; split <;> simp

theorem steady_execKeyExchange (r : RegReq) (sid : BitVec 16) (s : State) : steady (after s
    (execKeyExchange r sid s)) = steady s := by
  simp only [execKeyExchange]
  apply steady_goRow; intro t
  simp

theorem steady_execFinish (r : RegReq) (sid : BitVec 16) (key : Option (List Byte)) (s : State) : steady (after s
    (execFinish r sid key s)) = steady s := by
  simp only [execFinish]
  apply steady_goRow; intro t
  (repeat' split) <;> simp

theorem steady_execHeartbeat (r : RegReq) (sid : BitVec 16) (s : State) : steady (after s
    (execHeartbeat r sid s)) = steady s := by
  simp only [execHeartbeat]
  apply steady_goRow; intro t; apply steady_inSession; intro u
  simp

theorem steady_execKeyUpdate (r : RegReq) (sid : BitVec 16) (s : State) : steady (after s
    (execKeyUpdate r sid s)) = steady s := by
  simp only [execKeyUpdate]
  apply steady_goRow; intro t; apply steady_inSession; intro u
  simp

theorem steady_execEndSession (r : RegReq) (sid : BitVec 16) (s : State) : steady (after s
    (execEndSession r sid s)) = steady s := by
  simp only [execEndSession]
  apply steady_goRow; intro t; apply steady_inSession; intro u
  simp

theorem steady_execSessionTimeout (sid : BitVec 16) (s : State) : steady (after s (execSessionTimeout sid s)) = steady s := by
  rfl

theorem steady_execChunkSend (r : RegReq) (x : SessionRef) (chunk : List Byte) (last : Bool) (s : State) : steady (after s
    (execChunkSend r x chunk last s)) = steady s := by
  simp only [execChunkSend]
  apply steady_goRow; intro t
  simp

theorem steady_execChunkGet (r : RegReq) (_x : SessionRef) (_index : Nat) (s : State) : steady (after s
    (execChunkGet r _x _index s)) = steady s := by
  simp only [execChunkGet]
  apply steady_goRow; intro t
  simp

theorem steady_execVendorKeyInstall (r : RegReq) (sid : BitVec 16) (body : List Byte) (s : State) : steady (after s
    (execVendorKeyInstall r sid body s)) = steady s := by
  simp only [execVendorKeyInstall]
  apply steady_vendorRow; intro t k
  (repeat' split) <;> simp

theorem steady_execVendorKeyRevoke (r : RegReq) (sid : BitVec 16) (body : List Byte) (s : State) : steady (after s
    (execVendorKeyRevoke r sid body s)) = steady s := by
  simp only [execVendorKeyRevoke]
  apply steady_vendorRow; intro t k
  simp

theorem steady_execVendorSeal (r : RegReq) (sid : BitVec 16) (body : List Byte) (s : State) : steady (after s
    (execVendorSeal r sid body s)) = steady s := by
  simp only [execVendorSeal]
  apply steady_vendorRow; intro t k
  simp

theorem steady_execVendorReport (r : RegReq) (sid : BitVec 16) (body : List Byte) (s : State) : steady (after s
    (execVendorReport r sid body s)) = steady s := by
  simp only [execVendorReport]
  apply steady_vendorRow; intro t k
  simp

theorem steady_execLogRead (r : RegReq) (sid : BitVec 16) (body : List Byte) (s : State) : steady (after s
    (execLogRead r sid body s)) = steady s := by
  simp only [execLogRead]
  apply steady_vendorRow; intro t k
  simp

end Sys2Proof.Machine
end

