-- ==== Sys2Proof/Laws/Trace.lean ====
section
/-! SUPPORT. What trace records leave alone: queues, jobs, slices, contexts and stored graphs. -/

namespace Sys2Proof.Machine

/-- The parts of the state that packets act on. -/
def objects (s : State) : Table Queue × Table (Option Job) × Table Slice × Table Context × Table (Option Graph) :=
  (s.queues, s.jobs, s.slices, s.ctxs, s.graphs)

@[simp] theorem objects_setPage (s : State) (i : Nat) (v : Page) : objects (s.setPage i v) = objects s := rfl
@[simp] theorem objects_emits (s : State) (o : List Out) : objects (emits s o) = objects s := rfl
@[simp] theorem objects_count (s : State) (p n k : Nat) : objects (count s p n k) = objects s := rfl

@[simp] theorem objects_raiseIrq (s : State) (p : Nat) (b : W32) : objects (raiseIrq s p b) = objects s := by
  have hn : ∀ (t : State) (n : Ntf), objects (presentNtf t n) = objects t := by
    intro t n; unfold presentNtf; split <;> rfl
  unfold raiseIrq
  simp only
  split
  · unfold presentIrq
    split
    · rw [hn]; rfl
    · rfl
  · rfl

@[simp] theorem objects_setErr (s : State) (p b a : Nat) : objects (setErr s p b a) = objects s := by
  unfold setErr
  simp only
  split <;> simp

theorem objects_putPieces {s t : State} {p : Nat} {ps : List (Nat × Nat × Nat)} {bs : List Byte}
    (h : putPieces s p ps bs = some t) : objects t = objects s := by
  unfold putPieces at h
  split at h <;> simp at h
  subst h; rfl

theorem objects_vWrite {s t : State} {p c va : Nat} {bs : List Byte} (h : vWrite s p c va bs = .ok t) :
    objects t = objects s := by
  unfold vWrite at h
  simp only at h
  split at h
  · simp at h
  · split at h <;> simp at h
    rename_i e; subst h; exact objects_putPieces e

theorem objects_drainTrace {s t : State} {bs : List Byte} (h : drainTrace s bs = .ok t) : objects t = objects s := by
  unfold drainTrace at h
  simp only at h
  split at h
  · rw [objects_vWrite h]; rfl
  · split at h <;> simp at h
    rename_i e; subst h; rw [objects_putPieces e]; rfl

@[simp] theorem objects_dropTrace (s : State) : objects (dropTrace s) = objects s := rfl

@[simp] theorem objects_putTrace (s : State) (bs : List Byte) : objects (putTrace s bs) = objects s := by
  unfold putTrace
  simp only
  split
  · split <;> rfl
  · split
    · rename_i h; exact objects_drainTrace h
    · rw [objects_dropTrace]; split <;> simp [drainError]

@[simp] theorem objects_traceRec (s : State) (k src : Nat) (c : Option Nat) (st : Bool) (p : Nat) :
    objects (traceRec s k src c st p) = objects s := by
  unfold traceRec
  have h : objects (putTrace { s with loe := { s.loe with trace := { s.loe.trace with gap := 0 } } }
      (traceBytes s 3 0 0 false (min s.loe.trace.gap (2 ^ 32 - 1) +
        min ((s.now - s.loe.trace.gapAt) / 1000) (2 ^ 32 - 1) * 2 ^ 32))) = objects s := by
    rw [objects_putTrace]; rfl
  simp only
  split
  · rfl
  · split
    · rw [objects_putTrace]
    · split
      · rw [objects_putTrace, h]
      · rw [objects_dropTrace]

/-- Instruction records leave what packets act on as it was. -/
@[simp] theorem objects_traceInstructions (s : State) (k p c : Nat) (fw : FwRun) :
    objects (traceInstructions s k p c fw) = objects s := by
  unfold traceInstructions
  generalize fw.retired = l
  induction l generalizing s with
  | nil => rfl
  | cons r l ih => rw [List.foldl_cons, ih]; split <;> simp

/-- A run that retires nothing records nothing. -/
@[simp] theorem traceInstructions_nil (s : State) (k p c : Nat) (n : BitVec 3) (e : Bool) :
    traceInstructions s k p c ⟨n, [], e⟩ = s := rfl

variable (s : State) (k p c : Nat) (fw : FwRun)

@[simp] theorem queue_traceInstructions (j : Nat) : (traceInstructions s k p c fw).queue j = s.queue j := by
  have h := congrArg (·.1) (objects_traceInstructions s k p c fw)
  unfold State.queue; rw [show (traceInstructions s k p c fw).queues = s.queues from h]
@[simp] theorem job_traceInstructions (j : Nat) : (traceInstructions s k p c fw).job j = s.job j := by
  have h := congrArg (·.2.1) (objects_traceInstructions s k p c fw)
  unfold State.job; rw [show (traceInstructions s k p c fw).jobs = s.jobs from h]
@[simp] theorem slice_traceInstructions (j : Nat) : (traceInstructions s k p c fw).slice j = s.slice j := by
  have h := congrArg (·.2.2.1) (objects_traceInstructions s k p c fw)
  unfold State.slice; rw [show (traceInstructions s k p c fw).slices = s.slices from h]
@[simp] theorem ctx_traceInstructions (j : Nat) : (traceInstructions s k p c fw).ctx j = s.ctx j := by
  have h := congrArg (·.2.2.2.1) (objects_traceInstructions s k p c fw)
  unfold State.ctx; rw [show (traceInstructions s k p c fw).ctxs = s.ctxs from h]
@[simp] theorem graph_traceInstructions (j : Nat) : (traceInstructions s k p c fw).graph j = s.graph j := by
  have h := congrArg (·.2.2.2.2) (objects_traceInstructions s k p c fw)
  unfold State.graph; rw [show (traceInstructions s k p c fw).graphs = s.graphs from h]

end Sys2Proof.Machine
end

