-- ==== Sys2Proof/WellFormed.lean ====
section
/-! DEFINITION. Which commands a port can carry: the lengths, ranges and repetitions that the types of the operands leave
open (log 6). A command that fails a check is no event of the hardware; the meanings do not rest on these checks but for
the lengths whose failure is Fault.portWidth. -/

namespace Sys2Proof

open Machine

/-- Beats of 1, 2, 4 or 8 bytes with no strobe beyond them (Table 2.3): one, an INCR burst of up to 256, or a burst of
another type of up to 16. -/
def Machine.HostReq.wf (r : HostReq) : Bool :=
  [1, 2, 4, 8].contains r.size && (r.strobes :: r.more.map (·.2)).all (fun st => decide (st.toNat < 2 ^ r.size)) &&
  decide (r.beats ≤ if r.incr then 256 else 16)

/-- A register access: a wide one of the debug or security view lies at a multiple of 8, another at a multiple of 4
(R399). -/
def Machine.RegReq.wf : RegReq → Bool
  | .host r _ => r.wf
  | .mgmt addr _ _ => addr.toNat % 4 == 0
  | .security off wide _ => off.toNat % (if wide then 8 else 4) == 0
  | .debug off wide _ => off.toNat % (if wide then 8 else 4) == 0

/-- No value stands twice in a list. -/
def noRepeats {α : Type} [DecidableEq α] (l : List α) : Bool := decide l.Nodup

/-- The view names each byte at most once, at an address of 52 bits (Table 2.8). -/
def Machine.MemView.wf (m : MemView) : Bool := noRepeats (m.map (·.1)) && m.all (fun c => decide (c.1 < 2 ^ 52))

/-- A read of whole 8-byte words, at most a fragment of 65,536 bytes (R105). -/
def wordsWf (limit : Nat) (d : Option (List Word)) : Bool :=
  match d with
  | some ws => decide (1 ≤ ws.length ∧ ws.length ≤ limit)
  | none => true

/-- A 64-byte line: eight words (R109). -/
def lineWf (d : Option (List Word)) : Bool :=
  match d with
  | some ws => ws.length == 8
  | none => true

/-- The beat a row of the host port carries. -/
def Instr.beat : Instr → Option HostReq
  | .doorbellWrite x => some x
  | .sigSet x _ _ => some x
  | .sigAdd x _ _ => some x
  | .sigNotify x _ _ => some x
  | .signalPageFormatError x _ => some x
  | _ => none

/-- The register access of a row that one makes. -/
def Instr.access : Instr → Option RegReq
  | .registerWrite x _ => some x
  | .stpQCtrlEnable x => some x
  | .stpQCtrlDisable x => some x
  | .stpQCtrlHoldSet x => some x
  | .stpQCtrlHoldClear x => some x
  | .stpQCtrlWarm x => some x
  | .rackBudgetWrite x => some x
  | .clearCounters x => some x
  | .irqForce x => some x
  | .irqStatusClear x => some x
  | .injectUe x => some x
  | .injectCe x => some x
  | .pageLock x => some x
  | .irqTargetEnable x => some x
  | .sliceAwakeForce x => some x
  | .syncInvalEntry x => some x
  | .syncInvalAll x => some x
  | .wfgStart x => some x
  | .probeSelect x _ => some x
  | .channelOwnerChange x => some x
  | .fanOwnerChange x => some x
  | .paceBaseWrite x => some x
  | .ctxSpadWrite x => some x
  | .traceStart x => some x
  | .traceStop x => some x
  | .spiStoreGo x => some x
  | .rcvBegin x => some x
  | .rcvData x => some x
  | .rcvVerify x => some x
  | .rcvProgram x => some x
  | .rcvBoot x => some x
  | .mbxClaim x => some x
  | .mbxRelease x => some x
  | .getVersion x => some x
  | .getCapabilities x => some x
  | .negotiateAlgorithms x => some x
  | .getDigests x _ => some x
  | .getCertificate x _ => some x
  | .challenge x => some x
  | .getMeasurements x _ _ _ => some x
  | .keyExchange x _ => some x
  | .finish x _ _ => some x
  | .heartbeat x _ => some x
  | .keyUpdate x _ => some x
  | .endSession x _ => some x
  | .chunkSend x _ _ _ => some x
  | .chunkGet x _ _ => some x
  | .unsupportedRequest x _ => some x
  | .vendorKeyInstall x _ _ => some x
  | .vendorKeyRevoke x _ _ => some x
  | .vendorSeal x _ _ => some x
  | .vendorReport x _ _ => some x
  | .logRead x _ _ => some x
  | .authNew x => some x
  | .authCheck x => some x
  | .authClose x => some x
  | .refusedRegisterRead x => some x
  | .mailboxRequestNotParsed x => some x
  | _ => none

/-- What memory answers in a row whose step reads it. -/
def Instr.view : Instr → Option MemView
  | .sigSet _ _ x => some x
  | .sigAdd _ _ x => some x
  | .sigNotify _ _ x => some x
  | .registerWrite _ x => some x
  | .domainWake _ x => some x
  | .jobCompletion _ x => some x
  | .fenceAtomicComplete _ _ x => some x
  | .launch _ x => some x
  | .launchIndirect _ x => some x
  | .setConst _ x => some x
  | .loadImem _ x => some x
  | .imemLoadIssue x => some x
  | .fanStream _ x => some x
  | .fanStreamEmit _ x => some x
  | .waitFence _ x => some x
  | .signalFence _ x => some x
  | .waitCount _ x => some x
  | .credit _ x => some x
  | .ifPkt _ x => some x
  | .loop _ x => some x
  | .callBuffer _ x => some x
  | .callRoutine _ x _ => some x
  | .graphRun _ x _ => some x
  | .graphPatch _ x => some x
  | .bind _ x => some x
  | .unbind _ x => some x
  | .scaleUpdate _ x => some x
  | .amaxReduce _ x => some x
  | .topkRoute _ x => some x
  | .prefixSum _ x => some x
  | .histogram _ x => some x
  | .sortSmall _ x => some x
  | .shapeEval _ x => some x
  | .lossScaleCheck _ x => some x
  | .specAccept _ x => some x
  | .copySmall _ x => some x
  | .hashMeasure _ x => some x
  | .watchDump _ x => some x
  | .syncSignal _ _ _ x => some x
  | .syncAdd _ _ _ x => some x
  | .watchdogCheck x => some x
  | .probeSelect _ x => some x
  | .spiStoreDone _ x => some x
  | .registerAccessInstrument _ x => some x
  | _ => none

/-- The lengths and repetitions of a row's lists. -/
def Instr.listsWf : Instr → Bool
  | .entryReadReturn _ d => lineWf d
  | .lineRereadReturn _ d => lineWf d
  | .fragmentReadReturn _ d => wordsWf 8192 d
  | .pacingWindowWrite _ l => decide (l < 512)
  | .creditInterval active => noRepeats active && active.all (fun m => decide (m.toNat < 524))
  | .stage0 fuses => decide (fuses.length ≤ 1024)
  | .stage1 modes flash => modes.all noRepeats && decide (flash.length ≤ 2 ^ 26)
  | .stage4 found => noRepeats (found.map (·.ep))
  | .stage5 chans links => noRepeats (chans.map (·.chan)) && noRepeats (links.map (·.ep))
  | .stage6 runs windows _ => noRepeats (runs.map (·.1)) && windows.all (fun w => noRepeats (w.acts.map (·.1)))
  | .getMeasurements _ _ _ nonce => nonce.length == 32
  | .chunkSend _ _ chunk _ => decide (chunk.length ≤ 2048)
  | _ => true

/-- The operands of a command are ones its port can carry. -/
def Instr.wf (i : Instr) : Bool :=
  i.beat.all HostReq.wf && i.access.all RegReq.wf && i.view.all MemView.wf && i.listsWf

end Sys2Proof
end

