-- ==== Sys2Proof/Tests/Slice0.lean ====
section
/-! SUPPORT. The model's own tests: for every obligation with hypotheses a witness of each clause (`witness_<obligation>`),
the well-formedness checks, values from outside the model, and single steps. -/

open Sys2Proof Sys2Proof.Machine

namespace Sys2Proof.Tests

set_option Elab.async false

/-! ## The premises as checks -/

/-- An answer that is there and passes a check. -/
def okAnd {ε α : Type} (e : Except ε α) (p : α → Bool) : Bool :=
  match e with
  | .ok a => p a
  | .error _ => false

def someAnd {α : Type} (o : Option α) (p : α → Bool) : Bool :=
  match o with
  | some a => p a
  | none => false

/-- Memory takes every write where no line is bad and no channel has failed. -/
theorem writes_taken {s : State} (hb : s.badLines = []) (hc : s.chans.any (fun e => e.2.failed) = false) (a n : Nat) :
    writeFails s a n = false := by
  have h : chanFailed s a n = false := by
    simp only [chanFailed, List.any_eq_false, Bool.and_eq_true, not_and] at hc ⊢
    intro x hx hf
    exact absurd hf.1 (hc x hx)
  simp [writeFails, hb, h]

theorem okAnd_sound {ε α : Type} {e : Except ε α} {p : α → Bool} (h : okAnd e p = true) : ∃ a, e = .ok a ∧ p a = true := by
  cases e with
  | ok a => exact ⟨a, rfl, h⟩
  | error x => exact absurd h (by simp [okAnd])

theorem someAnd_sound {α : Type} {o : Option α} {p : α → Bool} (h : someAnd o p = true) : ∃ a, o = some a ∧ p a = true := by
  cases o with
  | some a => exact ⟨a, rfl, h⟩
  | none => exact absurd h (by simp [someAnd])

/-- The checks behind OperatorWrites. -/
def writesB (s : State) (h : HostReq) (p off : Nat) (wide : Bool) : Bool :=
  decide ((s.bsn.porAsserted = false ∧ s.bsn.blkAsserted = false) ∧ (s.swb.boot ≠ .recovery ∨ p = pgID ∨ p = pgSWB) ∧
    (h.cls = 1#2 ∧ h.bit15 = false ∧ h.ctx = 0#14 ∧ h.twin = false) ∧
    (h.atomic = false ∧ h.poison = false ∧ h.single = true) ∧
    (h.size = (if wide then 8 else 4) ∧ h.strobes = (if wide then 0xFF#8 else 0x0F#8)) ∧
    (h.addr.toNat = 0x1000000 + p * 4096 + off ∧ off < 4096 ∧ off % (if wide then 8 else 4) = 0) ∧
    (mapped p = true ∧ p ≠ pgDBG) ∧ is64 p (off / 8 * 8) = wide ∧ pageAwake s p = true ∧ behind s (16 + h.id.toNat) = false)

theorem writesB_sound {s : State} {h : HostReq} {p off : Nat} {wide : Bool} (hb : writesB s h p off wide = true) :
    OperatorWrites s h p off wide := by
  obtain ⟨a, b, c, d, e, f, g, i, j, k⟩ := of_decide_eq_true hb
  exact ⟨a, b, c, d, e, f, g, i, j, k⟩

/-- The checks behind HostWrites. -/
def hostB (s : State) (h : HostReq) (operator : Bool) (addr size : Nat) : Bool :=
  decide ((s.bsn.porAsserted = false ∧ s.bsn.blkAsserted = false) ∧ s.swb.boot ≠ .recovery ∧
    (h.cls = (if operator then 1#2 else 0#2) ∧ h.bit15 = false ∧ h.twin = false ∧ (operator = true → h.ctx = 0#14)) ∧
    (h.atomic = false ∧ h.poison = false ∧ h.single = true) ∧
    (h.size = size ∧ h.strobes = (if size = 8 then 0xFF#8 else 0x0F#8)) ∧ h.addr.toNat = addr ∧
    behind s (16 + h.id.toNat) = false)

theorem hostB_sound {s : State} {h : HostReq} {operator : Bool} {addr size : Nat} (hb : hostB s h operator addr size = true) :
    HostWrites s h operator addr size := by
  obtain ⟨a, b, c, d, e, f, g⟩ := of_decide_eq_true hb
  exact ⟨a, b, c, d, e, f, g⟩

/-- The checks behind MailboxGo. -/
def goB (s : State) (h : HostReq) (d : Word) : Bool :=
  hostB s h true 0x1101004 4 &&
  decide (d.toNat % 256 = 2 ∧ s.ntc.mbx.owner = some (true, 0) ∧ s.ntc.mbx.busy = false ∧ s.bsn.spineAwake = true)

theorem goB_sound {s : State} {h : HostReq} {d : Word} (hb : goB s h d = true) : MailboxGo s h d := by
  simp only [goB, Bool.and_eq_true] at hb
  obtain ⟨b, c, d, e⟩ := of_decide_eq_true hb.2
  exact ⟨hostB_sound hb.1, b, c, d, e⟩

/-- The checks behind AtPacket. -/
def atB (s : State) (q op : Nat) (j : Job) (ws : List Word) : Bool :=
  decide (s.job q = some j ∧ curPkt j = some ws ∧ opOf (hdrOf ws) = op ∧
    (s.halted = false ∧ j.phase = .run ∧ sliceUp s (s.queue q).home = true ∧
      (s.slice (s.queue q).home).paused = false) ∧
    predOn j (hdrOf ws) = true ∧ areaFault s q j = none ∧ (j.spillBuf = none ∧ j.spillImg = none) ∧ (openRecs s q = 0 ∧ j.atomics = 0) ∧
    (j.holdSince = none ∧ (gridKind op = true → swapHolds s q j = false)) ∧
    (launchKind op = true → (s.part (partQ s q)).cur = some (s.queue q).owner ∧
      ∀ e ∈ s.ctxs, (s.ctx e.1).eligible = eligible s e.1))

theorem atB_sound {s : State} {q op : Nat} {j : Job} {ws : List Word} (hb : atB s q op j ws = true) :
    AtPacket s q op j ws := by
  obtain ⟨a, b, c, d, e, f, g, h, i, k⟩ := of_decide_eq_true hb
  exact ⟨a, b, c, d, e, f, g, h, i, k⟩

/-- The checks behind PeerMessage. -/
def peerB (s : State) (die : BitVec 16) (beat : BitVec 256) (type defined : Nat) : Bool :=
  decide (beat.toNat % 256 = type ∧ (domFirst s ≤ die.toNat ∧ die.toNat ≤ domLast s) ∧
    beat.toNat &&& defined = beat.toNat)

theorem peerB_sound {s : State} {die : BitVec 16} {beat : BitVec 256} {type defined : Nat}
    (hb : peerB s die beat type defined = true) : PeerMessage s die beat type defined := by
  obtain ⟨a, b, c⟩ := of_decide_eq_true hb
  exact ⟨a, b, c⟩

/-! ## The states the witnesses stand on -/

/-- A HEALTHY unit that passed its tests. -/
def well : UnitRec := { UnitRec.reset with st := .healthy }

/-- An ACTIVE context of partition 0: pages 1 and 2 map granules 1 and 2, and handle 0x01000003 is an object of 4 KiB at
page 1. -/
def ctxUp : Context :=
  { Context.reset with
    st := .active, vaBits := 1, syncBits := 10, handleBits := 8, quota := 100, used := 4
    pages := [(1, ⟨1, true, true, true, false, 1, 1⟩), (2, ⟨2, true, true, true, false, 1, 1⟩)]
    handles := [(3, { Handle.fresh with live := true, base := 0x10000, size := 4096 })] }

/-- An ENABLED queue of context 1 at home on slice 0, its ring at 0x10000 and its index line at 0x18000. -/
def queueUp : Queue := { Queue.reset with ringBase := 16, log2 := 4, idxLine := 0x600, owner := 1, st := .enabled, poll := 1 }

/-- Partition 0: cores 32 and 33 at (0, 0) and (1, 0), copy engine 64, memory channel 0; context 1 is current. -/
def partUp : Part :=
  { Part.reset with
    active := { cores := [(0, 0, 32), (1, 0, 33)], copies := [(0, 64)], links := [], chans := [(0, 0)] }
    cur := some 1 }

/-- An endpoint of a kind. -/
def epUp (kind part : Nat) : Endpoint :=
  { Endpoint.reset with exist := true, kind := kind, mhz := 1000, imemKib := 64, unit := well, part := part }

/-- The block in READY with every domain awake; this die is 1, its twin 2, the domain 0 to 9, die 3 reached over link
endpoint 96. -/
def up : State :=
  { State.reset with
    timebase := 1000000
    bsn := { State.reset.bsn with sliceAwake := 0xFF, spineAwake := true, porAsserted := false }
    swb := { State.reset.swb with
      boot := .ready, settings := { Settings.reset with peer := [1, 2, 0, 9], routes := [(3, 96, 0)] } }
    ctxs := [(0, ctxUp), (1, ctxUp)]
    queues := [(4, { queueUp with owner := 0, cls := 1 }), (5, queueUp)]
    parts := [(0, partUp)]
    eps := [(32, epUp 0 0), (33, epUp 0 0), (64, epUp 1 0), (65, epUp 1 255), (96, { epUp 2 255 with peer := 3 })]
    hubs := [(1, { Hub.reset with unit := well, mhz := 1000 }), (2, { Hub.reset with unit := well, mhz := 1000 })]
    chans := [(0, { Channel.reset with
      unit := well, granules := 64, gbps := 100, free := [10, 11, 12, 13, 14, 15], part := 0, state := 1 })] }

/-- A write of the operator to the register at `off` of page `p`. -/
def wr (p off : Nat) (wide : Bool) : HostReq :=
  { cls := 1, bit15 := false, twin := false, ctx := 0, atomic := false, poison := false, id := 7,
    addr := BitVec.ofNat 25 (0x1000000 + p * 4096 + off), size := if wide then 8 else 4, incr := false,
    strobes := if wide then 0xFF else 0x0F, more := [] }

/-- The header of a packet: opcode, length, FLAGS, IMM. -/
def hd (op len flags imm : Nat) : Word := BitVec.ofNat 64 (op + len * 2 ^ 8 + flags * 2 ^ 16 + imm * 2 ^ 40)

/-- A job of an inlined stream that stands at the packet `ws`, before a NOP. -/
def jobAt (ws : List Word) : Job :=
  { entry := [hd 0x40 0 0 0], entryVa := 0x10000, userTag := 0, noNotify := false, phase := .run, rank := .none, status := ST_OK,
    skip := ST_OK, tFetch := 0, tLaunch := 0, tDone := 0, idx := 0, endIdx := none, preds := 0,
    d := List.replicate 14 0, d15 := 0, image := none, layer := 0, operator := 0,
    stack := [⟨.inlined, [ws, [hd 0 1 0 0]], 0, [], 16, 0x10010⟩], fragTable := 0, fragCount := 0, fragNext := 0,
    fragLine := [], hasBuf := false, spillBuf := none, spillImg := none, deferred := [], atomics := 0, launches := 0,
    engineNum := 0, engineDen := 1, stretched := false, energy := 0, deadline := none, fallback := none, dlDone := false,
    run := none, layers := [], held := [], heldKeep := [], bad := none, decoded := false, priorCounted := false, schedCounted := false,
    epochOpen := false, fanReady := none, deferralPass := false, holdSince := none, waitSince := none }

/-- `s` with the scheduler's note of every context as it stands. -/
def noted (s : State) : State := { s with ctxs := s.ctxs.map (fun e => (e.1, { e.2 with eligible := eligible s e.1 })) }

/-- `s` with a job `j` in queue `q`. -/
def withJob (s : State) (q : Nat) (j : Job) : State :=
  noted { s with queues := tset Queue.reset s.queues q { s.queue q with fetched := true }, jobs := [(q, some j)] }

/-- The job of queue 5, a tenant's, stands at `ws`. -/
def pk (ws : List Word) : State := withJob up 5 (jobAt ws)

/-- The packet's effect begins here: the packet counts as decoded. -/
def un (s : State) (q : Nat) : State := countDecoded s q

/-- A memory that answers each of the `n` bytes from `a` with 0 but for the bytes given. -/
def mem (a n : Nat) (bs : List (Nat × Byte)) : MemView := bs ++ (List.range n).map (fun i => (a + i, 0))

/-! ## Witnesses: concrete states and operands that meet a statement's hypotheses, clause by clause

`writesB`, `hostB`, `goB`, `atB` and `peerB` are the checks behind the premises (their `_sound` lemmas), and `okAnd`
says that an operation answers a value, which then is the clause's. -/

theorem witness_StepRunsFront :
    State.reset.pending = [] ∧ State.reset.bsn.porAsserted = true ∧ up.pending = [] ∧ up.bsn.porAsserted = false := by
  decide

/-- The block while rst_blk_n is asserted. -/
def inBlk : State := { up with bsn := { up.bsn with blkAsserted := true } }

/-- Every slice asleep. -/
def spineOnly : State := { up with bsn := { up.bsn with sliceAwake := 0 } }

/-- Slice 3 and the spine wake. -/
def waking : State := { up with bsn := { up.bsn with sliceAwake := 0xF7, sliceWaking := 0x08, spineWaking := true } }

theorem witness_ResetsAndDomains :
    up.bsn.porAsserted = false ∧ State.reset.bsn.porAsserted = true ∧ State.reset.bsn.blkAsserted = false ∧
    inBlk.bsn.blkAsserted = true ∧ inBlk.bsn.porAsserted = false ∧ up.bsn.blkAsserted = false ∧
    (inReset waking = false ∧ waking.bsn.spineWaking = true) ∧
    (inReset waking = false ∧ waking.bsn.sliceWaking.getLsbD 3 = true ∧ waking.bsn.spineAwake = true ∧ waking.bsn.held = []) ∧
    (up.swb.boot = .ready ∧ up.bsn.sliceAwake.getLsbD 7 = true ∧ sliceIdle up 7 = true) ∧
    (spineOnly.swb.boot = .ready ∧ spineOnly.bsn.spineAwake = true ∧ spineIdle spineOnly = true) ∧
    (up.bsn.sliceAwake ≠ 0 ∧ ({ up with per := { up.per with hold := [(5, true)] } } : State).per.hold ≠ []) := by
  decide +kernel

theorem witness_DomainsKept :
    DomainInv { up with pending := [.alert] } ∧ (∃ t, step { up with pending := [.alert] } = .next t) := by
  exact ⟨fun _ => rfl, _, rfl⟩

/-- Debug authentication in CHECKING, after a nonce. -/
def checkingUp (sealed : Option (List Byte)) : State :=
  { up with
    dbg := { up.dbg with st := .checking true, nonce := freeBytes 0 48 }
    parts := [(0, { partUp with sealed := sealed })] }

/-- Whether every check passes rests on signatures (Config.ecdsaVerify): the second clause's premise is met where they
verify. -/
theorem witness_DebugOpenedStands (ha : authReason (checkingUp none) true = 0) :
    ((∃ p ∈ (checkingUp (some [1])).parts, p.2.sealed.isSome = true) ∧ (checkingUp (some [1])).dbg.st = .checking true) ∧
    ((checkingUp none).dbg.st = .checking true ∧ authReason (checkingUp none) true = 0) ∧
    (∃ s : State, s.ntc.debugOpened = true ∧ s.pending.head? ≠ some .powerOnReset ∧ ∃ t, step s = .next t) :=
  ⟨⟨⟨_, List.mem_cons_self, rfl⟩, rfl⟩, ⟨rfl, ha⟩,
   { up with ntc := { up.ntc with debugOpened := true }, pending := [.alert] }, rfl, by decide, _, rfl⟩

theorem witness_WhatCommandsKeep :
    (∃ t, exec .alert up = .next t) ∧ Instr.alert ≠ .powerOnReset ∧ Instr.alert ≠ .blockReset ∧ Instr.alert ≠ .authResult ∧
    (∀ q, Instr.alert ≠ .unitReset q) ∧ (∀ f, Instr.alert ≠ .stage0 f) ∧ (∀ b, Instr.alert ≠ .stage2 b) ∧
    (∀ d m, Instr.alert ≠ .domainWake d m) ∧ (∀ d, Instr.alert ≠ .sleepEntry d) :=
  ⟨⟨_, rfl⟩, nofun, nofun, nofun, nofun, nofun, nofun, nofun, nofun⟩

/-- The STP page locked. -/
def lockedUp : State := { up with pages := [(pgSTP, { Page.reset with lock := true })] }

theorem witness_CommonRegisterWrites :
    (pgSTP ≠ pgMGT ∧ (up.page pgSTP).lock = false ∧ writesB up (wr pgSTP 0x008 false) pgSTP 0x008 false = true ∧
      (1 : Word).getLsbD 0 = true ∧ writesB up (wr pgSTP 0x018 false) pgSTP 0x018 false = true ∧
      writesB up (wr pgSTP 0x010 false) pgSTP 0x010 false = true ∧ writesB up (wr pgSTP 0x028 false) pgSTP 0x028 false = true ∧
      (0x80000000 : Word).getLsbD 31 = true ∧ (0x40000000 : Word).getLsbD 30 = true ∧ (0x40000000 : Word).getLsbD 31 = false ∧
      writesB up (wr pgSTP 0x030 false) pgSTP 0x030 false = true) ∧
    ((lockedUp.page pgSTP).lock = true ∧ writesB lockedUp (wr pgSTP 0x008 false) pgSTP 0x008 false = true ∧
      writesB lockedUp (wr pgSTP 0x018 false) pgSTP 0x018 false = true ∧
      writesB lockedUp (wr pgSTP 0x028 false) pgSTP 0x028 false = true) := by
  decide +kernel

theorem witness_BlockRegisterWrites :
    (writesB up (wr pgID 0x138 false) pgID 0x138 false = true ∧ (up.page pgID).lock = false ∧
      (0x80000005 : Word).getLsbD 31 = true ∧ up.idIrqTarget.getLsbD 31 = false ∧ up.pages = []) ∧
    (writesB up (wr pgBSN 0x100 false) pgBSN 0x100 false = true ∧ (up.page pgBSN).lock = false ∧
      (0x80 : Word).toNat % 256 = 2 ^ 7 ∧ (0x80 : Word).getLsbD 31 = false) ∧
    (writesB up (wr pgHFE 0x108 true) pgHFE 0x108 true = true ∧ (up.page pgHFE).lock = false) ∧
    writesB up (wr pgSTP 0x100 false) pgSTP 0x100 false = true := by
  decide +kernel

/-- Interrupt bit 0 of page STP enabled, and the block's messages enabled. -/
def irqUp : State :=
  { up with pages := [(pgSTP, { Page.reset with irqEnable := 1 })], idIrqTarget := 0x80000005 }

theorem witness_InterruptMessages :
    (((irqUp.page pgSTP).irqStatus &&& (irqUp.page pgSTP).irqEnable = 0 ∧
      ((irqUp.page pgSTP).irqStatus ||| 1) &&& (irqUp.page pgSTP).irqEnable ≠ 0 ∧ irqUp.idIrqTarget.getLsbD 31 = true ∧
      irqUp.ntfQueue.any (fun n => n.src == .page pgSTP) = false) ∧
     ((irqUp.page pgSTP).irqStatus ||| 2) &&& (irqUp.page pgSTP).irqEnable = 0) ∧
    ({ up with ntfQueue := [⟨.page 2, 0, 0, 7⟩] } : State).ntfQueue = ⟨.page 2, 0, 0, 7⟩ :: [] ∧ up.ntfQueue = [] := by
  decide +kernel

/-- The operator's STP_Q_SEL names queue 5, whose record is `r`. -/
def qsel (r : Queue) : State :=
  { up with sel := [(selKey .operator pgSTP 0x100, 5)], queues := [(5, r)] }

theorem witness_QueueControlWrites :
    (∀ r ∈ [queueUp, { queueUp with st := .disabled }, { queueUp with hold := true, fetched := true }],
      writesB (qsel r) (wr pgSTP 0x104 false) pgSTP 0x104 false = true ∧ ((qsel r).page pgSTP).lock = false ∧
      5 = selOf (qsel r) .operator pgSTP 0x100 ∧ (5 : Nat) ≠ 0x3FFFF) ∧
    (let s := qsel { queueUp with st := .disabled }
     (s.queue 5).st = .disabled ∧ (s.queue 5).hold = false ∧ (s.queue 5).fetched = false ∧ (s.queue 5).piRead = .none ∧
     (s.ctx (s.queue 5).owner).st = .active ∧ mayRead s 5 = true ∧ portRoom s (s.queue 5).home = true ∧
     okAnd (qPieces s 5 (idxVa (s.queue 5)) 8 false) (fun _ => true) = true) ∧
    ((qsel queueUp).queue 5).st = .enabled ∧ ((qsel queueUp).queue 5).cls ≠ 2 ∧ ((qsel queueUp).queue 5).hold = false ∧
    (let s := qsel { queueUp with hold := true, fetched := true }
     (s.queue 5).st = .enabled ∧ (s.queue 5).hold = true ∧ (s.queue 5).fetched = true) ∧
    ((1 : Word).getLsbD 0 = true ∧ (1 : Word).getLsbD 1 = false ∧ (3 : Word).getLsbD 0 = true ∧ (3 : Word).getLsbD 1 = true ∧
      (0 : Word).getLsbD 0 = false ∧ (0 : Word).getLsbD 1 = false) := by
  decide +kernel

theorem witness_WatershedWrites :
    writesB up (wr pgWSH 0x100 false) pgWSH 0x100 false = true ∧ (5 : Word).getLsbD 24 = false ∧
    (0x1000000 : Word).getLsbD 24 = true ∧
    (writesB up (wr pgWSH 0x114 false) pgWSH 0x114 false = true ∧ (1 : Word).getLsbD 0 = true ∧ (1 : Word).getLsbD 1 = false ∧
      up.wsh.wfgRunning = false) ∧
    writesB up (wr pgWSH 0x120 true) pgWSH 0x120 true = true := by
  decide +kernel

theorem witness_OwnerAndShareWrites :
    (writesB up (wr pgSAD 0x104 false) pgSAD 0x104 false = true ∧ (up.page pgSAD).lock = false ∧
      (0x100 : Word).getLsbD 8 = true ∧ 0 = selOf up .operator pgSAD 0x100 ∧ (up.barrier 0).valid = false ∧
      (up.barrier 0).changing = none ∧ (up.barrier 0).armed = [] ∧ (up.barrier 0).release = false ∧ up.jobs = []) ∧
    (writesB up (wr pgFAN 0x104 false) pgFAN 0x104 false = true ∧ (up.page pgFAN).lock = false ∧
      0 = selOf up .operator pgFAN 0x100 ∧ (up.fan 0).valid = false ∧ (up.fan 0).changing = none ∧ (up.fan 0).streams = []) ∧
    (writesB up (wr pgECP 0x100 true) pgECP 0x100 true = true ∧ (up.page pgECP).lock = false) ∧
    (writesB up (wr pgSCH 0x148 true) pgSCH 0x148 true = true ∧ (up.page pgSCH).lock = false ∧
      0 = selOf up .operator pgSCH 0x140 ∧ (up.ctx 0).st = .active ∧
      up.ctxs.all (fun e => e.1 == 0 || e.2.part != (up.ctx 0).part || e.2.spadSize == 0) = true) := by
  decide +kernel

/-- The operator's trace session runs. -/
def tracing : State := { up with loe := { up.loe with trace := { up.loe.trace with owner := some .operator } } }

/-- RECOVERY with a verified image of no bytes and its place in serial memory. -/
def recovering : State :=
  { up with swb := { up.swb with boot := .recovery, verified := true, fwFlash := some 0x10000 } }

theorem witness_TraceStoreAndRecovery :
    (writesB up (wr pgLOE 0x180 false) pgLOE 0x180 false = true ∧ (up.page pgLOE).lock = false ∧ (1 : Word).getLsbD 0 = true ∧
      (1 : Word).getLsbD 1 = false ∧ up.loe.trace.owner = none) ∧
    (writesB tracing (wr pgLOE 0x180 false) pgLOE 0x180 false = true ∧ (tracing.page pgLOE).lock = false ∧
      (2 : Word).getLsbD 0 = false ∧ (2 : Word).getLsbD 1 = true ∧ tracing.loe.trace.owner = some .operator) ∧
    (let s := { up with swb := { up.swb with spiDst := 0x3FF0000, spiLen := 4096 } }
     writesB s (wr pgSWB 0x138 false) pgSWB 0x138 false = true ∧ s.swb.spiBusy = false ∧
     storeAllowed s (s.swb.spiDst.toNat % 2 ^ 26) (s.swb.spiLen.toNat % 2 ^ 27) = true) ∧
    (recovering.swb.boot = .recovery ∧ writesB recovering (wr pgSWB 0x140 false) pgSWB 0x140 false = true ∧
      writesB recovering (wr pgSWB 0x148 true) pgSWB 0x148 true = true ∧ recovering.swb.rcvCount + 8 ≤ 8388608 ∧
      recovering.swb.verified = true ∧ recovering.swb.fwFlash = some 0x10000 ∧
      storeAllowed recovering 0x10000 ((imgBytes recovering.swb.fwImage + 96 + 4095) / 4096 * 4096) = true) := by
  decide +kernel

/-- A tenant's 4-byte read of the debug page. -/
def tenantRead : HostReq :=
  { cls := 0, bit15 := false, twin := false, ctx := 1, atomic := false, poison := false, id := 7, addr := 0x1029100,
    size := 4, incr := false, strobes := 0, more := [] }

/-- HALTED, with a window over BSN_TIMEBASE, over a page that is not mapped, and over a debug register. -/
def windowUp (sel : Nat) : State :=
  { up with swb := { up.swb with boot := .halted }, mgt := { up.mgt with winSel := BitVec.ofNat 32 sel } }

theorem witness_ManagementAccesses :
    (up.bsn.porAsserted = false ∧ up.bsn.blkAsserted = false ∧ up.bsn.held = [] ∧ up.bsn.spineAwake = true) ∧
    up.swb.boot = .ready ∧
    (let s := windowUp 0x26108
     s.bsn.spineAwake = true ∧ s.swb.boot = .halted ∧ s.mgt.winSel.toNat / 4096 = 0x26 ∧ mapped 0x26 = true ∧
     (0x26 : Nat) ≠ pgDBG ∧ pageAwake s 0x26 = true) ∧
    (let s := windowUp 0x29104
     s.mgt.winSel.toNat / 4096 = pgDBG ∧ s.mgt.winSel.toNat % 4096 = 0x104 ∧ mapped pgDBG = true ∧ pageAwake s pgDBG = true) ∧
    ((windowUp 0x30000).mgt.winSel.toNat / 4096 = 0x30 ∧ mapped 0x30 = false) ∧
    ((windowUp 0x29100).mgt.winSel.toNat / 4096 = pgDBG ∧ (windowUp 0x29100).mgt.winSel.toNat % 4096 ≠ 0x104) ∧
    ({ windowUp 0 with swb := { up.swb with boot := .failed } } : State).swb.boot = .failed ∧
    ({ windowUp 0 with swb := { up.swb with boot := .recovery } } : State).swb.boot = .recovery ∧
    (tenantRead.cls = 0#2 ∧ tenantRead.bit15 = false ∧ tenantRead.twin = false ∧ tenantRead.single = true ∧
      tenantRead.size = 4 ∧ tenantRead.addr.toNat = 0x1029100) := by
  decide

/-- Debug authentication in a state of Table 16.8. -/
def dbgUp (a : AuthState) : State := { up with dbg := { up.dbg with st := a } }

/-- As in witness_DebugOpenedStands, the third clause's premise is met where the signatures verify. -/
theorem witness_DebugAuthentication (ha : authReason (checkingUp none) true = 0) :
    ((up.bsn.porAsserted = false ∧ up.bsn.blkAsserted = false ∧ up.bsn.held = []) ∧ up.dbg.st = .idle ∧
      (dbgUp .challenged).dbg.st = .challenged ∧ (dbgUp .open).dbg.st = .open) ∧
    ((checkingUp none).dbg.st = .checking true ∧ authReason (checkingUp none) true = 0) ∧
    ((dbgUp (.checking false)).dbg.st = .checking false ∧ authReason (dbgUp (.checking false)) false ≠ 0) := by
  refine ⟨by decide, ⟨rfl, ha⟩, rfl, by decide +kernel⟩

/-- A doorbell, signal-page or mailbox write: the operator's, or that of context 1's tenant. -/
def hw (operator : Bool) (addr size : Nat) : HostReq :=
  { cls := if operator then 1 else 0, bit15 := false, twin := false, ctx := if operator then 0 else 1, atomic := false,
    poison := false, id := 7, addr := BitVec.ofNat 25 addr, size := size, incr := false,
    strobes := if size = 8 then 0xFF else 0x0F, more := [] }

theorem witness_DoorbellWrites :
    (hostB up (hw false (5 * 64) 4) false (5 * 64) 4 = true ∧ hostB up (hw true (4 * 64) 4) true (4 * 64) 4 = true) ∧
    (doorbellOwner up 5 0 1 = true ∧ (up.queue 5).st = .enabled ∧ (up.ctx (up.queue 5).owner).st = .active) ∧
    (hostB up (hw false (4 * 64) 4) false (4 * 64) 4 = true ∧ doorbellOwner up 4 0 1 = false) ∧
    (let s := withJob up 5 (jobAt [])
     hostB s (hw false (5 * 64) 4) false (5 * 64) 4 = true ∧ (s.queue 5).fetched = true ∧ (s.queue 5).pend = false ∧
     sliceUp s (s.queue 5).home = true) := by
  decide +kernel

/-- Entry 3 of context 0's sync table: a plain fence at 0x10040, and entry 4 a counting one at 0x10080. -/
def syncUp : State :=
  { up with wsh := { up.wsh with syncCache := [(3, (0x10041, 0)), (4, (0x10085, 100)), (2 ^ 24 + 3, (0x10041, 0)),
                                               (2 ^ 24 + 4, (0x10085, 100))] } }

/-- The same, with the line of the plain fence cached in line entry 0. -/
def lineUp : State :=
  { syncUp with wsh := { syncUp.wsh with lines := [(0, { Line.reset with
      used := true, pa := 0x10040, key := 1, home := 1, value := some 5, reread := false })] } }

/-- The state once a signal-page write has been answered and counted. -/
def answered (s : State) : State := count (emit s (.hostResp 7 0)) pgHFE 4

theorem witness_SignalPageWrites :
    syncUp.bsn.spineAwake = true ∧
    (hostB syncUp (hw true 0x1100000 8) true 0x1100000 8 = true ∧
      okAnd (resolveFence (answered syncUp) 0 ((BitVec.ofNat 64 (7 + 3 * 2 ^ 40)) >>> 40) (some false) true [])
        (fun x => x.2.home == dieId x.1 && findLine x.1 x.2 == none && !keyStopped x.1 x.2.key &&
          portRoom x.1 (x.2.pa / 64 % 8)) = true) ∧
    (hostB syncUp (hw true 0x1100008 8) true 0x1100008 8 = true ∧
      okAnd (resolveFence (answered syncUp) 0 ((BitVec.ofNat 64 (7 + 4 * 2 ^ 40)) >>> 40) (some true) true [])
        (fun x => x.2.home == dieId x.1 && findLine x.1 x.2 == none && !keyStopped x.1 x.2.key && !orderHeld x.1 x.2.pa &&
          portRoom x.1 (x.2.pa / 64 % 8)) = true) ∧
    (hostB lineUp (hw true 0x1100010 8) true 0x1100010 8 = true ∧ (3 : Word).toNat < 2 ^ 24 ∧
      okAnd (resolveFence (answered lineUp) 0 3 none false [])
        (fun x => x.2.home == dieId x.1 && findLine x.1 x.2 == some 0 && !(x.1.line 0).reread &&
          !keyStopped x.1 (x.1.line 0).key && !lineBusy x.1 (x.1.line 0).pa && portRoom x.1 ((x.1.line 0).pa / 64 % 8)) = true) ∧
    (hostB up (hw true (0x1100000 + 4088) 8) true (0x1100000 + 4088) 8 = true ∧ 0x10 < 4088 ∧ 4088 < 4096 ∧ 4088 % 8 = 0) := by
  decide +kernel

/-- The mailbox in the operator's hands, with a session of requester [1] established and one open. -/
def mbxUp : State :=
  { up with ntc := { up.ntc with
      mbx := { up.ntc.mbx with owner := some (true, 0) }
      sessions := [⟨7, some [1], true, 0, [], 0⟩, ⟨8, none, false, 0, [.getDigests, .getCertificate], 0⟩] } }

theorem witness_Mailbox :
    (hostB up (hw true 0x1101004 4) true 0x1101004 4 = true ∧ up.bsn.spineAwake = true ∧ (1 : Word).toNat % 256 = 1 ∧
      up.ntc.mbx.owner = none) ∧
    (hostB mbxUp (hw true 0x1101004 4) true 0x1101004 4 = true ∧ mbxUp.bsn.spineAwake = true ∧ (4 : Word).toNat % 256 = 4 ∧
      mbxUp.ntc.mbx.owner = some (true, 0)) ∧
    up.ntc.mbx.data.wf = true := by
  decide +kernel

theorem witness_MailboxRequests :
    goB mbxUp (hw true 0x1101004 4) 2 = true ∧ (List.replicate 32 (0 : Byte)).length = 32 ∧ (0 : Byte) ≠ 0xFD ∧
    (mbxUp.ntc.sessions.length < 16 ∧ mbxUp.ntc.sessions.all (fun x => x.sid != (9 : BitVec 16).toNat) = true) ∧
    (mbxUp.ntc.sessions.find? (fun x => x.sid == (8 : BitVec 16).toNat) =
      some ⟨8, none, false, 0, [.getDigests, .getCertificate], 0⟩) ∧
    established mbxUp (7 : BitVec 16).toNat = true ∧
    (mbxUp.ntc.mbx.large.length ≤ 2048 * 0 ∧
      2048 * 1 < ({ mbxUp.ntc.mbx with large := List.replicate 2049 0 } : Mailbox).large.length) ∧
    ([1, 2] : List Byte).length ≤ 2048 ∧ mbxUp.ntc.mbx.chunks.length + 2 ≤ 1048576 := by
  decide +kernel

/-- Partition 0 sealed by the requester of session 7, and key slot 2 ACTIVE there. -/
def sealedUp : State :=
  { mbxUp with
    parts := [(0, { partUp with sealed := some [1] })]
    ntc := { mbxUp.ntc with slots := [(2, { KeySlot.reset with st := .active, ctx := 1 })] } }

theorem witness_VendorCommands :
    goB sealedUp (hw true 0x1101004 4) 2 = true ∧ established sealedUp (7 : BitVec 16).toNat = true ∧
    ((List.replicate 228 (0 : Byte)).length = 228 ∧
      ownerSession sealedUp 7 (leNat ((List.replicate 228 (0 : Byte)).take 1)) = true ∧ freeKeySlot sealedUp = some 3) ∧
    (goB mbxUp (hw true 0x1101004 4) 2 = true ∧ established mbxUp 7 = true ∧
      ownerSession mbxUp 7 (leNat ((List.replicate 228 (0 : Byte)).take 1)) = false) ∧
    (([2, 0] : List Byte).length = 2 ∧ 2 ≤ leNat [2, 0] % 4096 ∧ ownerSession sealedUp 7 (sealedUp.slot 2).part = true) ∧
    (requesterOf mbxUp 7).isSome = true ∧
    (List.replicate 32 (0 : Byte)).length = 32 ∧
    (let body : List Byte := [0, 0, 0, 0, 0, 0, 0, 0, 16, 0]
     body.length = 10 ∧ leNat (body.drop 8) = 16 ∧ leNat ((body.drop 1).take 3) = 0) := by
  decide +kernel

/-- Queue 5 with the record `r`. -/
def qUp (r : Queue) : State := { up with queues := [(5, r)] }

theorem witness_ProducerIndex :
    (let s := qUp queueUp
     (s.queue 5).st = .enabled ∧ (s.queue 5).hold = false ∧ (s.queue 5).fetched = false ∧ mayRead s 5 = true ∧
     1 ≤ (s.queue 5).poll ∧ s.timebase.toNat % (2 ^ ((s.queue 5).poll - 1) * 1000) = 0 ∧ (s.queue 5).piRead = .none ∧
     (s.queue 5).freshDue = false ∧ (s.queue 5).pollHeld = false ∧ (s.queue 5).wait = false ∧
     portRoom s (s.queue 5).home = true ∧
     okAnd (qPieces s 5 ((s.queue 5).idxLine * 64) 8 false) (fun _ => true) = true) ∧
    (let s := qUp { queueUp with piRead := .plain, ci := 0xFFFFFFFF }
     (s.queue 5).st = .enabled ∧ (s.queue 5).hold = false ∧ (s.queue 5).fetched = false ∧ mayRead s 5 = true ∧
     (s.queue 5).piRead = .plain ∧ (s.queue 5).pend = false ∧ (s.queue 5).freshDue = false ∧ (s.queue 5).pollHeld = false ∧
     portRoom (landed s (.queue 5 .piRead)) (s.queue 5).home = true ∧
     ((15 : Word).setWidth 32 - (s.queue 5).ci : W32) ≠ 0 ∧
     ((15 : Word).setWidth 32 - (s.queue 5).ci : W32).toNat ≤ 2 ^ (s.queue 5).log2 ∧
     okAnd (qPieces s 5 ((s.queue 5).ringBase * 4096 + (s.queue 5).ci.toNat % 2 ^ (s.queue 5).log2 * 64) 64 false)
       (fun _ => true) = true) := by
  decide +kernel

/-- An inline entry at sequence 0 with six NOPs. -/
def inlineEntry : List Word :=
  [BitVec.ofNat 64 (2 ^ 30 + 6 * 2 ^ 27), 9] ++ List.replicate 6 (hd 0 1 0 0)

/-- The job of queue 5 in a phase. -/
def inPhase (p : Phase) (j : Job) : State := withJob up 5 { j with phase := p }

/-- A job whose next fragment is one NOP. -/
def fragJob : Job :=
  { jobAt [] with fragLine := [0x10000, BitVec.ofNat 64 8], fragCount := 1, hasBuf := true, stack := [] }

/-- A fragment-list entry at sequence 0 with one fragment, its table at 0x10000. -/
def listEntry : List Word := [BitVec.ofNat 64 (2 ^ 31), 9, 0x10000, 1, 0, 0, 0, 0]

theorem witness_EntriesAndBuffers_list :
    (let s := qUp { queueUp with entryRead := true, fetched := true }
     entryStatus (s.queue 5).ci listEntry = ST_OK ∧ fld (wordAt listEntry 0) 31 30 = 2 ∧ listEntry.length = 8 ∧
     portRoom (landed s (.queue 5 .entryRead)) (s.queue 5).home = true ∧
     okAnd (qPieces s 5 (wordAt listEntry 2).toNat 64 false) (fun _ => true) = true) ∧
    (let s := inPhase .fragTable fragJob
     let ws : List Word := [0x10000, 8, 0, 0, 0, 0, 0, 0]
     s.job 5 = some { fragJob with phase := .fragTable } ∧ ws.length = 8 ∧ fragJob.hasBuf = true ∧ fragJob.waitSince = none ∧
     fragEntry { fragJob with phase := .fragTable, fragLine := ws } = (0x10000, 8, 0) ∧ fragOk (0x10000, 8, 0) = true ∧
     portRoom (landed s (.queue 5 .fragRead)) (s.queue 5).home = true ∧
     okAnd (qPieces s 5 0x10000 8 false) (fun _ => true) = true) := by
  decide +kernel

theorem witness_EntriesAndBuffers :
    (let s := qUp { queueUp with entryRead := true, fetched := true }
     s.halted = false ∧ (5 : BitVec 18).toNat ≠ 0x3FFFF ∧ (s.queue 5).entryRead = true ∧ (s.queue 5).hold = false ∧
     (s.ctx (s.queue 5).owner).st ≠ .lost ∧
     (s.ctx (s.queue 5).owner).lastStatus = ST_OK ∧ (s.ctx (s.queue 5).owner).aborting = false ∧ inlineEntry.length = 8 ∧
     entryStatus (s.queue 5).ci inlineEntry = ST_OK ∧ fld (wordAt inlineEntry 0) 31 30 = 1 ∧
     checkBuffer (s.queue 5).cls 0 0 ((inlineEntry.drop 2).take (fld (wordAt inlineEntry 0) 29 27)) = ST_OK) ∧
    (let s := inPhase .fragRead fragJob
     s.job 5 = some { fragJob with phase := .fragRead } ∧ fragEntry { fragJob with phase := .fragRead } = (0x10000, 8, 0) ∧
     fragOk (0x10000, 8, 0) = true ∧
     [hd 0 1 0 0].length * 8 = 8 ∧ (s.queue 5).crc = false ∧ checkBuffer (s.queue 5).cls 0 0 [hd 0 1 0 0] = ST_OK ∧
     pktsOf [hd 0 1 0 0] ≠ []) ∧
    (let s := { inPhase (.bufWait true) fragJob with slices := [(0, { Slice.reset with fragWait := [5] })] }
     s.halted = false ∧ (s.queue 5).home = (0 : BitVec 3).toNat ∧ (s.slice 0).fragWait = [5] ∧ 0 < (s.slice 0).fragFree ∧
     s.job 5 = some { fragJob with phase := .bufWait true } ∧ fragJob.waitSince = none ∧
     fragJob.spillBuf = none ∧ fragJob.spillImg = none ∧ ([] : List Nat).all (· != 5) = true) ∧
    (let s := { inPhase .imgWait fragJob with slices := [(0, { Slice.reset with imgWait := [5] })] }
     (s.queue 5).home = (0 : BitVec 3).toNat ∧ (s.slice 0).imgWait = [5] ∧ 0 < (s.slice 0).imgFree ∧
     s.job 5 = some { fragJob with phase := .imgWait } ∧ fragJob.image = none) := by
  decide +kernel

theorem witness_JobEnd :
    (let s := inPhase .drained (jobAt [])
     s.halted = false ∧ (∃ j, s.job 5 = some j ∧ j.phase = .drained ∧ openRecs s 5 = 0 ∧ j.atomics = 0 ∧ j.deferred = [] ∧
       j.layers = [] ∧ s.loe.watches = [] ∧ portRoom s (s.queue 5).home = true ∧
       okAnd (qPieces s 5 j.entryVa 64 true) (fun _ => true) = true)) ∧
    (let s := inPhase .record (jobAt [])
     ∃ j, s.job 5 = some j ∧ j.phase = .record ∧ portRoom (landed s (.queue 5 .recordWrite)) (s.queue 5).home = true ∧
       okAnd (qPieces s 5 ((s.queue 5).idxLine * 64 + 8) 8 true) (fun _ => true) = true) ∧
    (let s := { inPhase .ciWrite (jobAt []) with
                queues := [(5, { queueUp with fetched := true, piSeen := 1, piRead := .plain })] }
     ∃ j, s.job 5 = some j ∧ j.phase = .ciWrite ∧ (5 : BitVec 18).toNat ≠ 0x3FFFF ∧ j.image = none ∧ j.spillImg = none ∧
       (s.queue 5).ntfEn = false ∧ jobStatus j = ST_OK ∧ (s.queue 5).piSeen = (s.queue 5).ci + 1 ∧ (s.queue 5).pend = false ∧
       (s.queue 5).freshDue = false ∧ (s.queue 5).pollHeld = false) ∧
    (let f : Flight := ⟨0, .queue 5 .piRead, [], true⟩
     ({ up with flights := [f] } : State).flights.find? (fun f => f.who == .queue 5 .piRead && f.sent) = some f) := by
  refine ⟨⟨by decide +kernel, _, rfl, ?_⟩, ⟨_, rfl, ?_⟩, ⟨_, rfl, ?_⟩, ?_⟩ <;> decide +kernel

/-- The MREF of virtual address `va`: its first word, `va` being its second. -/
def vaForm : Word := BitVec.ofNat 64 (2 ^ 63)

theorem witness_Retirement :
    (let s := pk [hd 0 1 0 0]
     ∃ j f, s.job 5 = some j ∧ j.held = [] ∧ bumpTop j.stack = [f] ∧ f.pc < f.pkts.length) ∧
    (let s := withJob up 5 { jobAt [] with stack := [⟨.inlined, [[hd 0 1 0 0]], 0, [], 16, 0⟩] }
     ∃ j f, s.job 5 = some j ∧ j.held = [] ∧ bumpTop j.stack = [f] ∧ f.pkts.length ≤ f.pc ∧ f.kind = .inlined ∧
       j.hasBuf = false ∧ j.spillBuf = none) :=
  ⟨⟨_, _, rfl, rfl, rfl, by decide⟩, _, _, rfl, rfl, rfl, by decide, rfl, rfl, rfl⟩

/-- A NOP under predicate P3, not inverted. -/
def predNop : List Word := [BitVec.ofNat 64 (2 ^ 8 + 3 * 2 ^ 32 + 2 ^ 39)]

/-- QUEUE_CREATE without and with RELEASE, and CALL_ROUTINE, under the same predicate. -/
def predOp (op flags : Nat) : List Word := [BitVec.ofNat 64 (op + 2 ^ 8 + flags * 2 ^ 16 + 3 * 2 ^ 32 + 2 ^ 39)]

theorem witness_PredicatedOff :
    (let s := pk predNop
     ∃ j, s.job 5 = some j ∧ curPkt j = some predNop ∧ s.halted = false ∧ j.phase = .run ∧
       sliceUp s (s.queue 5).home = true ∧ (s.slice (s.queue 5).home).paused = false ∧ areaFault s 5 j = none ∧
       bitAt (hdrOf predNop) 39 = true ∧ predOn j (hdrOf predNop) = false ∧ opOf (hdrOf predNop) = 0 ∧ j.held = [] ∧
       ∃ f, j.stack = [f] ∧ f.pc + 1 < f.pkts.length) ∧
    bitAt (hdrOf [hd 0 1 0 0]) 39 = false ∧
    (∀ p ∈ [(0x82, 0), (0x82, 1), (0x27, 0)],
      let ws := predOp p.1 p.2
      let s := pk ws
      s.job 5 = some (jobAt ws) ∧ curPkt (jobAt ws) = some ws ∧ areaFault s 5 (jobAt ws) = none ∧
      predOn (jobAt ws) (hdrOf ws) = false ∧ opOf (hdrOf ws) = p.1 ∧ pktFlag s 5 0 = decide (p.2 = 1)) :=
  ⟨⟨_, rfl, by decide +kernel, by decide, rfl, by decide, by decide, rfl, by decide +kernel, by decide +kernel,
    by decide +kernel, rfl, _, rfl, by decide⟩, by decide +kernel, by decide +kernel⟩

/-- The job of queue 5 at `ws` within the open blocks `bs`. -/
def blockJob (bs : List Block) (ws : List Word) : Job :=
  { jobAt ws with stack := [⟨.inlined, [ws, [hd 0 1 0 0]], 0, bs, 16, 0x10010⟩] }

/-- IF: D3 compared with 7; IF of 8 bytes of memory, to a predicate. -/
def ifReg : List Word := [hd 0x20 5 1 0, 3, 0, 7, 0xFF]
def ifMem : List Word := [hd 0x20 5 0x300 0, vaForm, 0x10000, 7, 0xFF]

/-- LOOP of 0 and of 2^32 - 1 iterations, of D3, and of 8 bytes of memory. -/
def loopImm (n : Nat) : List Word := [hd 0x23 3 0 0, BitVec.ofNat 64 n, 0]
def loopReg : List Word := [hd 0x23 3 1 0, 3, 0]
def loopMem : List Word := [hd 0x23 3 2 0, vaForm, 0x10000]

theorem witness_ControlPackets :
    atB (pk [hd 0 1 0 0]) 5 0x00 (jobAt [hd 0 1 0 0]) [hd 0 1 0 0] = true ∧
    (atB (pk ifReg) 5 0x20 (jobAt ifReg) ifReg = true ∧ flagsOf (hdrOf ifReg) % 4 = 1 ∧
      (flagsOf (hdrOf ifReg)).testBit 8 = false ∧ (flagsOf (hdrOf ifReg)).testBit 9 = false) ∧
    (atB (pk ifMem) 5 0x20 (jobAt ifMem) ifMem = true ∧ flagsOf (hdrOf ifMem) % 4 = 0 ∧
      okAnd (readWordOp (un (pk ifMem) 5) 5 (wordAt ifMem 1) (wordAt ifMem 2) (mem 0x10000 8 [])) (fun _ => true) = true ∧
      (flagsOf (hdrOf ifMem)).testBit 8 = true ∧ (flagsOf (hdrOf ifMem)).testBit 9 = true) ∧
    (∀ op ∈ [0x21, 0x22], atB (withJob up 5 (blockJob [.ifb true] [hd op 1 0 0])) 5 op (blockJob [.ifb true] [hd op 1 0 0])
      [hd op 1 0 0] = true) ∧
    (∀ n ∈ [0, 0xFFFFFFFF], atB (pk (loopImm n)) 5 0x23 (jobAt (loopImm n)) (loopImm n) = true ∧
      flagsOf (hdrOf (loopImm n)) % 4 = 0) ∧
    (atB (pk loopReg) 5 0x23 (jobAt loopReg) loopReg = true ∧ flagsOf (hdrOf loopReg) % 4 = 1) ∧
    (atB (pk loopMem) 5 0x23 (jobAt loopMem) loopMem = true ∧ flagsOf (hdrOf loopMem) % 4 = 2 ∧
      okAnd (readWordOp (un (pk loopMem) 5) 5 (wordAt loopMem 1) (wordAt loopMem 2) (mem 0x10000 8 [])) (fun _ => true) = true) ∧
    (let j := blockJob [.loopb 0 1 2] [hd 0x24 1 0 0]
     atB (withJob up 5 j) 5 0x24 j [hd 0x24 1 0 0] = true ∧
     j.stack.map (·.blocks) = [[.loopb 0 1 2]]) := by
  decide +kernel

/-- CALL_BUFFER of the 8 bytes at 0x10000, which hold a NOP. -/
def callPkt : List Word := [hd 0x25 4 0 0, vaForm, 0x10000, 8]

theorem witness_CallPackets :
    (let j := { jobAt callPkt with hasBuf := true }
     let s := withJob up 5 j
     let m := mem 0x10000 8 [(0x10001, 1)]
     atB s 5 0x25 j callPkt = true ∧ j.stack.length ≤ 16 ∧ j.hasBuf = true ∧
     (j.stack.map (·.bytes)).sum + fld (wordAt callPkt 3) 16 0 ≤ 65536 ∧
     okAnd (readOp (un s 5) 5 (wordAt callPkt 1) (wordAt callPkt 2) (fld (wordAt callPkt 3) 16 0) m) (fun bs =>
       checkBuffer (s.queue 5).cls (openIfs j) (openLoops j) (wordsOfBytes bs) == ST_OK) = true ∧
     okAnd (resolveMref ((un s 5).ctx ((un s 5).queue 5).owner) (wordAt callPkt 1) (wordAt callPkt 2) 8 false)
       (fun _ => true) = true ∧
     (s.queue 5).crc = false) ∧
    (let j := { jobAt [hd 0x26 1 0 0] with stack := ⟨.called, [[hd 0x26 1 0 0]], 0, [], 8, 0x10000⟩ :: (jobAt callPkt).stack }
     atB (withJob up 5 j) 5 0x26 j [hd 0x26 1 0 0] = true) ∧
    atB (pk [hd 0x26 1 0 0]) 5 0x26 (jobAt [hd 0x26 1 0 0]) [hd 0x26 1 0 0] = true := by
  decide +kernel

/-- SET_CONST inline and from memory, TIMESTAMP to a register and to memory, TAG of layer 0 and of layer 5, WATCH,
PHASE_HINT. -/
def constInl : List Word := [hd 0x05 3 0 0, 0, 42]
def constMem : List Word := [hd 0x05 4 1 0, BitVec.ofNat 64 (8 * 2 ^ 16 + 4088), vaForm, 0x10000]
def timeReg : List Word := [hd 0x42 1 1 13]
def timeMem : List Word := [hd 0x42 3 0 0, vaForm, 0x10000]
def tagPkt (layer : Nat) : List Word := [hd 0x40 2 0 0, BitVec.ofNat 64 (layer + 9 * 2 ^ 32)]
def watchPkt : List Word := [hd 0x43 6 0 0, vaForm, 0x10000, vaForm, 0x20000, BitVec.ofNat 64 (16 + 3 * 2 ^ 32)]
def hintPkt : List Word := [hd 0x41 2 0 0, BitVec.ofNat 64 (5 + 100 * 2 ^ 32)]

theorem witness_DataPackets :
    (∀ ws ∈ [constInl, constMem],
      let j := { jobAt ws with image := some [] }
      atB (withJob up 5 j) 5 0x05 j ws = true) ∧
    flagsOf (hdrOf constInl) % 2 = 0 ∧
    (flagsOf (hdrOf constMem) % 2 = 1 ∧
      okAnd (readOp (un (withJob up 5 { jobAt constMem with image := some [] }) 5) 5 (wordAt constMem 2) (wordAt constMem 3)
        (fld (wordAt constMem 1) 28 16) (mem 0x10000 8 [])) (fun _ => true) = true) ∧
    (atB (pk timeReg) 5 0x42 (jobAt timeReg) timeReg = true ∧ flagsOf (hdrOf timeReg) % 2 = 1) ∧
    (atB (pk timeMem) 5 0x42 (jobAt timeMem) timeMem = true ∧ flagsOf (hdrOf timeMem) % 2 = 0 ∧
      okAnd (writeOp (un (pk timeMem) 5) 5 (wordAt timeMem 1) (wordAt timeMem 2) (leBytes 8 (pk timeMem).now))
        (fun _ => true) = true) ∧
    (∀ l ∈ [0, 5], atB (pk (tagPkt l)) 5 0x40 (jobAt (tagPkt l)) (tagPkt l) = true ∧
      (pk (tagPkt l)).loe.trace.owner = none ∧ (BitVec.ofNat 32 (fld (wordAt (tagPkt l) 1) 31 0) : W32) = BitVec.ofNat 32 l ∧
      (jobAt (tagPkt l)).layer = 0 ∧ outerGraph (jobAt (tagPkt l)) = none) ∧
    (atB (pk watchPkt) 5 0x43 (jobAt watchPkt) watchPkt = true ∧
      okAnd (resolveMref ((un (pk watchPkt) 5).ctx 1) (wordAt watchPkt 1) (wordAt watchPkt 2) 16 false) (fun _ => true) = true ∧
      okAnd (resolveMref ((un (pk watchPkt) 5).ctx 1) (wordAt watchPkt 3) (wordAt watchPkt 4) (64 + 16) true)
        (fun _ => true) = true ∧
      ((un (pk watchPkt) 5).loe.watches.filter (fun w => w.ctx == 1)).length < 16) ∧
    atB (pk hintPkt) 5 0x41 (jobAt hintPkt) hintPkt = true ∧ learnFind up 0 5 = none ∧ (100 : Nat) ≠ 0 := by
  decide +kernel

/-- A graph image of one segment, a TAG of layer 5 and a NOP, and of one layer; `args` arguments. -/
def graphImg (args : Nat) : List Word :=
  [BitVec.ofNat 64 (0x5247474B + 2 ^ 32 + 64 * 2 ^ 48), BitVec.ofNat 64 (1 + 2 ^ 16 + args * 2 ^ 32),
   BitVec.ofNat 64 (64 + 80 * 2 ^ 32), 120, 0, 0, 0, 0, BitVec.ofNat 64 (96 + 24 * 2 ^ 32), 0, 5, 0,
   hd 0x40 2 0 0, 5, hd 0 1 0 0]

/-- The graph stored for handle 3 of context 1, version 1 newest. -/
def graphRec (args : Nat) : Graph :=
  { slots := [{ GSlot.reset with version := 1, st := .newest, image := graphImg args, bytes := 120, grans := [20], order := 1 },
              GSlot.reset, GSlot.reset, GSlot.reset], last := 1, patching := none }

/-- `s` with that graph. -/
def withGraph (s : State) (args : Nat) : State := s.setGraph (graphKey 1 3) (some (graphRec args))

/-- Handle 3 of context 1. -/
def h3 : Word := 0x01000003

def deadlinePkt (rel : Nat) : List Word := [hd 0x32 2 rel 0, 500]
def fallbackPkt : List Word := [hd 0x33 2 0 0, h3]

/-- A switch is due at layer `layer`: the job runs version 1 of its graph and falls back to the same. -/
def switchJob (layer : Nat) : Job :=
  { jobAt [] with
    phase := .switchWait layer, run := some ⟨graphKey 1 3, 0, 0, 1, 0⟩, fallback := some 0x01000003
    stack := [⟨.graph (graphKey 1 3) 0 0 3, imgSegPkts (graphImg 0) 0, 0, [], 24, 96⟩] ++ (jobAt fallbackPkt).stack }

theorem witness_DeadlinePackets :
    (∀ rel ∈ [0, 1], atB (pk (deadlinePkt rel)) 5 0x32 (jobAt (deadlinePkt rel)) (deadlinePkt rel) = true ∧
      (jobAt (deadlinePkt rel)).dlDone = false) ∧
    (let j := { jobAt (deadlinePkt 0) with dlDone := true }
     atB (withJob up 5 j) 5 0x32 j (deadlinePkt 0) = true ∧ j.dlDone = true) ∧
    (let s := withGraph (pk fallbackPkt) 0
     atB s 5 0x33 (jobAt fallbackPkt) fallbackPkt = true ∧ (jobAt fallbackPkt).dlDone = false ∧
     okAnd (resolveHandle ((un s 5).ctx 1) (fld (wordAt fallbackPkt 1) 31 0)) (fun i =>
       ((un s 5).graph (graphKey 1 i)).isSome) = true) ∧
    (let j := { jobAt fallbackPkt with dlDone := true }
     atB (withJob up 5 j) 5 0x33 j fallbackPkt = true ∧ j.dlDone = true) ∧
    (∀ layer ∈ [5, 6],
      let j := switchJob layer
      let s := withGraph (withJob up 5 j) 0
      let img := graphImg 0
      s.job 5 = some j ∧ j.phase = .switchWait layer ∧ j.run = some ⟨graphKey 1 3, 0, 0, 1, 0⟩ ∧ j.fallback = some 0x01000003 ∧
      s.graph (graphKey 1 (hIdx 0x01000003)) = some (graphRec 0) ∧ newestSlot (graphRec 0) = some 0 ∧ s.halted = false ∧
      tokensDone s 5 = true ∧ sliceUp s (s.queue 5).home = true ∧ img = (gslot s (graphKey 1 (hIdx 0x01000003)) 0).image ∧
      (layer = 6 → ∀ i ∈ List.range (imgLayers img), (imgLayer img i).1 ≠ layer) ∧
      (layer = 5 → (List.range (imgLayers img)).find? (fun k => (imgLayer img k).1 == layer) = some 0 ∧
        imgLayer img 0 = (layer, 0, 0, 0) ∧ (pktAt (imgSegPkts img 0) 0 0).isSome = true)) := by
  decide +kernel

/-- GRAPH_RUN of the newest version, with arguments of memory, none given, and none asked for; GRAPH_PATCH from the object
itself. -/
def runPkt (a b : Word) : List Word := [hd 0x30 4 0 0, h3, a, b]
def patchPkt : List Word := [hd 0x31 4 0 0, h3, vaForm, 0]

/-- The bytes of an image at granule 1, where handle 3's object lies. -/
def imgMem : MemView := (bytesOfWords (graphImg 0)).zipIdx.map (fun e => (0x10000 + e.2, e.1))

/-- Queue 5's packet counted as decoded, after a run of its processor that retires one instruction. -/
def quiet : FwRun := ⟨0, [(0x100, 0x13)], false⟩
def ran (s : State) : State := traceInstructions (un s 5) 0 0 1 quiet

theorem witness_GraphPackets :
    (∀ a ∈ [(0, vaForm, (0 : Word)), (2, vaForm, 0), (2, vaForm, 0x20000)],
      let ws := runPkt a.2.1 a.2.2
      let s := withGraph (pk ws) a.1
      atB s 5 0x30 (jobAt ws) ws = true ∧ okAnd (resolveHandle ((ran s).ctx 1) (fld (wordAt ws 1) 31 0)) (· == 3) = true ∧
      (ran s).graph (graphKey 1 3) = some (graphRec a.1) ∧ newestSlot (graphRec a.1) = some 0 ∧
      runSlot (graphRec a.1) (fld (wordAt ws 1) 39 32) = some 0 ∧ (jobAt ws).stack.length ≤ 16 ∧
      (gslot (ran s) (graphKey 1 3) 0).image = graphImg a.1 ∧ imgArgs (graphImg a.1) = a.1 ∧
      (a.2.2 = 0x20000 → noneOp (wordAt ws 2) (wordAt ws 3) = false ∧
        okAnd (readOp (ran s) 5 (wordAt ws 2) (wordAt ws 3) 16 (mem 0x20000 16 [])) (fun _ => true) = true) ∧
      (a.2.2 = 0 → noneOp (wordAt ws 2) (wordAt ws 3) = true)) ∧
    (let s := pk patchPkt
     let s0 := holdPacket (holdPacket (un s 5) 5 (some 3)) 5 none
     let s1 := { s0 with patchLine := s0.patchLine.filter (·.2 != 5) }
     atB s 5 0x31 (jobAt patchPkt) patchPkt = true ∧ (jobAt patchPkt).held = [] ∧
     okAnd (resolveHandle ((un s 5).ctx 1) (fld (wordAt patchPkt 1) 31 0)) (· == 3) = true ∧
     noneOp (wordAt patchPkt 2) (wordAt patchPkt 3) = true ∧ patchFree s0 (graphKey 1 3) 5 = true ∧ s1.graph (graphKey 1 3) = none ∧
     okAnd (patchSource s1 1 3 (graphKey 1 3) (fld (wordAt patchPkt 1) 39 32) imgMem) (· == graphImg 0) = true ∧
     graphCount s1 < 16384) ∧
    (let u := withGraph (un (pk patchPkt) 5) 0
     let n := ceilDiv (imgNat (graphImg 0) 24 4) 65536
     let tb := takeTables n (poolOf u 0 1)
     let s1 := putPool (u.setCtx 1 { u.ctx 1 with used := (u.ctx 1).used + n }) (u.ctx 1).part tb.2
     (u.ctx 1).part = 0 ∧ (u.ctx 1).used + n ≤ (u.ctx 1).quota ∧ n ≤ poolFree (poolOf u 0 1) ∧
     okAnd (readPatches s1 5 (heldOf u 5) (wordAt patchPkt 2) (wordAt patchPkt 3) []) (fun o => someAnd o (fun kb =>
       someAnd (applyPatches kb.1 kb.2 (graphImg 0)) (fun img =>
         (badPiece s1 ((List.range n).map (fun g => (tb.1.getD g 0 * 65536,
           (match pageOf (u.ctx 1) (handleAt (u.ctx 1) 3).base with | some p => p.key | none => 0),
           min 65536 (imgNat (graphImg 0) 24 4 - 65536 * g))))).isNone &&
         imageOk s1 1 (handleAt (u.ctx 1) 3).size img && (s1.graph (graphKey 1 3)).isSome))) = true) := by
  decide +kernel

/-- A descriptor of one compute row that copies 64 bytes of memory at 0x10000 into the scratchpad: one loop of 2, two
regions, no arguments. -/
def descWords : List Word :=
  [BitVec.ofNat 64 (1 + 2 * 2 ^ 8 + 1 * 2 ^ 13 + 0xFFFFFFFF * 2 ^ 32), 2,
   BitVec.ofNat 64 (64 + 2 ^ 40), 0, 0, 0, 0, 0,
   BitVec.ofNat 64 (2 ^ 62 + 64 + 2 ^ 40), 0, vaForm, 0x10000, 0, 0]

/-- Memory that holds the descriptor at 0x20000. -/
def descMem : MemView := (bytesOfWords descWords).zipIdx.map (fun e => (0x20000 + e.2, e.1))

/-- LAUNCH on core (0, 0), IMEM_GEN 1; of an empty rectangle; LAUNCH_INDIRECT with its GRID word at 0x10000. -/
def launchPkt (ext : Nat) : List Word :=
  [hd 0x01 5 0 0, BitVec.ofNat 64 (ext * 2 ^ 32 + ext * 2 ^ 48), vaForm, 0x20000, BitVec.ofNat 64 (14 + 2 ^ 16)]
def indirectPkt : List Word := [hd 0x02 6 0 0, vaForm, 0x10000, vaForm, 0x20000, BitVec.ofNat 64 (14 + 2 ^ 16)]
def copyPkt (n : Nat) : List Word := [hd 0x03 6 0 0, vaForm, 0x10000, vaForm, 0x20000, BitVec.ofNat 64 n]
def fillPkt (n : Nat) : List Word := [hd 0x04 5 0 0, vaForm, 0x20000, BitVec.ofNat 64 n, 7]

/-- Context 1 owns a scratchpad share of one page. -/
def spadUp (ws : List Word) : State :=
  let s := pk ws
  noted { s with ctxs := [(0, ctxUp), (1, { ctxUp with spadSize := 1 })] }

/-- The state a launch packet's effect begins in. -/
def unL (s : State) : State := count (countDecoded s 5) pgLCH 0

/-- The checks of a good launch on target 0. -/
def goodB (s : State) (grid a b tail : Word) (m : MemView) : Bool :=
  let u := unL s
  someAnd (rectEps (membersQ u 5) 0 grid) (fun es => es != [] && (splitDefect u es == (es, none))) &&
  okAnd (resolveMref (u.ctx 1) a b (8 * fld tail 15 0) false) (fun x => okAnd (vRead u 1 x.1 (8 * fld tail 15 0) m) (fun bytes =>
    let d := wordsOfBytes bytes
    descOk (membersQ u 5) d && !(loopCounts d).contains 0 &&
    (List.range (descRegs d)).all (fun i => (regionAt d (regBase d) i).kind != 0 ||
      spadOk (u.ctx 1) (loopCounts d) (regionAt d (regBase d) i)) &&
    okAnd (buildRegions (u.ctx 1) (loopCounts d) (regBase d) (List.range (descRegs d)) { desc := d, segs := [], handles := [] })
      (fun bl => decide (bl.segs.length ≤ 256))))

theorem witness_LaunchPackets :
    (atB (spadUp (launchPkt 1)) 5 0x01 (jobAt (launchPkt 1)) (launchPkt 1) = true ∧ flagsOf (hdrOf (launchPkt 1)) % 4 = 0 ∧
      goodB (spadUp (launchPkt 1)) (wordAt (launchPkt 1) 1) (wordAt (launchPkt 1) 2) (wordAt (launchPkt 1) 3)
        (wordAt (launchPkt 1) 4) descMem = true) ∧
    (atB (pk (launchPkt 0)) 5 0x01 (jobAt (launchPkt 0)) (launchPkt 0) = true ∧
      rectEps (membersQ (unL (pk (launchPkt 0))) 5) 0 (wordAt (launchPkt 0) 1) = some []) ∧
    (let m := mem 0x10000 8 [(0x10004, 1), (0x10006, 1)] ++ descMem
     let s := spadUp indirectPkt
     atB s 5 0x02 (jobAt indirectPkt) indirectPkt = true ∧ mrefIdx (wordAt indirectPkt 1) = none ∧
     okAnd (readWordOp (unL s) 5 (wordAt indirectPkt 1) (wordAt indirectPkt 2) m) (fun g =>
       goodB s g (wordAt indirectPkt 3) (wordAt indirectPkt 4) (wordAt indirectPkt 5) m) = true) ∧
    (∀ n ∈ [0, 64], atB (pk (copyPkt n)) 5 0x03 (jobAt (copyPkt n)) (copyPkt n) = true ∧
      copyEp (membersQ (unL (pk (copyPkt n))) 5) (fld (wordAt (copyPkt n) 5) 63 48) = some 64 ∧
      okAnd (resolveMref ((unL (pk (copyPkt n))).ctx 1) (wordAt (copyPkt n) 1) (wordAt (copyPkt n) 2)
        (fld (wordAt (copyPkt n) 5) 47 0) false) (fun _ => true) = true ∧
      okAnd (resolveMref ((unL (pk (copyPkt n))).ctx 1) (wordAt (copyPkt n) 3) (wordAt (copyPkt n) 4)
        (fld (wordAt (copyPkt n) 5) 47 0) true) (fun _ => true) = true) ∧
    (∀ n ∈ [0, 65536], atB (pk (fillPkt n)) 5 0x04 (jobAt (fillPkt n)) (fillPkt n) = true ∧
      copyEp (membersQ (unL (pk (fillPkt n))) 5) (fld (wordAt (fillPkt n) 3) 63 48) = some 64 ∧
      okAnd (resolveMref ((unL (pk (fillPkt n))).ctx 1) (wordAt (fillPkt n) 1) (wordAt (fillPkt n) 2)
        (fld (wordAt (fillPkt n) 3) 47 0) true) (fun _ => true) = true) ∧
    ((unL (pk (fillPkt 64))).ep 64).unit.st ≠ .defect ∧
    (let u := unL (pk (fillPkt 64))
     (u.lane (u.queue 5).home).recWait = [] ∧ freeRec u (u.queue 5).home = some 0 ∧
     (reserveSlots [64] (putRec u 0 0 { purpose := .job 5, ctx := 1, layer := 0, operator := 0, pidx := 0, await := [],
                                        held := [], since := u.now })).2 = []) := by
  decide +kernel

/-- The head of an engine command without a dependency. -/
def cmdHead : CmdHead :=
  { ecmd := 1, tag := 5, ctx := 1, layer := 0, operator := 0, imemGen := 1, depWait := 0, depEp := none }

/-- A launch on core 32 that waits for a slot of it. -/
def waitPlan (need : List Nat) : Plan :=
  { ecmd := 1, targets := [32, 33], cmds := [⟨descWords, []⟩], imemGen := 1, constWords := 0, depEp := none, depWait := 0,
    record := some 0, need := need, handles := [] }

theorem witness_EngineCommands :
    ([32, 33].Nodup ∧ cmdHead.depEp = none) ∧
    (∀ need ∈ [[32], [32, 33]],
      let s := { inPhase (.slotWait (waitPlan need)) (jobAt (launchPkt 1)) with slotWait := [5] }
      s.job 5 = some { jobAt (launchPkt 1) with phase := .slotWait (waitPlan need) } ∧ s.halted = false ∧
      s.slotWait.find? (fun x => (needOf s x).contains 32) = some 5 ∧ slotFree s 32 = true ∧
      (need = [32] → need.filter (· != 32) = []) ∧ (need = [32, 33] → need.filter (· != 32) ≠ [])) ∧
    (let s := { inPhase (.recWait { waitPlan [] with record := none }) (jobAt (launchPkt 1)) with
                lanes := [(0, { Lane.reset with recWait := [5] })] }
     s.job 5 = some { jobAt (launchPkt 1) with phase := .recWait { waitPlan [] with record := none } } ∧ s.halted = false ∧
     (s.lane 0).recWait = [5] ∧ freeRec s 0 = some 0) ∧
    (up.lane 0).recWait = [] := by
  decide +kernel

/-- A container's header (Table 7.8): kind 1 a stream, its body of 32 bytes for each beat, GENERATION 1. -/
def contHdr (stream : Nat) (body segs : Nat) : List Byte :=
  leBytes 4 0x5054474B ++ leBytes 2 1 ++ leBytes 2 128 ++ leBytes 4 body ++ leBytes 4 stream ++ leBytes 4 0 ++ leBytes 4 0 ++
  leBytes 2 segs ++ leBytes 2 1 ++ zeroBytes 100

/-- A container at 0x10000: its header, and a body of zeros but for the bytes given. -/
def contMem (stream body segs : Nat) (bs : List (Nat × Byte)) : MemView :=
  bs ++ ((contHdr stream body segs).zipIdx.map (fun e => (0x10000 + e.2, e.1)) ++
    (List.range body).map (fun i => (0x10080 + i, 0)))

def loadPkt : List Word := [hd 0x06 5 1 0, BitVec.ofNat 64 (2 * 2 ^ 32 + 2 ^ 48), vaForm, 0x10000, 1]

/-- A load queued for core 32, of an empty body. -/
def loadUp : Load :=
  { q := 5, ctx := 1, lane := 0, targets := [32], generation := 1, segs := [], bodyBytes := 0, digest := sha384 [], layer := 0,
    operator := 0 }

theorem witness_ImemLoads :
    (let u := un (pk loadPkt) 5
     let m := contMem 0 32 0 []
     atB (pk loadPkt) 5 0x06 (jobAt loadPkt) loadPkt = true ∧ rectEps (membersQ u 5) 0 (wordAt loadPkt 1) = some [32, 33] ∧
     okAnd (readContainer u 5 (wordAt loadPkt 2) (wordAt loadPkt 3) m) (fun x =>
       loadStatus u 1 (fld (wordAt loadPkt 4) 15 0) [32, 33] x.1 == ST_OK &&
       okAnd (resolveMref (u.ctx 1) (wordAt loadPkt 2) (wordAt loadPkt 3) (128 + bodyBytes x.1) false) (fun _ => true)) = true ∧
     flagsOf (hdrOf loadPkt) % 2 = 1 ∧ ∀ e ∈ [32, 33], (u.ep e).held = false ∧ (u.ep e).cmds = []) ∧
    (let s := { inPhase .load (jobAt loadPkt) with loads := [loadUp] }
     s.halted = false ∧ (readyLoad s s.loads []).map (·.targets) = some [32] ∧ portRoom s loadUp.lane = true ∧
      loadUp.segs = [] ∧ readPieces s [] loadUp.segs = some [] ∧
     isSealed s (s.ctx loadUp.ctx).part = false) ∧
    sha384 [] = loadUp.digest ∧ up.loads = [] := by
  refine ⟨?_, ?_, rfl, rfl⟩ <;> decide +kernel

def fanPkt : List Word := [hd 0x07 5 0 0, BitVec.ofNat 64 (2 ^ 32 + 2 ^ 48), vaForm, 0x10000, BitVec.ofNat 64 (1 + 2 * 2 ^ 16)]

/-- A stream of no segments at the head of Fan 2. -/
def streamUp (emitted : Bool) : Stream :=
  { slot := 0, q := 5, ctx := 1, lane := 0, targets := [32], generation := 1, segTable := [], segs := [], bodyBytes := 0,
    digest := [], computed := [], layer := 0, operator := 0, emitted := emitted }

/-- `s` with Fan 2 in partition 0's hands. -/
def withFan (s : State) (xs : List Stream) : State :=
  { s with fans := [(2, { Fan.reset with valid := true, streams := xs })] }

theorem witness_FanStreams :
    (let s := withFan (pk fanPkt) []
     let u := un s 5
     let m := contMem 1 64 1 [(0x10080, 32), (0x10084, 32), (0x10088, 1)]
     let f := fld (wordAt fanPkt 4) 20 16
     atB s 5 0x07 (jobAt fanPkt) fanPkt = true ∧ (u.fan f).changing = none ∧ (u.fan f).valid = true ∧
     (u.fan f).part = partQ u 5 ∧ (jobAt fanPkt).fanReady = none ∧
     rectEps (membersQ u 5) 0 (wordAt fanPkt 1) = some [32] ∧ mayLoad u 1 = true ∧
     okAnd (readContainer u 5 (wordAt fanPkt 2) (wordAt fanPkt 3) m) (fun x =>
       headerOk x.1 true && okAnd (resolveMref (u.ctx 1) (wordAt fanPkt 2) (wordAt fanPkt 3) (128 + bodyBytes x.1) false)
         (fun _ => true) &&
       decide (16 * segCount x.1 ≤ bodyBytes x.1) && okAnd (vRead u 1 x.2.1 (16 * segCount x.1) m) (fun tb =>
         (segTable (bodyBytes x.1) (segCount x.1) tb).isSome) && hdrGen x.1 == fld (wordAt fanPkt 4) 15 0 && hdrGen x.1 != 0) =
       true ∧
     isSealed u (u.ctx 1).part = false ∧ freeSlot (u.fan f) = some 0) ∧
    (let j := { jobAt fanPkt with fanReady := some (streamUp false) }
     let s := withFan (withJob up 5 j) []
     let u := un s 5
     atB s 5 0x07 j fanPkt = true ∧ (u.fan 2).changing = none ∧ (u.fan 2).valid = true ∧ (u.fan 2).part = partQ u 5 ∧
     fld (wordAt fanPkt 4) 20 16 = 2 ∧ freeSlot (u.fan 2) = some 0) ∧
    (let s := withFan up [streamUp false]
     portRoom s (8 + 2 % 4) = true ∧ (streamUp false).segs = [] ∧ (s.fan 2).streams = [streamUp false] ∧ (streamUp false).emitted = false ∧ sliceUp s (2 / 4) = true ∧
     readPieces s [] (streamUp false).segs = some []) ∧
    ((withFan up [streamUp true]).fan 2).streams = [streamUp true] ∧ (streamUp true).emitted = true ∧
    (up.fan 2).streams = [] := by
  decide +kernel

/-- CALL_ROUTINE of COPY_SMALL with its result to D3. -/
def routinePkt : List Word := [hd 0x27 4 0 0, BitVec.ofNat 64 (12 + 3 * 2 ^ 16 + 2 ^ 20 + 40 * 2 ^ 32), vaForm, 0x10000]

theorem witness_CallRoutine :
    (let v := routineTurn (pk routinePkt) 5
     let u := un v 5
     atB v 5 0x27 (jobAt routinePkt) routinePkt = true ∧ idleProc u 0 5 = some 0 ∧ firstInLine u 5 = true ∧
     okAnd (resolveMref ((ran (pk routinePkt)).ctx 1) (wordAt routinePkt 2) (wordAt routinePkt 3) 40 false) (fun x =>
       okAnd (vRead (ran (pk routinePkt)) 1 x.1 40 (mem 0x10000 40 [])) (fun _ => true)) = true) ∧
    (let s := { pk routinePkt with slices := [(0, { Slice.reset with procs := List.replicate 8 (some (9, 1)) })] }
     atB (routineTurn s 5) 5 0x27 (jobAt routinePkt) routinePkt = true ∧ idleProc (un (routineTurn s 5) 5) 0 5 = none) ∧
    (let s := { pk routinePkt with slices := [(0, { Slice.reset with routineWait := [9] })] }
     atB (routineTurn s 5) 5 0x27 (jobAt routinePkt) routinePkt = true ∧ firstInLine (un (routineTurn s 5) 5) 5 = false) ∧
    (let s := { inPhase (.routineWait 12) (jobAt routinePkt) with slices := [(0, { Slice.reset with routineWait := [5] })] }
     atB (routineTurn s 5) 5 0x27 (jobAt routinePkt) routinePkt = true ∧ firstInLine (un (routineTurn s 5) 5) 5 = true) ∧
    (curPkt (jobAt routinePkt) = some routinePkt ∧ bitAt (wordAt routinePkt 1) 20 = true ∧
      bitAt (wordAt [hd 0x27 4 0 0, 12] 1) 20 = false) := by
  decide +kernel

/-- A parameter block of routine `id` runs for queue 5: operands at 0x10000 and on, then fields. -/
def mrefB (va : Nat) : List Byte := leBytes 8 (2 ^ 63) ++ leBytes 8 va
def runs (id : Nat) (p : List Byte) : State := inPhase (.routine id p) (jobAt routinePkt)

/-- The parameter blocks of the routines 1 to 14, each padded to its size. -/
def scaleP : List Byte := padBytes 80 (mrefB 0x10000 ++ mrefB 0x20000 ++ mrefB 0 ++ mrefB 0 ++ zeroBytes 5 ++ [3])
def amaxP (code : Nat) : List Byte :=
  padBytes 48 (mrefB 0x10000 ++ mrefB 0x20000 ++ leBytes 4 1 ++ [BitVec.ofNat 8 code])
def topkP : List Byte :=
  padBytes 64 (mrefB 0x10000 ++ mrefB 0x20000 ++ mrefB 0x20100 ++ leBytes 4 1 ++ leBytes 2 2 ++ [1, 0, 2])
def prefixP : List Byte := padBytes 48 (mrefB 0x10000 ++ mrefB 0x20000 ++ leBytes 4 2 ++ [1, 1])
def histP : List Byte := padBytes 64 (mrefB 0x10000 ++ mrefB 0x20000 ++ leBytes 4 2 ++ leBytes 4 4 ++ [0, 1])
def sortP : List Byte := padBytes 64 (mrefB 0x10000 ++ mrefB 0 ++ mrefB 0x20000 ++ leBytes 4 2)
def shapeP : List Byte := padBytes 64 (mrefB 0x10000 ++ mrefB 0x20000 ++ mrefB 0x10100 ++ leBytes 2 1)
def lossP : List Byte := padBytes 48 (mrefB 0x10000 ++ mrefB 0x20000 ++ leBytes 4 1)
def specP : List Byte := padBytes 80 (mrefB 0x10000 ++ mrefB 0x10000 ++ mrefB 0 ++ mrefB 0x20000 ++ leBytes 2 1 ++ [1])
def copyP : List Byte := padBytes 40 (mrefB 0x10000 ++ mrefB 0x20000 ++ leBytes 4 8)
def hashP : List Byte := padBytes 48 (mrefB 0x10000 ++ mrefB 0x20000 ++ leBytes 8 1)
def dumpP : List Byte := padBytes 48 (mrefB 0x10000 ++ mrefB 0x20000 ++ leBytes 4 8)
def allocP : List Byte := padBytes 48 (leBytes 8 65536 ++ zeroBytes 24 ++ mrefB 0x20000)
def freeP : List Byte := padBytes 16 (leBytes 4 0x01000003)

/-- What the clauses of the routines ask of the job and its slice. That a routine's function answers (`okAnd`) says that its
block is in form, that each operand it reads or writes resolves, and (`failed`) that every write is taken, which is what the
clauses ask of the block. -/
def runsB (id : Nat) (p : List Byte) : Bool :=
  let s := runs id p
  decide (s.job 5 = some { jobAt routinePkt with phase := .routine id p } ∧ s.halted = false ∧ sliceUp s (s.queue 5).home = true ∧
    recordBusy s 5 = false)

theorem witness_Routines_tensors :
    (let s := runs 1 scaleP
     let m := mem 0x10000 72 [(0x10000, 2)] ++ mem 0x20000 4 []
     runsB 1 scaleP = true ∧ pf scaleP 70 1 % 2 = 0 ∧
     (reserved0 scaleP [(71, 1)] && decide (pf scaleP 70 1 < 32) && within (pf scaleP 69 1) 3 7 && absent (pm scaleP 32) &&
       absent (pm scaleP 48)) = true ∧
     okAnd (present (pm scaleP 0)) (fun _ => true) = true ∧ okAnd (present (pm scaleP 16)) (fun _ => true) = true ∧
     okAnd (resolve s 5 (pm scaleP 0) (64 + 4 * 2) true) (· == 0x10000) = true ∧
     okAnd (resolve s 5 (pm scaleP 0) 64 true) (· == 0x10000) = true ∧
     okAnd (resolve s 5 (pm scaleP 16) 4 false) (· == 0x20000) = true ∧
     okAnd (rd s 5 0x10000 64 m) (fun h => pf h 0 2 == 2 && decide (pf h 2 2 < 2) && decide (pf h 4 2 ≤ 2) &&
       (cut h 24 40).all (· == 0)) = true ∧
     okAnd (rd s 5 0x10000 72 m) (fun r => pf r 6 1 == 0 && (let hist := (units 4 2 (r.drop 64)).set 0 0
       let top := ((hist.take 1).map val32).foldl fpMax (.fin true 0 0)
       !badAmax false top && !((hist.take 1).map val32).any (· == .nan))) = true ∧
     okAnd (rd s 5 0x20000 4 m) (fun a => isFin (val32 (leNat a))) = true ∧
     okAnd (rd s 5 0x20000 4 (mem 0x20000 2 [(0x20002, 0x80), (0x20003, 0x7F)])) (fun a => !isFin (val32 (leNat a))) = true ∧
     okAnd (Machine.wr s 5 (0x10000 + 64) (leBytes 4 0)) (fun t => okAnd (Machine.wr t 5 0x10000 (zeroBytes 64)) (fun _ => true)) = true) ∧
    (let s := runs 2 (amaxP 0)
     runsB 2 (amaxP 0) = true ∧ okAnd (amaxReduce s 5 (mem 0x10000 4 []) (amaxP 0)) (fun _ => true) = true ∧
     okAnd (amaxReduce (runs 2 (amaxP 8)) 5 [] (amaxP 8)) (fun _ => true) = false) ∧
    (runsB 3 topkP = true ∧ okAnd (topkRoute (runs 3 topkP) 5 (mem 0x10000 8 []) topkP) (·.failed.isNone) = true) ∧
    (runsB 7 shapeP = true ∧
      okAnd (shapeEval (runs 7 shapeP) 5 (mem 0x10000 4 [] ++ mem 0x10100 32 [(0x10104, 1)]) shapeP) (·.failed.isNone) = true) ∧
    (runsB 8 lossP = true ∧
      okAnd (lossScaleCheck (runs 8 lossP) 5 (mem 0x10000 4 [] ++ mem 0x20000 32 []) lossP) (·.failed.isNone) = true) ∧
    (runsB 9 specP = true ∧ pf specP 67 1 = 0 ∧
      okAnd (specAccept (runs 9 specP) 5 (mem 0x10000 8 []) specP) (·.failed.isNone) = true) := by
  decide +kernel

theorem witness_Routines_bytes :
    (runsB 4 prefixP = true ∧ okAnd (prefixSum (runs 4 prefixP) 5 (mem 0x10000 16 []) prefixP) (·.failed.isNone) = true) ∧
    (runsB 5 histP = true ∧ pf histP 41 1 = 1 ∧
      okAnd (histogramR (runs 5 histP) 5 (mem 0x10000 8 [] ++ mem 0x20000 16 []) histP) (·.failed.isNone) = true) ∧
    (runsB 6 sortP = true ∧ pf sortP 53 1 = 0 ∧ absent (pm sortP 16) = true ∧
      okAnd (sortSmall (runs 6 sortP) 5 (mem 0x10000 8 []) sortP) (·.failed.isNone) = true) ∧
    (runsB 12 copyP = true ∧ okAnd (copySmall (runs 12 copyP) 5 (mem 0x10000 8 []) copyP) (·.failed.isNone) = true) ∧
    (runsB 13 hashP = true ∧ pf hashP 40 1 = 0 ∧
      okAnd (hashMeasure (runs 13 hashP) 5 (mem 0x10000 1 []) hashP) (·.failed.isNone) = true) ∧
    (runsB 14 dumpP = true ∧ okAnd (watchDump (runs 14 dumpP) 5 (mem 0x10000 8 []) dumpP) (·.failed.isNone) = true) ∧
    (let s := runs 10 allocP
     runsB 10 allocP = true ∧ reserved0 allocP [(17, 15)] = true ∧ absent (pm allocP 32) = false ∧
     mrefFixed (pm allocP 32) = true ∧ pf allocP 16 1 < 8 ∧ okAnd (resolve s 5 (pm allocP 32) 16 true) (fun _ => true) = true ∧
     (match allocObject s 1 (pf allocP 0 8) (pf allocP 8 8) (pf allocP 16 1) with | .done _ _ _ => true | _ => false) = true) ∧
    (let s := runs 11 freeP
     runsB 11 freeP = true ∧ reserved0 freeP [(4, 12)] = true ∧
     okAnd (freeObject s 1 (pf freeP 0 4)) (fun x => !(x.1.ctx 1).abortMode) = true) := by
  decide +kernel

/-- A wait packet on the plain fence 3 or the counting fence 4 of context 1, target 5. -/
def waitPkt (op id flags : Nat) : List Word := [hd op 3 flags 0, BitVec.ofNat 64 id, 5]

/-- Queue 5's job at a fence packet, with context 1's sync-table entries 3 and 4 cached. -/
def fencePk (ws : List Word) : State := { pk ws with wsh := syncUp.wsh }

/-- Line 0 holds the plain fence's line, with the value `v` of its first word. -/
def fenceLine (ws : List Word) (v : Nat) : State :=
  { pk ws with wsh := { syncUp.wsh with lines := [(0, { Line.reset with
      used := true, pa := 0x10040, key := 1, home := 1, value := some (BitVec.ofNat 64 v) })] } }

/-- The same fence packets, with pages whose home is die 3. -/
def awayPk (ws : List Word) : State :=
  { fencePk ws with ctxs := [(1, { ctxUp with pages := [(1, ⟨1, true, true, true, false, 1, 3⟩)] })] }

/-- What a wait's effect begins in once its fence is resolved. -/
def atFence (s : State) : State := modJob s 5 (fun j => { j with phase := .fence })

theorem witness_WaitPackets :
    (∀ x ∈ [(0x10, 3, 0), (0x12, 4, 0), (0x12, 4, 1)],
      let ws := waitPkt x.1 x.2.1 x.2.2
      atB (fencePk ws) 5 x.1 (jobAt ws) ws = true ∧ flagsOf (hdrOf ws) % 2 = x.2.2 ∧ wordAt ws 2 ≠ 0 ∧
      okAnd (resolveFence (un (fencePk ws) 5) 1 (wordAt ws 1) (some (x.1 == 0x12)) (x.2.2 == 1) []) (fun r =>
        r.2.home == dieId r.1 && findLine r.1 r.2 == none && (takeLine (atFence r.1) r.2).isSome) = true ∧
      okAnd (resolveFence (un (awayPk ws) 5) 1 (wordAt ws 1) (some (x.1 == 0x12)) (x.2.2 == 1) []) (fun r =>
        r.2.home != dieId r.1 && (takeLine (atFence r.1) r.2).isSome) = true) ∧
    (let ws := waitPkt 0x10 3 0
     okAnd (resolveFence (un (fenceLine ws 5) 5) 1 (wordAt ws 1) (some false) false []) (fun r =>
       r.2.home == dieId r.1 && findLine r.1 r.2 == some 0 && lineHit (r.1.line 0) r.2 0 (wordAt ws 2)) = true ∧
     okAnd (resolveFence (un (fenceLine ws 4) 5) 1 (wordAt ws 1) (some false) false []) (fun r =>
       r.2.home == dieId r.1 && findLine r.1 r.2 == some 0 && !lineHit (r.1.line 0) r.2 0 (wordAt ws 2) &&
       (takeLine (atFence r.1) r.2).isSome) = true) ∧
    (let ws := [hd 0x10 3 0 0, 3, 0]
     atB (fencePk ws) 5 0x10 (jobAt ws) ws = true ∧ wordAt ws 2 = 0 ∧
     okAnd (resolveFence (un (fencePk ws) 5) 1 (wordAt ws 1) (some false) false []) (fun _ => true) = true) := by
  decide +kernel

theorem witness_SignalPackets :
    (let ws := waitPkt 0x11 3 0
     let s := { withJob up 5 { jobAt ws with atomics := 1 } with wsh := syncUp.wsh }
     ∃ j, s.job 5 = some j ∧ curPkt j = some ws ∧ predOn j (hdrOf ws) = true ∧ opOf (hdrOf ws) = 0x11 ∧
       flagsOf (hdrOf ws) % 2 = 0 ∧ areaFault s 5 j = none ∧ j.spillBuf = none ∧ j.spillImg = none ∧ j.atomics ≠ 0) ∧
    (let ws := waitPkt 0x11 3 1
     atB (fencePk ws) 5 0x11 (jobAt ws) ws = true ∧ flagsOf (hdrOf ws) % 2 = 1) ∧
    (∀ counting : Bool,
      let ws := waitPkt (if counting then 0x13 else 0x11) (if counting then 4 else 3) 0
      atB (fencePk ws) 5 (if counting then 0x13 else 0x11) (jobAt ws) ws = true ∧ flagsOf (hdrOf ws) % 2 = 0 ∧
      okAnd (resolveFence (un (fencePk ws) 5) 1 (wordAt ws 1) (some counting) true []) (fun r =>
        (r.1.job 5).isSome && r.2.home == dieId r.1 && findLine r.1 r.2 == none && !keyStopped r.1 r.2.key && !orderHeld r.1 r.2.pa) = true ∧
      okAnd (resolveFence (un (awayPk ws) 5) 1 (wordAt ws 1) (some counting) true []) (fun r =>
        (r.1.job 5).isSome && r.2.home != dieId r.1) = true) ∧
    (portRoom up 0 = true ∧
      portRoom { up with limits := [(512, 1)], flights := [⟨0, .queue 5 .piRead, [], true⟩] } 0 = false) := by
  refine ⟨⟨_, rfl, ?_⟩, ?_, ?_, ?_⟩ <;> decide +kernel

/-- An atomic in flight on the word at 0x10040. -/
def atomicUp (add checked : Bool) (operand : Word) (use : AtomicUse) : Atomic :=
  { fence := { Fence.zero with pa := 0x10040, key := 1, home := 1, counting := add, checked := checked, ceiling := 100 }
    add := add, operand := operand, use := use, ctx := 1, last := 0, job := some 5, deferred := false, remote := none,
    issued := true, pidx := some 0 }

/-- `s` with that atomic alone, its access in flight. -/
def withAtomic (s : State) (a : Atomic) : State :=
  { s with wsh := { s.wsh with atomics := [a] }, flights := [⟨1, .atomic a.fence.pa, [], true⟩] }

/-- Queue 5 waits at WAIT_COUNT with CONSUME for the word at 0x10040 to reach 5. -/
def consumeUp (path : ConsumePath) : State :=
  let s := inPhase .fence (jobAt (waitPkt 0x12 4 1))
  let a := { atomicUp true false (-5) (.consume (.queue 5) path) with job := none, pidx := none }
  { s with
    flights := [⟨1, .atomic a.fence.pa, [], true⟩]
    wsh := { s.wsh with
      atomics := [a], waiters := [(5, { Waiter.reset with st := .armed, kind := 2, target := 5, fence := a.fence })] } }

/-- The state in which the consume's answer is judged. -/
def consumed (path : ConsumePath) : State := dropAtomic (landed (consumeUp path) (.atomic 0x10040)) 0

theorem witness_AtomicReturns :
    (∀ x ∈ [(false, false), (false, true), (true, false)],
      let a := atomicUp x.1 x.2 7 .signal
      let s := withAtomic (withJob up 5 { jobAt [] with atomics := 1 }) a
      atomicAt s 0 = some a ∧ findLine s a.fence = none ∧ a.deferred = false ∧ a.use = .signal ∧ a.remote = none) ∧
    atomicAt up 0 = none ∧
    ((7 : Word).toNat ≤ (7 : Word).toNat ∧ (7 : Word).toNat < (8 : Word).toNat) ∧
    (0 ≤ (93 : Word).toInt + (7 : Word).toInt ∧ (93 : Word).toInt + (7 : Word).toInt ≤ 100 ∧
      100 < (94 : Word).toInt + (7 : Word).toInt ∧ (-8 : Word).toInt + (7 : Word).toInt < 0) ∧
    (∀ path ∈ [ConsumePath.fast, .recheck, .noLine, .pipeline],
      someAnd (atomicAt (consumeUp path) 0) (fun a => a.use == .consume (.queue 5) path && (findLine (consumeUp path) a.fence).isNone &&
        !a.deferred && consumeStands (consumed path) a (.queue 5) path && decide (-a.operand = 5) &&
        decide (4 + a.operand.toInt ≤ ceilingOf a.fence.ceiling) && decide (5 + a.operand.toInt ≤ ceilingOf a.fence.ceiling) &&
        (findLine (wakeQueue (consumed path) 5 (if path = .pipeline then 3 else 2)) a.fence).isNone) = true ∧
      (consumeUp path).halted = false) ∧
    consumeStands (setErr (compensate (consumed .fast) (atomicUp true false (-5) (.consume (.queue 5) .fast))) pgWSH 3 0x10040)
      (atomicUp true false (-5) (.consume (.queue 5) .fast)) (.queue 5) .fast = true ∧
    ((-(-5 : Word)).toInt ≤ (5 : Word).toInt ∧ (4 : Word).toInt < (-(-5 : Word)).toInt) := by
  decide +kernel

/-- A read in flight for a waiter. -/
def readUp (w : LineWaiter) (gone : Bool) : Flight := ⟨1, .waiter w gone, [], true⟩

/-- Queue 5's waiter in a state, for the word at 0x10040 of a die to reach 5; line 0 holds it; some accesses are in
flight. -/
def waiterUp (st : WState) (home : Nat) (fs : List Flight) : State :=
  let s := inPhase .fence (jobAt (waitPkt 0x10 3 0))
  { s with
    flights := fs
    wsh := { s.wsh with
      waiters := [(5, { Waiter.reset with
        st := st, target := 5, fence := { Fence.zero with pa := 0x10040, key := 1, home := home }, busy := some 1000 })]
      lines := [(0, { Line.reset with used := true, pa := 0x10040, key := 1, home := 1, waiters := [.queue 5], reread := true })]
      watches := [⟨3, 5, 1, 0, 5, { Fence.zero with pa := 0x10040, home := 1 }, some 0, 0⟩] } }

/-- The read in flight for a waiter, as the statement finds it. -/
def readOf (s : State) (w : LineWaiter) : Option Flight :=
  s.flights.find? (fun f => f.sent && (f.who == .waiter w false || f.who == .waiter w true))

theorem witness_FenceReads :
    (let s := waiterUp .arming 1 [readUp (.queue 5) false]
     let w := s.waiter 5
     readOf s (.queue 5) = some (readUp (.queue 5) false) ∧ (readUp (.queue 5) false).who = .waiter (.queue 5) false ∧
     w.st = .arming ∧ s.halted = false ∧ w.line = 0 ∧ (s.line 0).used = true ∧ (s.line 0).pa = lineAddr w.fence.pa ∧
     (s.line 0).home = w.fence.home ∧ findLine s w.fence = some 0 ∧ (s.line 0).waiters = [.queue 5] ∧
     satisfies w.kind 4 w.target = false ∧ satisfies w.kind 5 w.target = true ∧ w.kind = 0) ∧
    (let s := waiterUp .arming 1 [readUp (.watch 3 5) false]
     readOf s (.watch (3 : BitVec 16).toNat (5 : BitVec 18).toNat) = some (readUp (.watch 3 5) false) ∧
     someAnd (watchOf s 3 5) (fun x => x.line == some 0) = true ∧ readOf s (.queue 5) = none) ∧
    (let s := waiterUp .idle 1 [readUp (.queue 5) true]
     readOf s (.queue 5) = some (readUp (.queue 5) true) ∧ (readUp (.queue 5) true).who = .waiter (.queue 5) true) ∧
    (let s := waiterUp .armed 1 [⟨1, .line 0, [], true⟩]
     inFlight s (.line 0) = true ∧ (s.line 0).again = false ∧ (List.replicate 8 (0 : Word)).length = 8) ∧
    inFlight up (.line 0) = false ∧
    (let s := waiterUp .unlinked 1 [readUp (.queue 5) false]
     readOf s (.queue 5) = some (readUp (.queue 5) false) ∧ (s.waiter 5).st = .unlinked ∧ s.halted = false ∧
     satisfies (s.waiter 5).kind 5 (s.waiter 5).target = true ∧ (s.waiter 5).kind = 0) ∧
    (let s := waiterUp .unlinked 1 []
     (s.waiter 5).st = .unlinked ∧ (s.waiter 5).fence.home = dieId s ∧ lineBusy s (s.waiter 5).fence.pa = false ∧
     s.flights = [] ∧ s.wsh.heldReads = [] ∧ consuming s (.queue 5) = false) ∧
    (up.waiter 5).st ≠ .unlinked ∧
    (let s := waiterUp .remote 3 []
     (s.waiter 5).st = .remote ∧ (s.waiter 5).busy = some 1000 ∧ 1000 + 10000 ≤ s.now) ∧
    ({ up with wsh := { up.wsh with wfgRunning := true } } : State).wsh.wfgRunning = true ∧
    writeFails { up with wsh := { up.wsh with wfgRunning := true } } up.wsh.wfgBase.toNat
      (wfgBytes { up with wsh := { up.wsh with wfgRunning := true } }).length = false ∧ up.wsh.wfgRunning = false := by
  decide +kernel

/-- Endpoint 32 works for context 1, whose sync-table entries 3 and 4 are cached. -/
def busyEp : State :=
  { syncUp with eps := [(32, { epUp 0 0 with cmds := [(0, 1)] }), (64, epUp 1 0)] }

theorem witness_EngineSignals :
    epCtx up 32 = none ∧ epCtx busyEp 32 = some 1 ∧
    (∀ counting : Bool, okAnd (resolveFence busyEp 1 (BitVec.ofNat 64 (if counting then 4 else 3)) (some counting) true [])
      (fun r => r.2.home == dieId r.1 && findLine r.1 r.2 == none && !keyStopped r.1 r.2.key && !orderHeld r.1 r.2.pa) = true) ∧
    busyEp.wsh.syncCache.any (fun e => e.1 == 1 * 2 ^ 24 + (3 : BitVec 24).toNat) = true ∧
    okAnd (resolveFence busyEp 1 (BitVec.ofNat 64 3) none false []) (fun _ => true) = true ∧
    2 ≤ (3 : BitVec 2).toNat := by
  decide +kernel

def armPkt : List Word := [hd 0x14 3 0 0, BitVec.ofNat 64 (2 * 2 ^ 32 + 2 ^ 48), 63]

/-- Barrier channel 63 as it stands, and the job of queue 5 at BARRIER_ARM. -/
def armUp (x : Chan) : State := { pk armPkt with sad := [(63, x)] }

theorem witness_Barriers :
    (∀ release : Bool,
      let x := { Chan.reset with valid := true, release := release }
      let s := armUp x
      63 = fld (wordAt armPkt 2) 5 0 ∧ s.barrier 63 = x ∧ atB s 5 0x14 (jobAt armPkt) armPkt = true ∧ x.changing = none ∧
      x.valid = true ∧ x.part = partQ (un s 5) 5 ∧ rectEps (membersQ (un s 5) 5) 0 (wordAt armPkt 1) = some [32, 33] ∧
      x.release = release) ∧
    (let s := armUp Chan.reset
     atB s 5 0x14 (jobAt armPkt) armPkt = true ∧ (s.barrier 63).valid = false ∧ (s.barrier 63).changing = none) := by
  decide +kernel

/-- A peer message's beat: its type, flags, queue, context, status, address, key and value. -/
def beatOf (type flags q c status pa key v : Nat) : BitVec 256 :=
  BitVec.ofNat 256 (type + flags * 2 ^ 8 + q * 2 ^ 16 + c * 2 ^ 34 + status * 2 ^ 48 + pa * 2 ^ 64 + key * 2 ^ 116 + v * 2 ^ 128)

theorem witness_FenceMessages :
    peerB up 3 (beatOf 1 0 0 1 0 0x10040 1 7) 1 (fenceMask false false true ((beatOf 1 0 0 1 0 0x10040 1 7).getLsbD 10)) = true ∧
    (let b := beatOf 2 0 5 1 0 0x10040 1 7
     peerB up 3 b 2 (fenceMask true false true false) = true ∧ up.wsh.watches.length < 8192 ∧
     findLine up (beatFence (count up pgPER 1) b.toNat) = none ∧
     (takeLine { count up pgPER 1 with wsh := { up.wsh with watches := [⟨3, 5, 1, 0, 7, beatFence (count up pgPER 1) b.toNat, none, up.now⟩] } }
       (beatFence (count up pgPER 1) b.toNat)).isSome = true) ∧
    (let b := beatOf 3 0 5 1 0 0x10040 1 0
     peerB up 3 b 3 (fenceMask true false false false) = true ∧ watchOf up 3 (bitsN b.toNat 33 16) = none ∧
     peerB (waiterUp .idle 1 []) 3 b 3 (fenceMask true false false false) = true ∧
     (watchOf (waiterUp .idle 1 []) 3 (bitsN b.toNat 33 16)).isSome = true) ∧
    (∀ busy ∈ [0, 16],
      let b := beatOf 4 busy 5 1 0 0x10040 1 0
      let s := waiterUp .remote 3 []
      peerB s 3 b 4 (fenceMask true false (b.getLsbD 11) true) = true ∧ 5 = bitsN b.toNat 33 16 ∧ (s.waiter 5).st = .remote ∧
      (s.waiter 5).fence.pa = bitsN b.toNat 115 64 ∧ (s.waiter 5).fence.home = (3 : BitVec 16).toNat ∧ s.halted = false ∧
      b.toNat.testBit 12 = (busy == 16)) ∧
    peerB up 3 (beatOf 5 0 0 1 0x0403 0x10040 1 0) 5 (fenceMask false true false false) = true ∧
    ((0x24 : BitVec 256).toNat % 256 ∉ peerTypes) := by
  decide +kernel

/-- The watch clause's other case: every watch is taken. -/
theorem witness_FenceMessages_full :
    8192 ≤ ({ up with wsh := { up.wsh with watches := List.replicate 8192 ⟨3, 5, 1, 0, 5, Fence.zero, none, 0⟩ } } : State).wsh.watches.length :=
  Nat.le_of_eq List.length_replicate.symm

def allocPkt (size : Nat) : List Word := [hd 0x50 5 1 0, BitVec.ofNat 64 size, 0, vaForm, 0x10000]
def freePkt (h : Word) : List Word := [hd 0x51 2 0 0, h]
def queryPkt (n : Nat) : List Word := [hd 0x52 4 0 3, BitVec.ofNat 64 (n + 32 * 2 ^ 32), vaForm, 0x10000]

/-- No granule of channel 0 is free; sixteen are being zeroed. -/
def zeroingUp (s : State) : State :=
  { s with
    chans := [(0, { Channel.reset with unit := well, granules := 64, gbps := 100, part := 0, state := 1 })]
    zeroing := (List.range 16).map (fun i => { gran := 10 + i, part := 0, attempt := 0, issued := false }) }

/-- An allocation's outcome is a success that passes a check. -/
def doneAnd (o : AllocOut) (p : State → Nat → Nat → Bool) : Bool :=
  match o with
  | .done t h va => p t h va
  | _ => false

theorem witness_ObjectPackets :
    (let ws := allocPkt 65536
     let u := un (pk ws) 5
     atB (pk ws) 5 0x50 (jobAt ws) ws = true ∧
     doneAnd (allocObject u 1 (fld (wordAt ws 1) 47 0) (wordAt ws 2).toNat (flagsOf (hdrOf ws) % 8)) (fun t h va =>
       okAnd (writeOp t 5 (wordAt ws 3) (wordAt ws 4) (resultBlock h ST_OK va)) (fun _ => true)) = true) ∧
    (let ws := allocPkt 0
     let u := un (pk ws) 5
     atB (pk ws) 5 0x50 (jobAt ws) ws = true ∧
     (match allocObject u 1 (fld (wordAt ws 1) 47 0) (wordAt ws 2).toNat (flagsOf (hdrOf ws) % 8) with
      | .fail st => okAnd (writeOp (count u pgOBJ 1) 5 (wordAt ws 3) (wordAt ws 4) (resultBlock 0 st 0)) (fun _ => true)
      | _ => false) = true) ∧
    (let ws := allocPkt 65536
     let s := zeroingUp (pk ws)
     atB s 5 0x50 (jobAt ws) ws = true ∧
     (match allocObject (un s 5) 1 (fld (wordAt ws 1) 47 0) (wordAt ws 2).toNat (flagsOf (hdrOf ws) % 8) with
      | .wait => true
      | _ => false) = true) ∧
    (let ws := freePkt h3
     atB (pk ws) 5 0x51 (jobAt ws) ws = true ∧
     okAnd (freeObject (un (pk ws) 5) 1 (fld (wordAt ws 1) 31 0)) (fun x => !(x.1.ctx 1).abortMode) = true) ∧
    (let ws := freePkt 3
     atB (pk ws) 5 0x51 (jobAt ws) ws = true ∧
     okAnd (freeObject (un (pk ws) 5) 1 (fld (wordAt ws 1) 31 0)) (fun _ => true) = false) ∧
    (∀ n ∈ [2, 4, 8],
      let ws := queryPkt n
      let u := un (pk ws) 5
      atB (pk ws) 5 0x52 (jobAt ws) ws = true ∧ n = fld (wordAt ws 1) 15 0 ∧ n ≠ 3 ∧ n ≠ 9 ∧
      okAnd (writeOp u 5 (wordAt ws 2) (wordAt ws 3) ((querySection u 1 n).take (fld (wordAt ws 1) 63 32)))
        (fun _ => true) = true) ∧
    removingCtxs up = [] ∧ up.allocWait = [] ∧
    (let ws := allocPkt 65536
     let j := { jobAt ws with phase := .allocWait }
     let s := { withJob up 5 j with allocWait := [.queue 5] }
     s.halted = false ∧ s.allocWait = .queue 5 :: [] ∧ s.job 5 = some j ∧ j.phase = .allocWait ∧ curPkt j = some ws ∧
     opOf (hdrOf ws) = 0x50) := by
  decide +kernel

theorem witness_AllocatedObject : doneAnd (allocObject up 1 65537 0 1) (fun _ _ _ => true) = true := by decide +kernel

/-- A kernel packet: queue 4's job stands at `ws`. -/
def kp (ws : List Word) : State := withJob up 4 (jobAt ws)

/-- CONTEXT_CREATE of context 2 in partition 0, and CONTEXT_DESTROY. -/
def createPkt : List Word :=
  [hd 0x80 3 0 0, BitVec.ofNat 64 (2 + 8 * 2 ^ 24 + 10 * 2 ^ 32 + 8 * 2 ^ 40), 100]
def destroyPkt (c : Nat) : List Word := [hd 0x81 2 0 0, BitVec.ofNat 64 c]

/-- Context 1 in a state, with no pages and no work. -/
def ctxIn (st : CtxState) : State :=
  { up with ctxs := [(0, ctxUp), (1, { ctxUp with st := st, cleared := true })], queues := [(5, { queueUp with st := .disabled })] }

theorem witness_ContextLives :
    (let ws := createPkt
     let u := un (kp ws) 4
     let w := wordAt ws 1
     let t := ctxTables (fld w 27 24) (fld w 36 32) (fld w 44 40)
     let n := t.1 + t.2.1 + t.2.2 + 2
     let pool := poolFrom u 0 (rotation u 0)
     atB (kp ws) 4 0x80 (jobAt ws) ws = true ∧ fld w 13 0 = 2 ∧ fld w 23 16 = 0 ∧ (u.ctx 2).st = .free ∧
     n ≤ fld (wordAt ws 2) 25 0 ∧ n ≤ poolFree pool ∧ isSealed u 0 = false) ∧
    (let ws := destroyPkt 1
     let u := un (kp ws) 4
     atB (kp ws) 4 0x81 (jobAt ws) ws = true ∧ fld (wordAt ws 1) 13 0 = 1 ∧ (u.ctx 1).st = .active ∧
     (u.ctx 1).abortMode = false ∧ flagsOf (hdrOf ws) % 2 = 0) ∧
    (∀ c ∈ [0, 3], atB (kp (destroyPkt c)) 4 0x81 (jobAt (destroyPkt c)) (destroyPkt c) = true ∧
      fld (wordAt (destroyPkt c) 1) 13 0 = c ∧ (c = 0 ∨ ((un (kp (destroyPkt c)) 4).ctx c).st = .free)) ∧
    (let s := ctxIn .teardown
     s.per.abortFrom.filter (fun a => a.2 == 1) = [] ∧ workDone s 1 = true ∧ (s.ctx 1).st = .teardown ∧ inflightOf s 1 = 0 ∧
     (s.ctx 1).peerAborts = []) ∧
    (let s := ctxIn .removing
     (s.ctx 1).st = .removing ∧ (s.ctx 1).cleared = true ∧ (s.ctx 1).clearTags = 0 ∧ slotsFree s 1 = true) ∧
    (up.ctx 1).st ≠ .removing ∧
    (let b := beatOf 0x10 0 0 1 0 0 0 0
     peerB up 3 b 0x10 (0xFF + mask 47 34) = true ∧ bitsN b.toNat 47 34 = 1 ∧ (up.ctx 1).st = .active) ∧
    (let b := beatOf 0x11 0 0 1 0 0 0 0
     peerB up 3 b 0x11 (0xFF + mask 47 34) = true ∧ bitsN b.toNat 47 34 = 1) := by
  decide +kernel

/-- QUEUE_CREATE of queue 6 of context 1, homed by the block, with or without ENABLE, and its release. -/
def qCreate (flags q : Nat) : List Word :=
  [hd 0x82 4 flags 0, BitVec.ofNat 64 (q + 2 ^ 20 + 4 * 2 ^ 34 + 8 * 2 ^ 43), 0x10000, 0x18000]
def qRelease (q : Nat) : List Word := [hd 0x82 4 1 0, BitVec.ofNat 64 q, 0, 0]

theorem witness_QueuePackets :
    (∀ flags ∈ [0, 2],
      let ws := qCreate flags 6
      let u := un (kp ws) 4
      let f := qFields (wordAt ws 1)
      atB (kp ws) 4 0x82 (jobAt ws) ws = true ∧ flagsOf (hdrOf ws) = flags ∧
      createStatus u f (wordAt ws 2).toNat (wordAt ws 3).toNat = ST_OK ∧
      okAnd (vWrite u (homeFor u f.home) f.owner ((wordAt ws 3).toNat + 8) (zeroBytes 8)) (fun _ => true) = true) ∧
    (let ws := qCreate 0 5
     atB (kp ws) 4 0x82 (jobAt ws) ws = true ∧ flagsOf (hdrOf ws) % 2 = 0 ∧
     createStatus (un (kp ws) 4) (qFields (wordAt ws 1)) (wordAt ws 2).toNat (wordAt ws 3).toNat ≠ ST_OK) ∧
    (let ws := qRelease 6
     let s := { kp ws with queues := (6, { queueUp with st := .disabled }) :: (kp ws).queues }
     atB s 4 0x82 (jobAt ws) ws = true ∧ flagsOf (hdrOf ws) = 1 ∧ fld (wordAt ws 1) 17 0 = 6 ∧ fld (wordAt ws 1) 63 18 = 0 ∧
     wordAt ws 2 = 0 ∧ wordAt ws 3 = 0 ∧ ((un s 4).queue 6).st = .disabled) ∧
    (∀ n ∈ [0, 0x3FFFF, 5], atB (kp (qRelease n)) 4 0x82 (jobAt (qRelease n)) (qRelease n) = true ∧
      flagsOf (hdrOf (qRelease n)) = 1 ∧
      (fld (wordAt (qRelease n) 1) 17 0 = 0 ∨ fld (wordAt (qRelease n) 1) 17 0 = 0x3FFFF ∨
        ((un (kp (qRelease n)) 4).queue 5).st = .enabled)) := by
  decide +kernel

/-- The two beats of an upstream ALLOC of 64 KiB, and the beat of an upstream FREE of handle 3. -/
def upA : BitVec 128 := BitVec.ofNat 128 (1 + 7 * 2 ^ 16 + 2 ^ 32 + 65536 * 2 ^ 64)
def upF : BitVec 128 := BitVec.ofNat 128 (2 + 7 * 2 ^ 16 + 0x01000003 * 2 ^ 64)

/-- Endpoint 32 works for context 1 and has `n` requests unanswered. -/
def upsUp (n : Nat) : State := { up with eps := [(32, { epUp 0 0 with cmds := [(0, 1)], upstream := n })] }

theorem witness_UpstreamRequests :
    ({ up with bsn := { up.bsn with sliceAwake := 0, spineAwake := false } } : State).bsn.spineAwake = false ∧
    up.bsn.spineAwake = true ∧ epCtx up 32 = none ∧ ((upsUp 4).bsn.spineAwake = true ∧ epCtx (upsUp 4) 32 = some 1 ∧ 4 ≤ ((upsUp 4).ep 32).upstream) ∧
    (let s := upsUp 3
     let s1 := s.setEp 32 { s.ep 32 with upstream := (s.ep 32).upstream + 1 }
     s.bsn.spineAwake = true ∧ epCtx s 32 = some 1 ∧ (s.ep 32).upstream < 4 ∧ upFormat upA.toNat 0 1 = true ∧ upFormat upF.toNat 0 2 = true ∧
     (s1.ctx 1).st = .active ∧
     doneAnd (allocObject s1 1 (bitsN upA.toNat 127 64) 0 (bitsN upA.toNat 34 32)) (fun _ _ _ => true) = true ∧
     okAnd (freeObject s1 1 (bitsN upF.toNat 95 64)) (fun x => !(x.1.ctx 1).abortMode) = true ∧
     upFormat 3 0 1 = false ∧ upFormat 3 0 2 = false) := by
  decide +kernel

/-- The kernel queue's packet counts as decoded. -/
def unK (s : State) : State := un s 4

/-- BIND or UNBIND of one unit of KIND `kind` in partition 0, from a list at 0x10000; the list's memory. -/
def bindPkt (op kind : Nat) : List Word := [hd op 4 0 0, BitVec.ofNat 64 (kind * 2 ^ 8 + 2 ^ 16), vaForm, 0x10000]
def listMem (w : Nat) : MemView := (leBytes 8 w).zipIdx.map (fun e => (0x10000 + e.2, e.1))

/-- `s` with another record of partition 0. -/
def withPart (s : State) (x : Part) : State := { s with parts := [(0, x)] }

/-- A staged generation 7: partition 0's two cores changed about, and its one channel. -/
def membersB : Members := { partUp.active with cores := [(0, 0, 33), (1, 0, 32)] }
def stagedPart : Part := { partUp with staged := some (membersB, 7) }

def swapPkt (g : Nat) : List Word := [hd 0x85 2 0 0, BitVec.ofNat 64 (g * 2 ^ 32)]
def sharesPkt (w : Nat) : List Word := [hd 0x86 2 0 0, BitVec.ofNat 64 (1 + w * 2 ^ 16 + 9 * 2 ^ 32)]
def regPkt (g : Nat) : List Word := [hd 0x87 3 0 0, BitVec.ofNat 64 (g * 2 ^ 16 + 2 ^ 32), 20]

theorem witness_PartitionPackets :
    (∀ un : Bool,
      let op := if un then 0x84 else 0x83
      let ws := bindPkt op 1
      -- copy engine 65 at index 1 joins, copy engine 64 leaves, or a unit that is not there
      let good := if un then 64 else 65 + 2 ^ 16
      let b := bindTurn (kp ws) 4
      let v := unK b
      atB b 4 op (jobAt ws) ws = true ∧ fld (wordAt ws 1) 7 0 = 0 ∧
      okAnd (operandHandle (v.ctx (v.queue 4).owner) (heldOf v 4) (wordAt ws 2) (wordAt ws 3) 8 false) (· == none) = true ∧
      (let s := bindTurn (withPart (kp ws) { stagedPart with swap := some (9, 7) }) 4
       atB s 4 op (jobAt ws) ws = true ∧ bindBusy (unK s) 0 = true) ∧
      (bindBusy v 0 = false ∧ holdPacket v 4 none = v ∧
       okAnd (readKept v 4 (heldOf v 4) (wordAt ws 2) (wordAt ws 3) 8 (listMem good)) (fun bs =>
         bindChecks v 0 1 un ((wordsOfBytes bs).map (bindEntry 1 un)) == ST_OK) = true ∧
       okAnd (readKept v 4 (heldOf v 4) (wordAt ws 2) (wordAt ws 3) 8 (listMem 99)) (fun bs =>
         bindChecks v 0 1 un ((wordsOfBytes bs).map (bindEntry 1 un)) != ST_OK) = true) ∧
      (let ws := [hd op 4 0 0, BitVec.ofNat 64 (255 + 2 ^ 8 + 2 ^ 16), vaForm, 0x10000]
       atB (bindTurn (kp ws) 4) 4 op (jobAt ws) ws = true ∧ fld (wordAt ws 1) 7 0 = 255)) ∧
    (let ws := bindPkt 0x84 3
     let s := { kp ws with ctxs := [(0, { ctxUp with pages := [(1, ⟨1, true, false, false, false, 1, 1⟩)] })] }
     let v := unK (bindTurn s 4)
     atB (bindTurn s 4) 4 0x84 (jobAt ws) ws = true ∧ fld (wordAt ws 1) 9 8 = 3 ∧ bindBusy v 0 = false ∧
     okAnd (readKept v 4 (heldOf v 4) (wordAt ws 2) (wordAt ws 3) 8 (listMem 0)) (fun bs =>
       bindChecks v 0 3 true ((wordsOfBytes bs).map (bindEntry 3 true)) == ST_OK) = true) ∧
    (∀ g ∈ [7, 8],
      let ws := swapPkt g
      let s := withPart (kp ws) stagedPart
      atB s 4 0x85 (jobAt ws) ws = true ∧ ((unK s).part 0).staged = some (membersB, 7) ∧
      (g = 7 → fld (wordAt ws 1) 63 32 = 7 ∧ ((unK s).part 0).swap = none ∧ gridValid (unK s) ((unK s).part 0) membersB = true ∧
        isSealed (unK s) 0 = false) ∧
      (g = 8 → fld (wordAt ws 1) 63 32 ≠ 7)) ∧
    (∀ w ∈ [0, 5], atB (kp (sharesPkt w)) 4 0x86 (jobAt (sharesPkt w)) (sharesPkt w) = true ∧
      fld (wordAt (sharesPkt w) 1) 13 0 = 1 ∧ ((unK (kp (sharesPkt w))).ctx 1).st = .active ∧
      fld (wordAt (sharesPkt w) 1) 31 16 = w) ∧
    (∀ g ∈ [90, 91],
      let ws := regPkt g
      let u := unK (kp ws)
      atB (kp ws) 4 0x87 (jobAt ws) ws = true ∧ bitList 32 (fld (wordAt ws 1) 63 32) = [0] ∧ fld (wordAt ws 1) 31 16 = g ∧
      0 ∈ (u.part 0).active.chans.map (·.2) ∧ (g = 90 → g ≤ (u.chan 0).gbps * 9 / 10) ∧ (g = 91 → (u.chan 0).gbps * 9 / 10 < g)) := by
  decide +kernel

/-- A pending swap: queue 4's EPOCH_SWAP of generation 7 waits, and queue 5's job stands at `ws`. -/
def swapUp (ws : List Word) : State := withPart (pk ws) { stagedPart with swap := some (4, 7) }

/-- Queue 5's UNBIND migrates channel 0, on which granules 1 and 2 of context 1 lie. -/
def migUp : State :=
  let s := withPart up { partUp with migrating := some 5, migNow := [0], migChans := [0] }
  { s with ctxs := [(1, { ctxUp with pace := 0x18001 })] }

/-- TIMESTAMP, a pacing line and a snapshot on lines of memory that answer writes with an error. -/
theorem witness_WriteErrors :
    (let s := { pk timeMem with badLines := [0x400] }
     let u := un s 5
     atB s 5 0x42 (jobAt timeMem) timeMem = true ∧ flagsOf (hdrOf timeMem) % 2 = 0 ∧
     okAnd (resolveMref (u.ctx 1) (wordAt timeMem 1) (wordAt timeMem 2) 8 true) (fun r =>
       checkRange (u.ctx 1) r.1 8 true == ST_OK && (badPiece u (pieces (u.ctx 1) r.1 8)).isSome) = true) ∧
    (let s := { migUp with badLines := [0x600] }
     let x := s.ctx 1
     let u := s.setCtx 1 { x with paceLines := tset (0, 0) x.paceLines 0 (s.now, 1) }
     x.pace.getLsbD 0 = true ∧ x.st = .active ∧ 0 < paceLineCount s 1 ∧ ((tget (0, 0) x.paceLines 0).2 + 1) % 256 = 1 ∧
     x.pace.toNat / 64 * 64 % 2 ^ 57 + 64 * 0 = 0x18000 ∧ checkRange (u.ctx 1) 0x18000 64 true = ST_OK ∧
     (badPiece u (pieces (u.ctx 1) 0x18000 64)).isSome = true) ∧
    (let s := { up with badLines := [0], wsh := { up.wsh with wfgRunning := true } }
     s.wsh.wfgRunning = true ∧ writeFails s s.wsh.wfgBase.toNat (wfgBytes s).length = true) := by
  decide +kernel

theorem witness_SwapsAndMigrations :
    (let s := swapUp [hd 0 1 0 0]
     (s.part 0).swap = some (4, 7) ∧ (s.part 0).staged = some (membersB, 7) ∧ (s.part 0).swapLate = none ∧ s.halted = false ∧
     (∀ e ∈ partJobs s 0, atBoundary e.2 = true) ∧ partQuiet s 0 = true) ∧
    (up.part 0).swap = none ∧ (up.part 0).migrating = none ∧
    (let s := swapUp (launchPkt 1)
     (s.part 0).swap = some (4, 7) ∧ (s.part 0).swapLate = none ∧ partQuiet s 0 = true ∧
     (partJobs s 0).filter (fun e => heldBySwap s 0 e.2) ≠ [] ∧
     (∀ e ∈ partJobs s 0, heldBySwap s 0 e.2 = true ∨ e.2.phase = .fence)) ∧
    ((migUp.part 0).migrating = some 5 ∧ (migUp.ctx 1).part = 0 ∧ (migUp.ctx 1).st = .active ∧ ctxQuiet migUp 1 = true) ∧
    ((migUp.ctx 1).pace.getLsbD 0 = true ∧ 0 < paceLineCount migUp 1 ∧ ¬(1 < paceLineCount migUp 1) ∧
     (let es := ((paceEps (migUp.part (migUp.ctx 1).part).active).drop 0).take 32
      okAnd (vWrite (migUp.setCtx 1 { migUp.ctx 1 with
          paceLines := tset (0, 0) (migUp.ctx 1).paceLines 0 (migUp.now, 1) }) 8 1
        ((migUp.ctx 1).pace.toNat / 64 * 64 % 2 ^ 57) (padBytes 64 (es.flatMap (paceEntry migUp 1)))) (fun _ => true) = true)) ∧
    (let s := { up with jobs := [(4, some (jobAt (launchPkt 1))), (5, some (jobAt (launchPkt 1)))] }
     (s.part 0).cur = some 1 ∧ s.halted = false ∧ 1 < (eligibles s 0).length) ∧
    ((eligibles up 0).length ≤ 1 ∧ (up.ep 32).unit.st = .healthy) := by
  decide +kernel

/-- The spine asleep, behind sleeping slices. -/
def asleepUp : State := { up with bsn := { up.bsn with sliceAwake := 0, spineAwake := false } }

theorem witness_BandwidthRegulation :
    asleepUp.bsn.spineAwake = false ∧ up.bsn.spineAwake = true ∧ up.flights.all (·.sent) = true := by decide

/-- SELFTEST and UNIT_RESET of an endpoint; RETRAIN of channel 0, and of link 0. -/
def testPkt (e : Nat) : List Word := [hd 0x88 2 0 0, BitVec.ofNat 64 (e * 2 ^ 16)]
def resetPkt (level e : Nat) : List Word := [hd 0x89 2 0 0, BitVec.ofNat 64 (level + e * 2 ^ 16)]

/-- `s` with a run pending for core 32, whose partition stands; and core 32's partition allows a pause. -/
def karUp : State := { up with eps := [(32, { epUp 0 0 with unit := { well with karPending := true } })] }
def pauseUp (s : State) : State := withPart s { partUp with ctrl := 1 }

/-- A reset still waits for the token of a command of endpoint 32. -/
def owedUp : State :=
  { up with swb := { up.swb with resetOps := [{ id := 4, since := 0, eps := [32], left := [(32, 5)], clearing := false }] } }

theorem witness_UnitsInService :
    (∀ e ∈ [9, 65, 32],
      let ws := testPkt e
      let s := kp ws
      atB s 4 0x88 (jobAt ws) ws = true ∧ testUnit s ws = (.endpoint, e) ∧ activating s = false ∧ unitBusy s .endpoint e = false ∧
      (unitOf s .endpoint e).karPending = false ∧
      (e = 9 → (unitOf s .endpoint e).st = .fused) ∧
      (e = 65 → (unitOf s .endpoint e).st ≠ .fused ∧ unitParts s .endpoint e = []) ∧
      (e = 32 → (unitOf s .endpoint e).st ≠ .fused ∧ unitParts s .endpoint e ≠ [] ∧
        (unitParts s .endpoint e).all (pauseOk s) = false ∧
        atB (pauseUp s) 4 0x88 (jobAt ws) ws = true ∧ (unitParts (pauseUp s) .endpoint e).all (pauseOk (pauseUp s)) = true)) ∧
    (unitKey karUp .endpoint 32 = 32 ∧ karUp.halted = false ∧ (unitOf karUp .endpoint 32).karPending = true ∧
      unitBusy karUp .endpoint 32 = false ∧ ∀ p ∈ unitParts karUp .endpoint 32, stands karUp p = true) ∧
    (unitOf { up with eps := [(32, { epUp 0 0 with unit := { well with st := .suspect } })] } .endpoint 32).st = .suspect ∧
    (let s := { up with chans := [(0, { up.chan 0 with unit := { well with st := .suspect } })] }
     (unitOf s .channel 0).st = .suspect ∧ runPasses s false .channel 0 (.patterns true) = true ∧
     runPasses s false .channel 0 (.patterns false) = false) ∧
    (∀ l ∈ [0, 1, 2, 3],
      let ws := resetPkt l (if l = 3 then 0 else 65)
      atB (kp ws) 4 0x89 (jobAt ws) ws = true ∧ resetWaits (kp ws) ws = false ∧ resetLevel ws = l) ∧
    owedCmds up 32 = [] ∧ owedCmds owedUp 32 ≠ [] := by
  decide +kernel

def retrainPkt (link n : Nat) : List Word := [hd 0x8A 2 0 0, BitVec.ofNat 64 (link + n * 2 ^ 16)]

/-- Channel 0 under retraining by queue 4. -/
def retrainUp (sent : Bool) : State :=
  { up with chans := [(0, { up.chan 0 with retrainBy := some 4, retrainSent := sent })] }

theorem witness_UnitsInService_retraining :
    (∀ x ∈ [(0, 5), (0, 0), (1, 0)],
      let ws := retrainPkt x.1 x.2
      let s := kp ws
      atB s 4 0x8A (jobAt ws) ws = true ∧ retrainWaits s 4 ws = false ∧
      (x = (0, 5) → retrainUnit s ws = (.channel, 5) ∧ (unitOf s .channel 5).st = .fused) ∧
      (x = (0, 0) → retrainUnit s ws = (.channel, 0) ∧ (unitOf s .channel 0).st ≠ .fused) ∧
      (x = (1, 0) → retrainUnit s ws = (.link, 96) ∧ (unitOf s .link 96).st ≠ .fused)) ∧
    (∀ sent : Bool, ((retrainUp sent).chan 0).retrainBy = some 4 ∧ ((retrainUp sent).chan 0).retrainSent = sent) ∧
    (up.chan 0).retrainBy = none := by
  decide +kernel

/-- A packet of the security queue. -/
def sp (ws : List Word) : State :=
  let s := withJob up 0x3FFFF (jobAt ws)
  { s with
    queues := [(0x3FFFF, { Queue.reset with cls := 2, st := .enabled, home := 7, fetched := true })]
    ntc := { s.ntc with logCapacity := 64, sessions := [⟨7, some [1], true, 0, [], 0⟩], running := some ⟨[], [], 7, 0⟩ } }

/-- KEY_INSTALL of slot k for context 1 from 224 bytes at 0x100000. -/
def installPkt (k : Nat) : List Word := [hd 0xC0 4 0 0, BitVec.ofNat 64 (k + 2 ^ 16), 0x100000, 224]

/-- Partition 0 is sealed, and the request carries `blob`. -/
def installUp (ws : List Word) (blob : List Byte) : State :=
  let s := sp ws
  { s with
    parts := [(0, { partUp with sealed := some [1] })]
    ntc := { s.ntc with running := some ⟨[], blob, 7, 0⟩ } }

/-- The payload of a MEMORY key of context 1 on channel 0, and the blob that carries it under the private key 1: EPH_PUB is
then the base point, and the product's x-coordinate the base point's. -/
def payloadUp : List Byte := List.replicate 32 9 ++ [0, 0] ++ leBytes 2 1 ++ leBytes 4 1 ++ zeroBytes 56
def keyUp : KeyPayload := ⟨List.replicate 32 9, 0, 0, 1, 1, zeroBytes 48⟩
def blobUp : List Byte :=
  leBytes 4 1 ++ beBytes 48 p384Gx ++ beBytes 48 p384Gy ++ zeroBytes 12 ++
  beBytes 112 (0xFBFB24E9057899F70D8E7D64E66716CF78E3D5938A291D387BBFD148662CAA2DED31374C3B075B39813FD5A7 * 2 ^ 544 +
    0x65940DE9F336D8295717A30CE3A72675F58A58A9B5DBF3A93B9B25420A291B2F70057CD9275644666D7B7962E5036242405080D2 * 2 ^ 128 +
    0x29205E67DF8E0998A5165D7D80CBAC5B)

/-- The Notch's region may lie anywhere (Config.notchPage): where it begins at page 16, the packets' ranges lie in it. -/
theorem inNotch_at (hp : Config.notchPage = 16) (n : Nat) (hn : n ≤ 524288) : inNotch 0x100000 n = true := by
  unfold inNotch Config.notchBase Config.notchSize
  rw [hp]
  generalize Config.notchExtra = x
  simp only [decide_eq_true_eq]
  omega

/-- The blob unwraps under the private key 1. -/
theorem blobUp_unwraps (hk : kaKey (un (installUp (installPkt 2) blobUp) 0x3FFFF) = 1) :
    unwrap (un (installUp (installPkt 2) blobUp) 0x3FFFF) blobUp = some keyUp := by
  unfold unwrap
  rw [hk]
  decide +kernel

/-- The key-agreement key is a number of Config (log 7): where it is 1, the blob unwraps. -/
theorem witness_SecurityPackets_install (hp : Config.notchPage = 16)
    (hk : kaKey (un (installUp (installPkt 2) blobUp) 0x3FFFF) = 1) :
    (∀ k ∈ [1, 2],
      let ws := installPkt k
      let s := installUp ws blobUp
      atB s 0x3FFFF 0xC0 (jobAt ws) ws = true ∧ s.ntc.running = some ⟨[], blobUp, 7, 0⟩ ∧ fld (wordAt ws 1) 11 0 = k ∧
      fld (wordAt ws 1) 29 16 = 1 ∧ fld (wordAt ws 2) 51 0 = 0x100000 ∧ fld (wordAt ws 3) 15 0 = 224 ∧ (s.slot k).st = .free) ∧
    inNotch 0x100000 224 = true ∧
    unwrap (un (installUp (installPkt 2) []) 0x3FFFF) [] = none ∧
    unwrap (un (installUp (installPkt 2) blobUp) 0x3FFFF) blobUp = some keyUp ∧
    installStatus (un (installUp (installPkt 2) blobUp) 0x3FFFF) 0 1 keyUp = ST_OK :=
  ⟨by decide +kernel, inNotch_at hp 224 (by decide), by decide +kernel, blobUp_unwraps hk, by decide +kernel⟩

def revokePkt : List Word := [hd 0xC1 2 0 0, 2]
def sealPkt : List Word := [hd 0xC2 2 0 0, 0]
def measurePkt : List Word := [hd 0xC3 7 0 0, 0x100000, 4096, 1, 2, 3, 4]

/-- `s` with another key slot 2. -/
def withSlot (s : State) (x : KeySlot) : State := { s with ntc := { s.ntc with slots := [(2, x)] } }

/-- The report's bytes rest on the keys and certificates of Config, and its place on Config.notchPage. -/
theorem witness_SecurityPackets (hp : Config.notchPage = 16)
    (reportFits : (report (un (sp measurePkt) 0x3FFFF) (bytesOfWords [1, 2, 3, 4])).length ≤ 4096) :
    (let s := withSlot (sp revokePkt) { KeySlot.reset with st := .active }
     atB s 0x3FFFF 0xC1 (jobAt revokePkt) revokePkt = true ∧ fld (wordAt revokePkt 1) 11 0 = 2 ∧ (s.slot 2).st ≠ .free) ∧
    (∀ opened : Bool,
      let s0 := sp sealPkt
      let s := { s0 with ctxs := [], ntc := { s0.ntc with debugOpened := opened } }
      atB s 0x3FFFF 0xC2 (jobAt sealPkt) sealPkt = true ∧ s.ntc.running = some ⟨[], [], 7, 0⟩ ∧ requesterOf s 7 = some [1] ∧
      s.ntc.debugOpened = opened ∧ fld (wordAt sealPkt 1) 7 0 = 0 ∧ isSealed (un s 0x3FFFF) 0 = false ∧
      (un s 0x3FFFF).ctxs.any (fun c => c.2.part == 0 && c.2.st != .free) = false ∧ logRoom (un s 0x3FFFF) 0 1 = true) ∧
    (let r := report (un (sp measurePkt) 0x3FFFF) (bytesOfWords [1, 2, 3, 4])
     atB (sp measurePkt) 0x3FFFF 0xC3 (jobAt measurePkt) measurePkt = true ∧
     bytesOfWords ((measurePkt.drop 3).take 4) = bytesOfWords [1, 2, 3, 4] ∧ r.length ≤ fld (wordAt measurePkt 2) 31 0 ∧
     inNotch (fld (wordAt measurePkt 1) 51 0) r.length = true ∧
     writeFails (sp measurePkt) (fld (wordAt measurePkt 1) 51 0) r.length = false) := by
  have h1 : fld (wordAt measurePkt 2) 31 0 = 4096 := by decide +kernel
  have h2 : fld (wordAt measurePkt 1) 51 0 = 0x100000 := by decide +kernel
  refine ⟨by decide +kernel, by decide +kernel, by decide +kernel, by decide +kernel, ?_, ?_,
    writes_taken (by decide +kernel) (by decide +kernel) _ _⟩
  · rw [h1]; exact reportFits
  · rw [h2]; exact inNotch_at hp _ (Nat.le_trans reportFits (by decide))

/-- Slot 2 drains: it awaits the destinations, once requested, or the routes. -/
def drainUp (requested : Bool) (dests : List Nat) (dies : List (Nat × Nat × Nat)) : State :=
  withSlot up { KeySlot.reset with st := .draining, ctx := 1, requested := requested, destWait := dests, dieWait := dies }

/-- Slot 2 is ZEROED; the security queue's KEY_REVOKE waits for it, or no job does. -/
def zeroedUp (waited : Bool) : State :=
  let s := sp revokePkt
  withSlot { s with jobs := if waited then [(0x3FFFF, some { jobAt revokePkt with phase := .keyWait 2 })] else [] }
    { KeySlot.reset with st := .zeroed, ctx := 1 }

theorem witness_KeyDrains_sent :
    (∀ ds ∈ [[0], [0, 513], [513]],
      let x := (drainUp true ds []).slot 2
      x.st = .draining ∧ x.requested = true ∧ (0 ∈ ds → 0 ∈ x.destWait) ∧ (513 ∈ ds → 513 ∈ x.destWait) ∧
      (ds = [0] → x.destWait.filter (· != 0) = []) ∧ (ds = [0, 513] → x.destWait.filter (· != 0) ≠ [])) ∧
    up.swb.resetOps = [] ∧ ¬((up.slot 2).st = .draining) ∧
    (let b := beatOf 0x40 0 0 1 0 0 2 0
     peerB up 3 b 0x40 (0xFF + mask 47 34 + mask 127 116) = true ∧ bitsN b.toNat 47 34 = 1 ∧ bitsN b.toNat 127 116 = 2) ∧
    (((zeroedUp true).slot 2).st = .zeroed ∧
      (zeroedUp true).job secQ = some { jobAt revokePkt with phase := .keyWait 2 } ∧ (zeroedUp false).job secQ = none ∧
      ((zeroedUp false).slot 2).st = .zeroed ∧ (up.slot 2).st ≠ .zeroed) := by
  decide +kernel

theorem witness_KeyDrains_routes :
    ∀ two : Bool,
      let dies := (3, 0, 0) :: if two then [(3, 1, 2)] else []
      let s := drainUp false [0] dies
      let b := beatOf 0x41 0 0 1 0 0 2 0
      peerB s 3 b 0x41 (0xFF + mask 47 34 + mask 127 116) = true ∧ bitsN b.toNat 127 116 = 2 ∧ (s.slot 2).st = .draining ∧
      (s.slot 2).requested = false ∧ (3, 0, 0) ∈ (s.slot 2).dieWait ∧ (s.slot 2).dieWait ≠ [] ∧
      ((s.slot 2).dieWait.erase (3, 0, 0) = [] ↔ two = false) := by
  decide +kernel

/-- A firmware image of 256 bytes with the signature under the private key 1; the fuses hold the digest of its public
point, the base point. -/
def imgBase : List Byte :=
  leBytes 4 0x5746474B ++ leBytes 2 1 ++ leBytes 2 4 ++ leBytes 2 0x0401 ++ leBytes 2 0 ++ leBytes 4 256 ++ zeroBytes 24 ++
  beBytes 48 p384Gx ++ beBytes 48 p384Gy ++ zeroBytes 120
def imgUp : List Byte :=
  imgBase ++ beBytes 96 (p384Gx * 2 ^ 384 + 0xC629291DA4D15F078EFB39569E67B613FFA2318EBFCFCA82F572D795F1ACAEB81DB94807FA77FBFB80BD4606F4AFAEAA)
def keyFuses : Table W32 :=
  (List.range 12).foldl (fun t i => tset 0 t (17 + i) (BitVec.ofNat 32 (leNat (cut (sha384 (cut imgUp 40 96)) (4 * i) 4)))) []

/-- The image's signature verifies. -/
theorem imgUp_signed : ecdsaVerify (cut imgUp 40 96) (imgBody imgUp) (cut imgUp (imgBytes imgUp) 96) = true := by
  decide +kernel

theorem verifyImage_imgUp (s : State) (hf : s.swb.fuses = keyFuses) : verifyImage s imgUp = 0 := by
  have h1 : fuseBytes s 17 29 = sha384 (cut imgUp 40 96) := by
    simp only [fuseBytes, hf]
    decide +kernel
  have h2 : ¬(imgSvn imgUp < popcount (tget 0 s.swb.fuses 29).toNat) := by
    rw [hf]
    decide +kernel
  have h3 : ¬(leAt imgUp 6 2 ≠ 4 ∨ leAt imgUp 8 2 ≠ 0x0401) := by decide +kernel
  simp only [verifyImage, h1, imgUp_signed, ne_eq, not_true_eq_false, Bool.not_true, Bool.false_eq_true, or_self, if_false, if_neg h2,
    if_neg h3]

def activatePkt : List Word := [hd 0x8B 2 0 0, 1]

/-- FW_ACTIVATE of slice 0's part, with the key's digest in the fuses; part 0 of an activation is due. -/
def fwUp : State := let s := kp activatePkt; { s with swb := { s.swb with fuses := keyFuses } }
def fwPart : State := { up with swb := { up.swb with fwTodo := [0], fwActive := some 4, fwNext := imgUp } }

theorem witness_Firmware :
    (atB fwUp 4 0x8B (jobAt activatePkt) activatePkt = true ∧ fwUp.swb.fwActive = none ∧ fwParts activatePkt = [0] ∧
      (fwUp.slice 0).fwDigest ≠ imgDigest imgUp ∧ fwImageOk (un fwUp 4) [] = false ∧ fwImageOk (un fwUp 4) imgUp = true ∧
      (∀ p ∈ sealedParts (un fwUp 4), logRoom (un fwUp 4) p 1 = true)) ∧
    (let s := { fwUp with swb := { fwUp.swb with fwActive := some 5 } }
     atB s 4 0x8B (jobAt activatePkt) activatePkt = true ∧ s.swb.fwActive.isSome = true) ∧
    (fwPart.swb.fwTodo = 0 :: [] ∧ fwPart.halted = false ∧ sliceUp fwPart 0 = true ∧ fwPart.bsn.spineAwake = true ∧
      fwPart.jobs.all (fun e => (fwPart.queue e.1).home != 0 || (match e.2 with | some j => betweenPackets j | none => true)) = true) ∧
    up.swb.fwTodo = [] ∧
    (let s := { up with swb := { up.swb with spiBusy := true, spiSrc := 0x10000, spiLen := 64 } }
     s.swb.spiBusy = true ∧
     someAnd (memRead s (mem 0x10000 64 []) (fld s.swb.spiSrc 51 0) (bitsN s.swb.spiLen.toNat 26 0)) (fun _ => true) = true) := by
  refine ⟨⟨by decide +kernel, by decide +kernel, by decide +kernel, by decide +kernel, by decide +kernel, ?_, by decide +kernel⟩,
    by decide +kernel, by decide +kernel, by decide +kernel, by decide +kernel⟩
  simp only [fwImageOk, verifyImage_imgUp (un fwUp 4) (by decide +kernel)]
  decide +kernel

/-- A command of endpoint 32 awaits its token under TAG 5. -/
def tokenUp : State :=
  { up with
    eps := [(32, { epUp 0 0 with cmds := [(5, 1)] })]
    lanes := [(0, { Lane.reset with
      recs := [(5, some ⟨.job 5, 1, 0, 0, 0, [32], [], 0, []⟩)] })] }

/-- Context 1, the only one, works and has not advanced for longer than its window; the time is a multiple of 1 ms. -/
def wdogUp (t : Nat) : State :=
  { up with
    timebase := BitVec.ofNat 64 t
    ctxs := [(1, ctxUp)]
    queues := [(5, { queueUp with fetched := true })] }

theorem witness_TokensAndProgress :
    (asleepUp.bsn.spineAwake = false ∧ tokenUp.bsn.spineAwake = true ∧ up.bsn.spineAwake = true ∧ recAt up 5 = none ∧ (recAt tokenUp 5).isSome = true ∧ someAnd (recAt tokenUp 5) (fun x => x.await.contains 32) = true ∧
      someAnd (recAt tokenUp 5) (fun x => !x.await.contains 33) = true) ∧
    ((0x1234 : BitVec 128).toNat % 256 ≠ 0x40 ∧ ((up.ep 32).ring).length ≤ 16) ∧
    ((0x0140 : BitVec 128).toNat % 256 = 0x40 ∧
      ({ up with loe := { up.loe with trace := { up.loe.trace with ctrl := 0x10 } } } : State).loe.trace.ctrl.getLsbD 4 = true) ∧
    ((wdogUp 10).now % 1000000 ≠ 0) ∧
    (up.now % 1000000 = 0 ∧ ∀ c ∈ up.ctxs, wdogDue up c.1 = false) ∧
    (let s := wdogUp 600000000
     s.now % 1000000 = 0 ∧ s.halted = false ∧ s.ctxs = (1, ctxUp) :: [] ∧ wdogDue s 1 = true) ∧
    (∀ inj ∈ [none, some false, some true],
      let s := { up with pages := [(pgLOE, { Page.reset with inject := inj })] }
      itemAt s pgLOE 1 7 (.traceBuffer 3) = true ∧ (s.page pgLOE).inject = inj) ∧
    (itemAt up pgSTP 0 9 (.queueRec 5) = true ∧ itemAt up pgOBJ 0 9 (.ctxRecord 1) = true ∧
      itemAt up (pgDSP 0) 0 9 (.jobState 5) = true) ∧
    ({ tracing with timebase := 0 } : State).loe.trace.owner.isSome = true ∧
    ({ tracing with timebase := 0 } : State).now / 10 % 2 ^ 30 = 0 ∧ up.loe.trace.owner = none := by
  decide +kernel

theorem witness_Power :
    up.bsn.spineAwake = true ∧ asleepUp.bsn.spineAwake = false ∧ spinePaused up = false ∧
    (let s := { up with swb := { up.swb with fwTodo := [8], fwActive := some 4 } }
     s.bsn.spineAwake = true ∧ spinePaused s = true) ∧
    (effCap up.vld = 0 ∨ (500 : BitVec 20).toNat ≤ effCap up.vld * 1000) ∧
    (let s := { asleepUp with vld := { asleepUp.vld with capW := 1, rackW := 1 } }
     effCap s.vld ≠ 0 ∧ effCap s.vld * 1000 < (0xFFFFF : BitVec 20).toNat ∧ s.bsn.spineAwake = false) ∧
    ((up.hub 1).asked = none ∧
      ({ up with hubs := [(1, { Hub.reset with unit := well, asked := some 900 })] } : State).hub 1 =
        { Hub.reset with unit := well, asked := some 900 }) ∧
    ((∀ x ∈ up.vld.railReq, x.1 ≠ 0) ∧
      ({ up with vld := { up.vld with railReq := [(0, 700)] } } : State).vld.railReq.find? (fun x => x.1 == 0) = some (0, 700)) ∧
    (let s := { up with vld := { up.vld with alert := true } }
     s.vld.alert = true ∧ s.vld.releasing = false ∧ s.bsn.spineAwake = true) ∧
    up.vld.alert = false := by
  decide +kernel

/-- Partition 0 is a member of domain 9, which die `coord` coordinates; its latest EPOCH is 5. -/
def domainUp (coord : Nat) : State :=
  withPart up { partUp with domain := BitVec.ofNat 64 (9 + coord * 2 ^ 16 + 2 * 2 ^ 40), epoch := 5 }

/-- The beats of FREQ_PROPOSE and FREQ_SET for a domain. -/
def freqBeat (type d mhz epoch : Nat) : BitVec 256 := BitVec.ofNat 256 (type + d * 2 ^ 16 + mhz * 2 ^ 32 + epoch * 2 ^ 48)

theorem witness_FrequencyDomains :
    (∀ d ∈ [9, 8],
      let b := freqBeat 0x30 d 800 0
      let c := freqBeat 0x31 d 800 6
      let s := domainUp 1
      peerB s 3 b 0x30 (0xFF + mask 31 16 + mask 42 32) = true ∧ bitsN b.toNat 31 16 = d ∧
      peerB s 3 c 0x31 (0xFF + mask 31 16 + mask 42 32 + mask 63 48) = true ∧ bitsN c.toNat 31 16 = d ∧
      (d = 8 → domainPart s d = none) ∧ (d = 9 → domainPart s d = some 0)) ∧
    (let n (e : Nat) := (bitsN (freqBeat 0x31 9 800 e).toNat 63 48 + 65536 - ((domainUp 1).part 0).epoch) % 65536
     n 5 = 0 ∧ 32768 ≤ n 4 ∧ 0 < n 6 ∧ n 6 < 32768) ∧
    ((domainUp 1).bsn.spineAwake = true ∧ asleepUp.bsn.spineAwake = false ∧ domainOf ((domainUp 1).part 0) ≠ 0 ∧
      coordOf ((domainUp 1).part 0) = dieId (domainUp 1)) := by
  decide +kernel

/-- The twin in a state; this block waits for its hand-back, or does not. -/
def twinUp (t : Twin) (st : Nat) (waits : Bool) : State :=
  { up with
    per := { up.per with twin := t, twinState := st, hbSeen := true }
    swb := { up.swb with handbackWait := waits } }

/-- TWIN_STATE, DOORBELL_FWD of queue 5 by context 1, HANDBACK of two queues, HANDBACK_END of two. -/
def stateBeat (st : Nat) : BitVec 256 := BitVec.ofNat 256 (0x20 + st * 2 ^ 8 + 7 * 2 ^ 16)
def bellBeat : BitVec 256 := BitVec.ofNat 256 (0x21 + 5 * 2 ^ 8 + 2 ^ 28)
def backBeat : BitVec 256 := BitVec.ofNat 256 (0x22 + 2 * 2 ^ 8 + 5 * 2 ^ 12 + 6 * 2 ^ 30)
def endBeat : BitVec 256 := BitVec.ofNat 256 (0x23 + 2 * 2 ^ 8)

theorem witness_Twin :
    (∀ t ∈ [Twin.waiting, .paired], hasTwin (twinUp t 1 false) = true ∧ (2 : BitVec 16).toNat = twinDie (twinUp t 1 false) ∧
      (∀ st ∈ [1, 2, 3], peerB (twinUp t 1 false) 2 (stateBeat st) 0x20 (mask 47 0) = true ∧
        bitsN (stateBeat st).toNat 15 8 = st) ∧
      (twinUp t 1 false).per.twin = t) ∧
    (let s := twinUp .paired 1 false
     peerB s 2 bellBeat 0x21 (mask 41 0) = true ∧ bitsN bellBeat.toNat 25 8 = 5 ∧ bitsN bellBeat.toNat 41 28 = 1 ∧
     s.per.twinState = 1 ∧ doorbellOwner (count s pgPER 1) 5 (bitsN bellBeat.toNat 27 26) 1 = true ∧ (s.queue 5).st = .enabled ∧
     ((count s pgPER 1).ctx (s.queue 5).owner).st = .active) ∧
    (let s := twinUp .waiting 2 false
     peerB s 2 bellBeat 0x21 (mask 41 0) = true ∧ s.per.twinState = 2 ∧ s.per.twin = .waiting) ∧
    (peerB (twinUp .paired 1 false) 2 backBeat 0x22 (mask 245 12 + mask 11 0) = true ∧ min 13 (bitsN backBeat.toNat 11 8) = 2 ∧
      (let s := twinUp .paired 1 false
       writeFails s (s.swb.settings.regions.getD 1 0 + 4096 + 4 * s.swb.handbackBuf) (4 * 2) = false)) ∧
    (∀ w : Bool, peerB (twinUp .waiting 1 w) 2 endBeat 0x23 (mask 39 0) = true ∧ (twinUp .waiting 1 w).swb.handbackWait = w) ∧
    ((twinUp .absent 0 false).per.twin = .absent ∧ (twinUp .paired 1 false).per.twin ≠ .absent ∧
      (twinUp .paired 1 false).per.hbSeen = true ∧ up.per.hbSeen = false) := by
  decide +kernel

/-! ### Bring-up -/

/-- Bring-up stands at stage `n`, cold. -/
def atStageUp (n : Nat) : State := { up with swb := { up.swb with boot := .stage n, warm := false } }

/-- A settings record, and the settings region: ids 1 to 9, 0xB and 0xC at their lengths. -/
def rec_ (id : Nat) (v : List Byte) : List Byte := leBytes 2 id ++ leBytes 2 v.length ++ v
def settingsImg : List Byte :=
  rec_ 1 ([0, 8, 10, 8] ++ leBytes 4 100) ++ rec_ 2 (leBytes 8 0x20000 ++ leBytes 8 65536 ++ leBytes 4 1) ++
  rec_ 3 (leBytes 8 0x20000 ++ leBytes 8 0x28000 ++ [4, 1, 0, 0] ++ zeroBytes 8) ++
  rec_ 5 (leBytes 8 0x1000000 ++ leBytes 8 0x1040000 ++ leBytes 8 0x2000000 ++ leBytes 8 134217728) ++
  rec_ 6 (leBytes 4 64) ++ rec_ 7 (zeroBytes 18) ++ [0, 0] ++ rec_ 8 (zeroBytes 24) ++
  rec_ 9 (zeroBytes 64) ++ rec_ 0xB (zeroBytes 8) ++ rec_ 0xC ([1, 0, 1] ++ zeroBytes 17)

/-- A directory entry, and the first 8 KiB and more of a serial memory: settings at 4 KiB, an empty certificate and
known-answer region, firmware at 8 KiB. The CRCs are written out; crc_settings and crc_directory show them. -/
def entry_ (type off size crc : Nat) : List Byte := leBytes 2 type ++ zeroBytes 2 ++ leBytes 4 off ++ leBytes 4 size ++ leBytes 4 crc
def dirImg : List Byte :=
  padBytes 252 (leBytes 4 0x4653474B ++ leBytes 2 1 ++ leBytes 2 4 ++ entry_ 1 4096 settingsImg.length 598045254 ++ entry_ 4 4096 0 0 ++
    entry_ 5 4096 0 0 ++ entry_ 3 8192 imgUp.length 0)
def flashUp : List Byte := padBytes 4096 (dirImg ++ leBytes 4 2843688737) ++ padBytes 4096 settingsImg ++ imgUp

/-- A CRC is taken in pieces. -/
theorem crc_piece {n : Nat} {l : List Byte} {c d e : BitVec 32} (h : (l.take n).foldl crcByte c = d)
    (k : (l.drop n).foldl crcByte d = e) : l.foldl crcByte c = e := by
  rw [← List.take_append_drop n l, List.foldl_append, h]
  exact k

theorem crc_settings : crc32c settingsImg = 598045254#32 := by
  have h : settingsImg.foldl crcByte 0xFFFFFFFF = 3696922041#32 :=
    crc_piece (n := 64) (d := 234329561#32) (by decide +kernel)
      (crc_piece (n := 64) (d := 3551129092#32) (by decide +kernel)
        (crc_piece (n := 64) (d := 1495499491#32) (by decide +kernel)
          (crc_piece (n := 64) (d := 1349332424#32) (by decide +kernel) (by decide +kernel))))
  rw [crc32c, h]
  decide

theorem crc_directory : crc32c dirImg = 2843688737#32 := by
  have h : dirImg.foldl crcByte 0xFFFFFFFF = 1451278558#32 :=
    crc_piece (n := 64) (d := 403929101#32) (by decide +kernel)
      (crc_piece (n := 64) (d := 2118450731#32) (by decide +kernel)
        (crc_piece (n := 64) (d := 1716071440#32) (by decide +kernel) (by decide +kernel)))
  rw [crc32c, h]
  decide

theorem flash_directory : directoryOk flashUp = true := by
  have h : cut flashUp 0 252 = dirImg := by decide +kernel
  rw [directoryOk, h, crc_directory]
  decide +kernel

theorem flash_settings : regionBytes flashUp 1 = some settingsImg := by
  have h : cut flashUp 4096 268 = settingsImg := by decide +kernel
  have r : (regionOf flashUp 1).map (fun r => (r.off, r.size, r.crc)) = some (4096, 268, 598045254) := by decide +kernel
  have n : settingsImg.length = 268 := by decide +kernel
  obtain ⟨x, hx, e⟩ := Option.map_eq_some_iff.mp r
  obtain ⟨e1, e2, e3⟩ : x.off = 4096 ∧ x.size = 268 ∧ x.crc = 598045254 := by simpa using e
  simp only [regionBytes, hx, e1, e2, e3, h, crc_settings, n]
  decide +kernel

/-- Stage 2 with an image whose key the fuses name. -/
def stage2Up : State := { atStageUp 2 with swb := { (atStageUp 2).swb with fuses := keyFuses, fwImage := imgUp } }

theorem witness_Bringup_early :
    (∀ n ∈ List.range 8, up.swb.boot ≠ .stage n) ∧
    ((atStageUp 0).swb.boot = .stage 0 ∧ (atStageUp 0).swb.warm = false ∧ (List.replicate 1024 (0 : W32)).length = 1024 ∧
      ([] : List W32).length < 1024) ∧
    ((atStageUp 1).swb.boot = .stage 1 ∧ directoryOk flashUp = true ∧ regionBytes flashUp 1 = some settingsImg ∧
      regionBytes flashUp 4 = some [] ∧ regionBytes flashUp 5 = some [] ∧
      someAnd (settingsRecords settingsImg.length settingsImg) settingsOk = true ∧
      someAnd (regionOf flashUp 3) (fun r => imgHeaderOk (cut flashUp r.off r.size) &&
        decide (imgBytes (cut flashUp r.off r.size) + 96 ≤ (cut flashUp r.off r.size).length)) = true) ∧
    (∃ s : State, s.swb.boot = .stage 2 ∧ s.swb.warm = false ∧ verifyImage s s.swb.fwImage = 0) ∧
    (atStageUp 3).swb.boot = .stage 3 ∧ (atStageUp 4).swb.boot = .stage 4 := by
  have image : stage2Up.swb.fwImage = imgUp := by simp only [stage2Up]
  have fuses : stage2Up.swb.fuses = keyFuses := by simp only [stage2Up]
  refine ⟨by decide +kernel, ⟨by decide +kernel, by decide +kernel, List.length_replicate, by decide +kernel⟩,
    ⟨by decide +kernel, flash_directory, flash_settings, by decide +kernel, by decide +kernel, by decide +kernel,
      by decide +kernel⟩, ⟨stage2Up, by decide +kernel, by decide +kernel, ?_⟩, by decide +kernel, by decide +kernel⟩
  rw [image]
  exact verifyImage_imgUp stage2Up fuses

/-- Stage 5 with BIND0 naming channel 0, which reports state 1. -/
def stage5Up : State :=
  { atStageUp 5 with swb := { (atStageUp 5).swb with settings := { Settings.reset with bind0 := [(3, 0, 1)] } } }
def chanUp : List ChanIn := [⟨0, 1, 0, 64, 100⟩]

/-- Stage 7: context 0 on partition 0 with a quota, one page of 64 KiB for queue 0's ring and index line, and channel 0;
its pool is filled, or not yet. -/
def stage7Up (bind : Nat) (filled : Bool) (quota : Nat) (free : List Nat) : State :=
  { State.reset with
    bsn := { State.reset.bsn with sliceAwake := 0xFF, spineAwake := true, porAsserted := false }
    swb := { State.reset.swb with
      boot := .stage 7, poolFill := filled
      settings := { Settings.reset with
        ctx0 := [0, 8, 10, 8, quota], map0 := [(0x20000, 65536, 1)], queue0 := [0x20000, 0x28000, 4, 1, 0, 0, 0],
        bind0 := [(bind, 0, 1)] } }
    parts := [(0, { Part.reset with active := { cores := [], copies := [], links := [], chans := [(0, 0)] } })]
    zeroing := if free.isEmpty then (List.range 31).map (fun i => ⟨i + 32, 0, false, 0⟩) else []
    chans := [(0, { Channel.reset with unit := well, granules := 64, gbps := 100, state := 1, part := 0, free := free })] }

def freeUp : List Nat := (List.range 31).map (· + 32)

/-- Which end an attempt at stage 7's setup has: done in a block without a twin, waiting, failed. -/
def setupIs (x : Setup) (k : Fin 3) : Bool :=
  match x with
  | .done u => k == 0 && !(hasTwin u)
  | .wait => k == 1
  | .fail => k == 2

theorem setupIs_sound {x : Setup} :
    (setupIs x 0 = true → ∃ u, x = .done u ∧ hasTwin u = false) ∧ (setupIs x 1 = true → x = .wait) ∧
    (setupIs x 2 = true → x = .fail) := by
  cases x <;> simp [setupIs]

theorem witness_Bringup_late :
    (stage5Up.swb.boot = .stage 5 ∧
      (let s1 := (linkEps stage5Up).foldl (fun t e => if ([] : List LinkIn).any (fun x => x.ep.toNat == e) then t else silentLink t e)
         (([] : List LinkIn).foldl linkIn (chanUp.foldl chanIn (discovery stage5Up (linkHubs stage5Up) true)))
       ∃ c ∈ bind0Units s1 3, c ∈ (s1.chans.filter (fun c => c.2.state == 1)).map (·.1))) ∧
    (atStageUp 6).swb.boot = .stage 6 ∧
    (∀ bind filled quota free, (stage7Up bind filled quota free).swb.boot = .stage 7 ∧
      (stage7Up bind filled quota free).swb.handbackWait = false ∧ (stage7Up bind filled quota free).swb.poolFill = filled) ∧
    bind0Ok (stage7Up 3 false 100 []) = true ∧ bind0Ok (stage7Up 4 false 100 []) = false ∧
    setupIs (setup7 (stage7Up 3 true 100 freeUp)) 0 = true ∧ setupIs (setup7 (stage7Up 3 true 100 [])) 1 = true ∧
    setupIs (setup7 (stage7Up 3 true 2 freeUp)) 2 = true := by
  refine ⟨by decide +kernel, by decide +kernel, fun _ _ _ _ => ⟨rfl, rfl, rfl⟩, ?_⟩
  decide +kernel

/-! ## Well-formed commands: each check refuses an ill-formed term -/

theorem test_wf_accepts :
    (Instr.doorbellWrite (hw false (5 * 64) 4)).wf = true ∧ (Instr.sigSet (hw true 0x1100000 8) 7 (mem 0x10000 8 [])).wf = true ∧
    (Instr.traceStart (.host (wr pgLOE 0x180 false) 1)).wf = true ∧ (Instr.entryReadReturn 5 (some inlineEntry)).wf = true ∧
    (Instr.nop 5).wf = true := by
  decide +kernel

theorem test_wf_size : (Instr.doorbellWrite { hw false (5 * 64) 4 with size := 3 }).wf = false := by decide
theorem test_wf_strobes : (Instr.doorbellWrite { hw false (5 * 64) 4 with strobes := 0x1F }).wf = false := by decide
theorem test_wf_burst_strobes : (Instr.doorbellWrite { hw false (5 * 64) 4 with more := [(0, 0x10)] }).wf = false := by decide
theorem test_wf_burst_beats : (Instr.doorbellWrite { hw false (5 * 64) 4 with more := List.replicate 16 (0, 0) }).wf = false := by
  decide
theorem test_wf_mgmt : (Instr.irqForce (.mgmt 0x102 1 0xF)).wf = false := by decide
theorem test_wf_security : (Instr.irqForce (.security 0x104 true 1)).wf = false := by decide
theorem test_wf_debug : (Instr.irqForce (.debug 0x102 false 1)).wf = false := by decide
theorem test_wf_view_repeats : (Instr.launch 5 [(8, 0), (8, 1)]).wf = false := by decide
theorem test_wf_view_range : (Instr.launch 5 [(2 ^ 52, 0)]).wf = false := by decide
theorem test_wf_entry : (Instr.entryReadReturn 5 (some [0])).wf = false := by decide
theorem test_wf_line : (Instr.lineRereadReturn 0 (some (List.replicate 9 0))).wf = false := by decide
theorem test_wf_fragment_empty : (Instr.fragmentReadReturn 5 (some [])).wf = false := by decide
theorem test_wf_fragment_long : ¬ (List.replicate 8193 (0 : Word)).length ≤ 8192 := by
  rw [List.length_replicate]
  decide
theorem test_wf_pacing : (Instr.pacingWindowWrite 1 512).wf = false := by decide
theorem test_wf_credit_repeats : (Instr.creditInterval [3, 3]).wf = false := by decide
theorem test_wf_credit_range : (Instr.creditInterval [524]).wf = false := by decide
theorem test_wf_discovery : (Instr.stage4 [⟨5, 0, 6, 1000⟩, ⟨5, 1, 0, 1000⟩]).wf = false := by decide
theorem test_wf_channels : (Instr.stage5 [⟨0, 1, 0, 64, 100⟩, ⟨0, 1, 0, 64, 100⟩] []).wf = false := by decide
theorem test_wf_links : (Instr.stage5 [] [⟨96, 1, 3⟩, ⟨96, 1, 3⟩]).wf = false := by decide
theorem test_wf_runs : (Instr.stage6 [(5, .timeout), (5, .outputs [])] [] true).wf = false := by decide
theorem test_wf_windows : (Instr.stage6 [] [⟨0, [(1, 0), (1, 1)]⟩] true).wf = false := by decide
theorem test_wf_modes : (Instr.stage1 (some [.m111, .m111]) []).wf = false := by decide
theorem test_wf_nonce : (Instr.getMeasurements (.host (hw true 0x1101004 4) 2) none 0xFE [1]).wf = false := by decide

/-- A chunk of 2,049 bytes, more fuses than words, and a serial memory above 64 MiB. -/
theorem test_wf_lengths (chunk : List Byte) (hc : chunk.length = 2049) (fuses : List W32) (hf : fuses.length = 1025)
    (flash : List Byte) (hl : flash.length = 2 ^ 26 + 1) :
    (Instr.chunkSend (.host (hw true 0x1101004 4) 2) none chunk true).listsWf = false ∧ (Instr.stage0 fuses).listsWf = false ∧
    (Instr.stage1 (some []) flash).listsWf = false := by
  simp only [Instr.listsWf, hc, hf, hl]
  decide

/-! ## Decoding, and values from outside the model -/

/-- spec/opcode_table.json gives no row bits: no word spells a command. -/
theorem test_no_word : decodeTableWord 8 0 = none ∧ State.reset.withFetchWord 8 0 = State.reset := by decide +kernel

/-- The CRC-32C of "123456789" is 0xE3069283 (R107 names the algorithm; the value is the one published with it). -/
theorem test_crc32c : crc32c (ascii "123456789") = 0xE3069283 := by decide +kernel

/-- The AES-256-GCM test cases 13 and 14 of McGrew and Viega's specification, with the key, the IV and the plaintext zero. -/
theorem test_gcm :
    gcmOpen (zeroBytes 32) (zeroBytes 12) [] [] (beBytes 16 0x530F8AFBC74536B9A963B4F1C4CB738B) = some [] ∧
    gcmOpen (zeroBytes 32) (zeroBytes 12) [] (beBytes 16 0xCEA7403D4D606B6E074EC5D3BAF39D18)
      (beBytes 16 0xD0D1C8A799996BF0265B98B5D48AB919) = some (zeroBytes 16) := by
  decide +kernel

/-- The ECDH product of the private key 2 and the base point of P-384 (the x-coordinate of the published multiple). -/
theorem test_ecdh :
    ecdh 2 (beBytes 48 p384Gx ++ beBytes 48 p384Gy) =
      some (beBytes 48 0x08D999057BA3D2D969260045C55B97F089025959A6F434D651D207D19FB96E9E4FE0E86EBE0E64F85B96A9C75295DF61) := by
  decide +kernel

/-- The SHA-384 of "abc" begins 0xCB00753F45A35E8B (FIPS 180-4, R283). -/
theorem test_sha384 : (sha384 (ascii "abc")).take 8 = [0xCB, 0x00, 0x75, 0x3F, 0x45, 0xA3, 0x5E, 0x8B] := by decide +kernel

/-! ## Single steps -/

/-- The answer is a next state that passes a check. -/
def nextAnd (r : Result) (p : State → Bool) : Bool :=
  match r with
  | .next t => p t
  | _ => false

/-- An empty queue ticks (log 1). -/
theorem test_tick : nextAnd (step up) (fun t => t.timebase == 1000010) = true := by decide +kernel

/-- rst_por_n released: stage 0 is due (R366). -/
theorem test_release :
    nextAnd (exec .powerOnResetRelease State.reset) (fun t => t.swb.boot == .stage 0 && t.swb.bootCount == 1) = true := by
  decide +kernel

/-- A producer index 17 in a ring of 16 entries with CI 0 loses a tenant's context (R102); 16 does not. -/
theorem test_index_range :
    (∀ x ∈ [(16, CtxState.active), (17, .lost)],
      nextAnd (exec (.piReadReturn 5 (some (BitVec.ofNat 64 x.1))) { up with queues := [(5, { queueUp with piRead := .plain })] })
        (fun t => (t.ctx 1).st == x.2) = true) := by
  decide +kernel

/-- A doorbell behind the read of an invalid index has a read of its own (R102, R109). -/
theorem test_doorbell_behind :
    nextAnd (exec (.piReadReturn 5 (some 17)) { up with queues := [(5, { queueUp with piRead := .plain, pend := true })] })
      (fun t => (t.ctx 1).st == .lost && (t.queue 5).piRead == .plain && !(t.queue 5).pend) = true := by
  decide +kernel

/-- While a UMAX is in flight on its line, a line's re-read has not left and returns nothing; the UMAX's return lets it leave
(R160). -/
theorem test_read_after_atomic :
    let s := withAtomic lineUp (atomicUp false false 5 .signal)
    let t := rereadLine s 0
    t.out = [] ∧ t.wsh.heldReads = [⟨.line 0, 0x10040, 64, 1⟩] ∧
    nextAnd (exec (.lineRereadReturn 0 none) t) (fun r => r.line 0 == t.line 0) = true ∧
    nextAnd (exec (.fenceAtomicComplete 0 (some 5) []) t)
      (fun r => r.wsh.heldReads.isEmpty && r.out == [.chiRead 1 0x10040 64 1 true]) = true := by
  decide +kernel

/-- A write that memory answers with an error: TIMESTAMP loses its context with ST_MEMORY_ERROR (R341). -/
theorem test_write_error :
    nextAnd (exec (.timestamp 5) { pk timeMem with badLines := [0x400] })
      (fun t => (t.ctx 1).st == .lost && (t.ctx 1).lastStatus == ST_MEMORY_ERROR) = true := by
  decide +kernel

/-- Worked example 2.1: on a host-visible page a record is one WriteUniqueFull and a consumer index one WriteUniquePtl; the
fence's atomic is a UMAX. On another page the same writes are WriteNoSnp forms (Table 2.8). -/
theorem test_chi_requests :
    (chiReqs (.chiWrite 3 0x10000 0 true (zeroBytes 64))).map (·.op) = [.writeUniqueFull] ∧
    (chiReqs (.chiWrite 3 0x18008 0 true (zeroBytes 8))).map (·.op) = [.writeUniquePtl] ∧
    (chiReqs (.chiWrite 3 0x20000 0 false (zeroBytes 72))).map (fun r => (r.op, r.pa, r.size)) =
      [(.writeNoSnpFull, 0x20000, 64), (.writeNoSnpPtl, 0x20040, 8)] ∧
    (chiReqs (.chiWrite 3 0x20004 0 false (zeroBytes 4))).map (fun r => (r.op, r.pa, r.size, r.first, r.bytes)) =
      [(.writeNoSnpPtl, 0x20000, 8, 4, 4)] ∧
    (chiReqs (.chiAtomic 3 0x10040 0 false 1)).map (fun r => (r.op, r.snpAttr)) = [(.atomicLoadUmax, false)] ∧
    (chiReqs (.chiRead 3 0x10000 8 5 true)).map (fun r => (r.op, r.snpAttr, r.rsvdc)) = [(.readOnce, true, 5)] := by
  decide +kernel

/-- LOOP of 0 iterations skips its body to its ENDLOOP, which is reached (R137). -/
theorem test_loop_zero :
    nextAnd (exec (.loop 5 []) (withJob up 5 { jobAt [] with stack :=
      [⟨.inlined, [loopImm 0, [hd 0x40 2 0 0, 9], [hd 0x24 1 0 0], [hd 0 1 0 0]], 0, [], 48, 0x10010⟩] }))
      (fun t => someAnd (t.job 5) (fun j => curPkt j == some [hd 0x24 1 0 0])) = true := by
  decide +kernel

/-- A reserved sync operation loses the endpoint's context and is recorded (R155). -/
theorem test_reserved_sync :
    nextAnd (exec (.reservedSyncOp 32 0 3 0) busyEp) (fun t => (t.ctx 1).st == .lost && (t.page pgWSH).errStatus.getLsbD 0) = true := by
  decide +kernel

/-- The alert raises pwr_floor in the same step (R327). -/
theorem test_alert : nextAnd (exec .alert { up with pins := { up.pins with pwrFloor := false } }) (fun t => t.pins.pwrFloor) = true := by
  decide +kernel


/-- The fragment of Table 5.21, with MREFs of virtual addresses: its 24 words. -/
def exampleWords : List Word :=
  [0x240, BitVec.ofNat 64 (0x31 + 7 * 2 ^ 32), 0x405, 0, 3, 4, 0x323, 3, 0] ++
  [0x501, 0x0004000400000000, vaForm, 0x10000, BitVec.ofNat 64 (12 + 0x2A * 2 ^ 16 + 2 * 2 ^ 32), 0x124] ++
  [0x800C0520, vaForm, 0x10000, 1, 0xFFFFFFFFFFFFFFFF, 0x311, 0x107, 58, 0x122]

/-- It passes the checks of R129 and holds the eight packets of the table. -/
theorem test_example_fragment :
    exampleWords.length = 24 ∧ checkBuffer 0 0 0 exampleWords = ST_OK ∧
    (pktsOf exampleWords).map (fun p => opOf (hdrOf p)) = [0x40, 0x05, 0x23, 0x01, 0x24, 0x20, 0x11, 0x22] := by
  decide +kernel

/-- Its job at the ENDLOOP of iteration `i` of 3. -/
def exampleLoop (i : Nat) : State :=
  withJob up 5 { jobAt [] with stack := [⟨.fragment, pktsOf exampleWords, 4, [.loopb 3 i 3], 192, 0x10000⟩] }

/-- ENDLOOP (Table 5.22): back to LAUNCH with D14 1 and 2, and after the third iteration to IF with D14 0. -/
theorem test_example_loop :
    (∀ x ∈ [(0, 1, 0x01), (1, 2, 0x01), (2, 0, 0x20)],
      nextAnd (exec (.endloop 5) (exampleLoop x.1)) (fun t => someAnd (t.job 5) (fun j =>
        dreg j 14 == BitVec.ofNat 64 x.2.1 && someAnd (curPkt j) (fun p => opOf (hdrOf p) == x.2.2))) = true) := by
  decide +kernel

/-- R351, Table 13.5: an exception under CALL_ROUTINE halts the block with CAUSE 5; LOE_HALT names the queue. -/
theorem test_processor_exception :
    nextAnd (exec (.callRoutine 5 (mem 0x10000 40 []) ⟨0, [], true⟩) (pk routinePkt)) (fun t => t.loe.halt == 0x8005000000000005) =
    true := by
  decide +kernel

/-- Table 13.9: an instruction that processor 10 retires gives 16 bytes of KIND 1 with SOURCE 10 and the word above the
address. -/
theorem test_instruction_record :
    (let tr := { up.loe.trace with ctrl := 0x208, owner := some .debug, base := 0x10000, size := 4 }
     let s := traceInstructions { up with loe := { up.loe with trace := tr } } 1 2 7 ⟨2, [(0x1000, 0x55)], false⟩
     (s.loe.trace.written == 16 && (traceBytes s 1 10 7 false (0x1000 + 0x55 * 2 ^ 32)).drop 8 == leBytes 4 0x1000 ++ leBytes 4 0x55))
      = true := by
  decide +kernel

end Sys2Proof.Tests
end

section
/-! Packets that are predicated off (R134): what a packet's row comes to then, and the obligation PredicatedOff. -/

namespace Sys2Proof.Machine

/-! ## The scheduler's update leaves the jobs and the outputs -/

@[simp] theorem schedUpdate_job (s : State) (p q : Nat) : (schedUpdate s p).job q = s.job q := by
  have hjobs := congrArg State.jobs (schedUpdate_frame s p).rest
  exact congrArg (fun t => tget none t q) hjobs

@[simp] theorem schedUpdate_out (s : State) (p : Nat) : (schedUpdate s p).out = s.out := by
  have hrest := congrArg State.out (schedUpdate_frame s p).rest
  exact hrest

/-! ## Changing a job -/

theorem job_setJob_same (s : State) (q : Nat) (v : Option Job) : (s.setJob q v).job q = v := by simp

theorem modJob_of_job {s : State} {q : Nat} {j : Job} (h : s.job q = some j) (g : Job → Job) :
    modJob s q g = s.setJob q (some (g j)) := by
  simp [modJob, h]

@[simp] theorem modJob_wsh (s : State) (q : Nat) (g : Job → Job) : (modJob s q g).wsh = s.wsh := by
  unfold modJob; split <;> rfl

@[simp] theorem modJob_flights (s : State) (q : Nat) (g : Job → Job) : (modJob s q g).flights = s.flights := by
  unfold modJob; split <;> rfl

/-! ## Retirement within a frame -/

/-- A packet that holds no handle and is not its frame's last retires: the job stands at the frame's next packet, with its
registers and predicates, and nothing leaves a port (R125). -/
theorem retire_within_frame {s : State} {q : Nat} {j : Job} {f : Frame} {fs : List Frame} (hj : s.job q = some j)
    (hheld : j.held = []) (hstack : j.stack = f :: fs) (hpc : f.pc + 1 < f.pkts.length) :
    (∃ j', (retire s q).job q = some j' ∧ j'.idx = j.idx + 1 ∧ j'.stack = { f with pc := f.pc + 1 } :: fs ∧
      j'.d = j.d ∧ j'.d15 = j.d15 ∧ j'.preds = j.preds) ∧ (retire s q).out = s.out := by
  have hun : unholdPacket s q = s.setJob q (some { j with held := [] }) := by simp [unholdPacket, hj, hheld]
  have hjob : (countPacket (unholdPacket s q) (s.queue q).owner).job q = some { j with held := [] } := by
    simp [countPacket, hun]
  unfold retire retireStack
  dsimp only
  rw [modJob_of_job hjob, settle_live (job_setJob_same ..) (by rw [hstack]; rfl) hpc]
  refine ⟨⟨_, (schedUpdate_job ..).trans (job_setJob_same ..), rfl, ?_, rfl, rfl, rfl⟩, ?_⟩
  · simp [hstack, bumpTop]
  · simp [countPacket, hun]

/-! ## A packet that is predicated off -/

/-- The job of queue q stands at the packet `ws`, nothing keeps the packet from being looked at, and its predicate is off
(R134). -/
structure OffPacket (s : State) (q : Nat) (j : Job) (ws : List Word) : Prop where
  job : s.job q = some j
  pkt : curPkt j = some ws
  live : s.halted = false
  phase : j.phase = .run
  awake : sliceUp s (s.queue q).home = true
  unpaused : (s.slice (s.queue q).home).paused = false
  area : areaFault s q j = none
  off : predOn j (hdrOf ws) = false

/-- The packet retires at once; it counts as decoded and as predicated off (Table 5.20). -/
def passOver (s : State) (q : Nat) : State :=
  retire (count (count s (pgPKD (s.queue q).home) 0) (pgPKD (s.queue q).home) 1) q

section
variable {s : State} {q op : Nat} {j : Job} {ws : List Word} {tok : List Word → Bool} {f : State → Job → List Word → State}

theorem OffPacket.packetRow (h : OffPacket s q j ws) (hop : opOf (hdrOf ws) = op) :
    packetRow s q op tok f = .next (passOver s q) := by
  unfold Machine.packetRow runPacket passOver
  simp only [h.job, h.pkt, h.live, h.phase, hop, h.awake, h.unpaused, h.area, h.off]
  simp

/-- What a row waits for is not asked of a packet that will not execute. -/
theorem OffPacket.waitRow (h : OffPacket s q j ws) {wait : List Word → Bool} (hop : opOf (hdrOf ws) = op) :
    waitRow s q op wait f = .next (passOver s q) := by
  have hst : standsAt s q op = none := by simp [standsAt, h.job, h.pkt, h.off]
  unfold Machine.waitRow
  rw [hst]
  exact h.packetRow hop

/-- A job at a packet does not wait at step 2 of a GRAPH_PATCH. -/
theorem OffPacket.patchTurn (h : OffPacket s q j ws) : patchTurn s q = s := by
  simp [Machine.patchTurn, h.job, h.phase]

/-- A job at a packet does not wait for a swap. -/
theorem OffPacket.bindTurn (h : OffPacket s q j ws) : bindTurn s q = s := by
  simp [Machine.bindTurn, h.job, h.phase]

theorem OffPacket.patchRow (h : OffPacket s q j ws) (hop : opOf (hdrOf ws) = op) :
    Machine.packetRow (Machine.patchTurn s q) q op tok f = .next (passOver s q) := by
  rw [h.patchTurn]; exact h.packetRow hop

theorem OffPacket.bindRow (h : OffPacket s q j ws) (hop : opOf (hdrOf ws) = op) :
    Machine.packetRow (Machine.bindTurn s q) q op tok f = .next (passOver s q) := by
  rw [h.bindTurn]; exact h.packetRow hop

/-- A job at a packet does not wait for a processor: its turn puts it back as it is. -/
theorem OffPacket.routineTurn_eq (h : OffPacket s q j ws) : routineTurn s q = s.setJob q (some j) := by
  unfold routineTurn
  rw [modJob_of_job h.job]
  simp [h.phase]

theorem OffPacket.routineTurn (h : OffPacket s q j ws) : OffPacket (routineTurn s q) q j ws := by
  rw [h.routineTurn_eq]
  exact { h with job := job_setJob_same .. }

/-- CALL_ROUTINE, after its turn. -/
theorem OffPacket.routineRow (h : OffPacket s q j ws) (hop : opOf (hdrOf ws) = op) :
    Machine.packetRow (Machine.routineTurn s q) q op tok f =
      .next (retire (count (count (Machine.routineTurn s q) (pgPKD (s.queue q).home) 0) (pgPKD (s.queue q).home) 1) q) := by
  have hhome : (Machine.routineTurn s q).queue q = s.queue q := by rw [h.routineTurn_eq, queue_setJob]
  rw [h.routineTurn.packetRow hop, passOver, hhome]

end

/-- QUEUE_CREATE, with or without RELEASE. -/
theorem OffPacket.queueRow {s : State} {q : BitVec 18} {j : Job} {ws : List Word} (h : OffPacket s q.toNat j ws) (b : Bool)
    (hop : opOf (hdrOf ws) = 0x82) :
    exec (if pktFlag s q.toNat 0 then .queueRelease q else .queueCreate q b) s = .next (passOver s q.toNat) := by
  cases hf : pktFlag s q.toNat 0
  · change execQueueCreate q b s = _
    unfold execQueueCreate
    rw [if_neg (by simp [hf])]
    exact h.packetRow hop
  · change execQueueRelease q s = _
    unfold execQueueRelease
    rw [if_neg (by simp [hf])]
    exact h.packetRow hop

/-- Predication of a header with PE (R134). -/
theorem predOn_iff_of_pe {j : Job} {w : Word} (h : bitAt w 39 = true) :
    predOn j w = true ↔ (j.preds.getLsbD (fld w 34 32) ^^ bitAt w 38) = true := by
  simp [predOn, h]

/-- A header without PE executes. -/
theorem predOn_of_not_pe {j : Job} {w : Word} (h : bitAt w 39 = false) : predOn j w = true := by
  simp [predOn, h]

end Sys2Proof.Machine

open Sys2Proof Sys2Proof.Machine

/-- Settles O26: every packet row is `packetRow` at its opcode, perhaps behind a wait or a turn that does not concern a
job at a packet, and `packetRow` retires a packet that is predicated off. -/
theorem predicatedOff : Obligations.PredicatedOff := by
  unfold Obligations.PredicatedOff
  intro s q j ws m fw r im hjob hpkt hlive hphase hawake hunpaused harea
  refine ⟨predOn_iff_of_pe, predOn_of_not_pe, fun hoff => ?_⟩
  have h : OffPacket s q.toNat j ws := ⟨hjob, hpkt, hlive, hphase, hawake, hunpaused, harea, hoff⟩
  refine ⟨?_, h.queueRow, h.routineRow, fun f fs hstack hpc hheld => ?_⟩
  · simp only [List.forall_mem_cons]
    exact ⟨h.packetRow, h.packetRow, h.packetRow, h.packetRow, h.packetRow,
      h.packetRow, h.packetRow, h.packetRow, h.packetRow,
      h.packetRow, h.packetRow, h.packetRow, h.packetRow,
      h.packetRow, h.packetRow, h.packetRow, h.packetRow, h.packetRow,
      h.packetRow, h.packetRow, h.packetRow,
      h.patchRow, h.packetRow, h.packetRow, h.packetRow, h.packetRow,
      h.packetRow, h.packetRow, h.packetRow, h.packetRow, h.packetRow,
      h.packetRow, h.packetRow, h.bindRow, h.bindRow,
      h.packetRow, h.packetRow, h.packetRow, h.waitRow,
      h.waitRow, h.waitRow, h.packetRow, h.packetRow,
      h.packetRow, h.packetRow, h.packetRow, List.forall_mem_nil _⟩
  · obtain ⟨⟨j', hj', hidx, hst, hd, hd15, hpreds⟩, hout⟩ :=
      retire_within_frame (s := count (count s (pgPKD (s.queue q.toNat).home) 0) (pgPKD (s.queue q.toNat).home) 1)
        hjob hheld hstack hpc
    exact ⟨j', hj', hidx, hst, hd, hd15, hpreds, hout⟩
end

section
/-! Fence signals (R132, R143, R149, R150): the wait for what the job issued before, the atomic a signal comes to, and the
obligation SignalPackets. -/

namespace Sys2Proof.Machine

/-! ## Accesses at a port (R58) -/

theorem issue_of_room {s : State} {k : Nat} (h : portRoom s k = true) (who : Access) (outs : List Out) :
    issue s k who outs = emits { s with flights := s.flights ++ [⟨k, who, outs, true⟩] } outs := if_pos h

theorem issue_of_no_room {s : State} {k : Nat} (h : portRoom s k = false) (who : Access) (outs : List Out) :
    issue s k who outs = { s with flights := s.flights ++ [⟨k, who, outs, false⟩] } := by
  simp [issue, h]

@[simp] theorem issue_wsh (s : State) (k : Nat) (who : Access) (outs : List Out) : (issue s k who outs).wsh = s.wsh := by
  unfold issue; split <;> rfl

/-! ## A packet that waits for what its job issued before (R124, R143) -/

/-- A packet under WAIT_PRIOR, by its header or implied, does not execute while a command of its job has not returned its
tokens or a signal of the job has not completed: at most its wait is counted, once. -/
theorem runPacket_waits_prior {s : State} {q op : Nat} {j : Job} {ws : List Word} {tok : List Word → Bool}
    (f : State → Job → List Word → State) (hjob : s.job q = some j) (hpkt : curPkt j = some ws)
    (hpred : predOn j (hdrOf ws) = true) (harea : areaFault s q j = none) (hbuf : j.spillBuf = none)
    (himg : j.spillImg = none) (htok : tok ws = true) (hprior : priorDone s q = false) :
    runPacket s q op tok f = s ∨
      runPacket s q op tok f = count (s.setJob q (some { j with priorCounted := true })) (pgPKD (s.queue q).home) 7 := by
  have hwhole : restoreSpill s q = some s := by simp [restoreSpill, hjob, hbuf, himg]
  rw [← modJob_of_job hjob (fun j => { j with priorCounted := true })]
  unfold runPacket
  simp only [hjob, hpkt, hpred, harea, hwhole, htok, hprior]
  split
  · exact .inl rfl
  · rename_i hruns
    have hphase : j.phase = .run := Decidable.byContradiction fun hne => hruns (.inr (.inl hne))
    have hat : atPacket s q = true := by simp [atPacket, hjob, hphase]
    cases hpc : j.priorCounted
    · right; simp [hat]
    · left; simp [hat]

theorem priorDone_eq_false {s : State} {q : Nat} {j : Job} (hjob : s.job q = some j)
    (h : openRecs s q ≠ 0 ∨ j.atomics ≠ 0) : priorDone s q = false := by
  rcases h with h | h <;> simp [priorDone, hjob, h]

/-! ## A signal's atomic -/

/-- Only a consume is put before others. -/
theorem insertAtomic_of_not_consume {a : Atomic} (h : isConsume a = false) (l : List Atomic) : insertAtomic a l = l ++ [a] := by
  induction l with
  | nil => rfl
  | cons x xs ih => simp [insertAtomic, h, ih]

/-- A signal that a job makes, an ADD only while the fence's counting order is free: its atomic joins those in flight and
its request goes to the home slice's port. -/
theorem addAtomic_of_job {s : State} {a : Atomic} {q : Nat} (hjob : a.job = some q) (huse : a.use = .signal)
    (hfree : a.add = true → orderHeld s a.fence.pa = false) :
    addAtomic s a = issue { s with wsh := { s.wsh with atomics := s.wsh.atomics ++ [{ a with issued := true }] } }
      (portQ s q) (.atomic a.fence.pa) [.chiAtomic (portQ s q) a.fence.pa a.fence.key a.add a.operand] := by
  have hgo : (!a.add || !orderHeld s a.fence.pa) = true := by
    cases hadd : a.add
    · rfl
    · simp [hfree hadd]
  have hins := insertAtomic_of_not_consume (a := { a with issued := true }) (by simp [isConsume, huse]) s.wsh.atomics
  unfold addAtomic
  simp only [hgo, if_true, hins]
  simp only [issueAtomic, atomicPort, atomicOut, hjob]
  rfl

theorem findLine_congr {s t : State} (h : t.wsh.lines = s.wsh.lines) (f : Fence) : findLine t f = findLine s f := by
  simp only [findLine, h]

/-- Over a fence that no line caches a signal on this die is its atomic alone. -/
theorem performSignal_of_uncached {s : State} {a : Atomic} (h : findLine (addAtomic s a) a.fence = none) :
    performSignal s a = addAtomic s a := by
  unfold performSignal noteSignal
  simp only [h, ite_self]

/-- A job's signal of a fence of this die that no line caches (R149, R150). -/
theorem signal_home {s : State} {f : Fence} {v : Word} {c q : Nat} {last : W32} {pidx : Option Nat}
    (hhome : f.home = dieId s) (hline : findLine s f = none) (hkey : keyStopped s f.key = false)
    (hfree : f.counting = true → orderHeld s f.pa = false) :
    let s2 := modJob s q (fun j => { j with atomics := j.atomics + 1 })
    signal s f v c last (some q) false pidx =
      issue { s2 with wsh := { s2.wsh with atomics := s2.wsh.atomics ++
          [{ sigAtomic f v c last (some q) false none pidx with issued := true }] } }
        (portQ s2 q) (.atomic f.pa) [.chiAtomic (portQ s2 q) f.pa f.key f.counting v] := by
  intro s2
  have horder : orderHeld s2 f.pa = orderHeld s f.pa := by
    simp only [s2, orderHeld, readsUnderOrder, State.waiter, modJob_wsh, modJob_flights]
  have hadd := addAtomic_of_job (s := s2) (a := sigAtomic f v c last (some q) false none pidx) rfl rfl
    (fun hc => horder.trans (hfree hc))
  have hunc : findLine (addAtomic s2 (sigAtomic f v c last (some q) false none pidx)) f = none := by
    rw [hadd, findLine_congr (s := s) (by simp [s2]), hline]
  unfold signal
  rw [if_neg (not_not_intro hhome)]
  simp only [hkey]
  exact (performSignal_of_uncached hunc).trans hadd

/-- A signal of a fence of another die is sent there (R164). -/
theorem signal_remote {s : State} {f : Fence} {v : Word} {c : Nat} {last : W32} {job : Option Nat} {d : Bool} {pidx : Option Nat}
    (hhome : f.home ≠ dieId s) :
    signal s f v c last job d pidx = sendFence s f.home (fenceBeat 1 (b2n f.counting + 2 * b2n f.checked + 4 * b2n f.counting)
      0 c 0 f.pa f.key v.toNat (if f.counting then f.ceiling else 0)) := if_pos hhome

/-! ## The signal packets -/

/-- A signal packet whose fence resolves. -/
theorem signalPacket_of_resolved {s s1 : State} {q : Nat} {counting : Bool} {ws : List Word} {m : MemView} {f : Fence} {j : Job}
    (hres : resolveFence s (s.queue q).owner (wordAt ws 1) (some counting) true m = .ok (s1, f)) (hjob : s1.job q = some j) :
    signalPacket s q counting ws m =
      retire (signal s1 f (wordAt ws 2) (s.queue q).owner (lastQueue q) (some q) false (some (packetIndex j))) q := by
  unfold signalPacket
  simp only [hres, hjob]

theorem deferred_eq_true {ws : List Word} (h : flagsOf (hdrOf ws) % 2 = 1) : deferred ws = true := by simp [deferred, h]

theorem deferred_eq_false {ws : List Word} (h : flagsOf (hdrOf ws) % 2 = 0) : deferred ws = false := by simp [deferred, h]

/-- SIGNAL_FENCE without DEFER, or CREDIT, at its packet. -/
theorem exec_signal_at {s : State} {q : BitVec 18} {j : Job} {ws : List Word} (counting : Bool) (m : MemView)
    (h : if counting = true then AtPacket s q.toNat 0x13 j ws else AtPacket s q.toNat 0x11 j ws ∧ flagsOf (hdrOf ws) % 2 = 0) :
    exec (if counting = true then .credit q m else .signalFence q m) s =
      .next (signalPacket (countDecoded s q.toNat) q.toNat counting ws m) := by
  cases counting
  · obtain ⟨hat, hflag⟩ := h
    change execSignalFence q m s = _
    unfold execSignalFence packetRow
    rw [hat.run, deferred_eq_false hflag]
    rfl
  · change execCredit q m s = _
    unfold execCredit packetRow
    rw [AtPacket.run h]

/-- SIGNAL_FENCE with DEFER, at its packet (R132). -/
theorem exec_signalFence_deferred {s : State} {q : BitVec 18} {j : Job} {ws : List Word} (m : MemView)
    (h : AtPacket s q.toNat 0x11 j ws) (hflag : flagsOf (hdrOf ws) % 2 = 1) :
    exec (.signalFence q m) s = .next (retireWith (countDecoded s q.toNat) q.toNat (fun x => { x with deferred := x.deferred ++
      [{ fence := wordAt ws 1, value := wordAt ws 2, pidx := packetIndex j }] })) := by
  change execSignalFence q m s = _
  unfold execSignalFence packetRow
  rw [h.run, deferred_eq_true hflag]
  rfl

/-- The row of SIGNAL_FENCE or CREDIT: WAIT_PRIOR is implied where the signal is not deferred (R143). -/
theorem exec_signal_row (s : State) (q : BitVec 18) (counting : Bool) (m : MemView) : ∃ op tok f,
    exec (if counting = true then .credit q m else .signalFence q m) s = .next (runPacket s q.toNat op tok f) ∧
    ∀ ws, (counting = false → flagsOf (hdrOf ws) % 2 = 0) → tok ws = true := by
  cases counting
  · exact ⟨_, _, _, rfl, fun ws hflag => by simp [deferred_eq_false (hflag rfl)]⟩
  · exact ⟨_, _, _, rfl, fun _ _ => rfl⟩

end Sys2Proof.Machine

open Sys2Proof Sys2Proof.Machine

/-- Settles O39, by the row's wait for the job's earlier commands and signals, the deferred list, and what a signal comes to
on this die and on another. -/
theorem signalPackets : Obligations.SignalPackets := by
  unfold Obligations.SignalPackets
  rintro s q j ws m u rfl c
  refine ⟨?_, fun hat hflag => exec_signalFence_deferred m hat hflag, ?_,
    fun k who outs => ⟨fun h => issue_of_room h who outs, fun h => issue_of_no_room h who outs⟩⟩
  · intro counting hjob hpkt hpred _ hflag harea hbuf himg hopen
    obtain ⟨op, tok, f, hexec, htok⟩ := exec_signal_row s q counting m
    rcases runPacket_waits_prior (op := op) f hjob hpkt hpred harea hbuf himg (htok ws hflag)
      (priorDone_eq_false hjob hopen) with hstays | hcounted
    · exact ⟨_, _, hexec.trans (congrArg _ hstays), rfl, rfl, rfl, hjob, rfl, rfl⟩
    · exact ⟨_, _, hexec.trans (congrArg _ hcounted), rfl, rfl, rfl, (job_count ..).trans (job_setJob_same ..), rfl, rfl⟩
  · intro counting s1 f j1 hat hres hj1 i a s2
    have hown : ((countDecoded s q.toNat).queue q.toNat).owner = c := by rw [countDecoded_queue]
    have hkind : f.counting = counting := (resolveFence_spec hres).2 counting rfl
    have hexec : exec i s = .next (retire (signal s1 f (wordAt ws 2) c (lastQueue q.toNat) (some q.toNat) false
        (some (packetIndex j1))) q.toNat) := by
      rw [exec_signal_at counting m hat, signalPacket_of_resolved (by rw [hown]; exact hres) hj1, hown]
    refine ⟨fun hhome hline hkey hfree => ?_, fun hhome => ?_⟩
    · rw [hexec, signal_home hhome hline hkey (fun h => hfree (hkind ▸ h))]
    · rw [hexec, signal_remote hhome]
end

section
/-! Barrier channels (R52, R167, R168): what the arming table writes leave as it is, BARRIER_ARM at its packet, the two
release rows, and the obligation Barriers. -/

namespace Sys2Proof.Machine

/-! ## Messages on a lane -/

/-- What no message on a lane changes, the messages of a set of hub runs do not change. -/
theorem sendRuns_keeps {β : Type} (g : State → β)
    (hmsg : ∀ t lane kind hub extra mask b0 rest, g (sendMsg t lane kind hub extra mask b0 rest) = g t)
    (s : State) (lane kind : Nat) (es : List Nat) (b0 : Nat) (rest : List Word) : g (sendRuns s lane kind es b0 rest) = g s := by
  unfold sendRuns
  induction hubRuns es generalizing s with
  | nil => rfl
  | cons r runs ih => rw [List.foldl_cons, ih, hmsg]

@[simp] theorem armWrites_barrier (s : State) (lane c : Nat) (es : List Nat) (arm : Bool) (i : Nat) :
    (armWrites s lane c es arm).barrier i = s.barrier i := by
  unfold armWrites
  rw [barrier_count]
  exact sendRuns_keeps (State.barrier · i) (fun _ _ _ _ _ _ _ _ => rfl) ..

@[simp] theorem armWrites_queue (s : State) (lane c : Nat) (es : List Nat) (arm : Bool) (i : Nat) :
    (armWrites s lane c es arm).queue i = s.queue i := by
  unfold armWrites
  rw [queue_count]
  exact sendRuns_keeps (State.queue · i) (fun _ _ _ _ _ _ _ _ => rfl) ..

/-! ## BARRIER_ARM at its packet -/

section
variable {s : State} {q : BitVec 18} {j : Job} {ws : List Word} {c : Nat}

/-- A channel that the packet's partition does not own (R167). -/
theorem exec_barrierArm_foreign (hat : AtPacket s q.toNat 0x14 j ws) (hc : c = fld (wordAt ws 2) 5 0)
    (hstable : (s.barrier c).changing = none)
    (hforeign : (s.barrier c).valid = false ∨ (s.barrier c).part ≠ partQ (countDecoded s q.toNat) q.toNat) :
    exec (.barrierArm q) s = .next (faultJob (count (countDecoded s q.toNat) pgSAD 4) q.toNat ST_BARRIER_CHANNEL) := by
  subst hc
  change execBarrierArm q s = _
  unfold execBarrierArm packetRow
  rw [hat.run]
  simp [hstable, hforeign]

/-- A channel that the packet's partition owns, and a rectangle with cores: the packet waits while release is high, and
else its table writes are issued and it retires (R167, R168). -/
theorem exec_barrierArm_owned {es : List Nat} (hat : AtPacket s q.toNat 0x14 j ws) (hc : c = fld (wordAt ws 2) 5 0)
    (hstable : (s.barrier c).changing = none) (hvalid : (s.barrier c).valid = true)
    (hpart : (s.barrier c).part = partQ (countDecoded s q.toNat) q.toNat)
    (hrect : rectEps (membersQ (countDecoded s q.toNat) q.toNat) 0 (wordAt ws 1) = some es) (hcores : es ≠ []) :
    let u := countDecoded s q.toNat
    let arm := flagsOf (hdrOf ws) % 2 = 0
    exec (.barrierArm q) s = .next (if (s.barrier c).release
      then modJob (count u pgSAD 3) q.toNat (fun j => { j with phase := .armWait })
      else retireWith ((armWrites u (s.queue q.toNat).home c es arm).setBarrier c
        (armSet (s.barrier c) q.toNat (u.queue q.toNat).step es arm)) q.toNat (fun j => { j with epochOpen := true })) := by
  subst hc
  obtain ⟨e, rest, rfl⟩ := List.exists_cons_of_ne_nil hcores
  dsimp only
  change execBarrierArm q s = _
  unfold execBarrierArm packetRow
  rw [hat.run]
  simp [hstable, hvalid, hpart, hrect]

end

/-! ## The release of a channel (R52) -/

/-- The any-low input of a channel whose release is low ends no episode. -/
theorem exec_barrierReleaseLower_low {s : State} {c : BitVec 6} (h : (s.barrier c.toNat).release = false) :
    exec (.barrierReleaseLower c) s = .next (s.setBarrier c.toNat { s.barrier c.toNat with all := false, any := false }) :=
  if_neg (by simp [h])

/-- The any-low input of a channel whose release is high ends its episode. -/
theorem exec_barrierReleaseLower_high {s : State} {c : BitVec 6} (h : (s.barrier c.toNat).release = true) :
    exec (.barrierReleaseLower c) s = .next (chanSettle (wakeArms (count (s.setBarrier c.toNat { s.barrier c.toNat with
      all := false, any := false, release := false, episodes := (s.barrier c.toNat).episodes + 1 }) pgSAD 0) c.toNat) c.toNat) :=
  if_pos h

end Sys2Proof.Machine

open Sys2Proof Sys2Proof.Machine

/-- Settles O43, by the cases of BARRIER_ARM at its packet (the channel foreign, or owned with release low or high) and of
the any-low input; the all-high input acts in every state. -/
theorem barriers : Obligations.Barriers := by
  unfold Obligations.Barriers
  rintro s q j ws u x rfl
  refine ⟨?_, ?_⟩
  · rintro c hc rfl hat hstable
    refine ⟨fun es hvalid hpart hrect hcores => ?_, exec_barrierArm_foreign hat hc hstable⟩
    have howned := exec_barrierArm_owned hat hc hstable hvalid hpart hrect hcores
    exact ⟨fun hlow => howned.trans (by rw [hlow]; rfl), fun hhigh => howned.trans (by rw [hhigh]; rfl)⟩
  · rintro c rfl
    exact ⟨rfl, exec_barrierReleaseLower_low, exec_barrierReleaseLower_high⟩
end

section
/-! Tokens, events, the watchdog, the scrub and trace times (R15, R190, R343, R349, R355 to R357): what each of these
commands does to the state, and the obligation TokensAndProgress. -/

namespace Sys2Proof.Machine

/-! ## Tokens at the spine (R15, R190) -/

section
variable {s : State}

theorem spineEvent_asleep (h : s.bsn.spineAwake = false) (held : Held) (f : State → State) :
    spineEvent s held f = wakeSpine { s with bsn := { s.bsn with held := s.bsn.held ++ [held] } } := if_neg (by simp [h])

theorem spineEvent_awake (h : s.bsn.spineAwake = true) (held : Held) (f : State → State) : spineEvent s held f = f s := if_pos h

variable {e tag st cycles : Nat} {stretched : Bool} {x : LaunchRec}

/-- A token of no record is discarded. -/
theorem tokenIn_unknown (h : recAt s tag = none) : tokenIn s e tag st cycles stretched = setErr s pgECP 0 e := by
  simp [tokenIn, h]

/-- A token that its record does not await is discarded. -/
theorem tokenIn_not_awaited (h : recAt s tag = some x) (hx : e ∉ x.await) :
    tokenIn s e tag st cycles stretched = setErr s pgECP 1 e := by
  simp [tokenIn, h, hx]

theorem tokenIn_awaited (h : recAt s tag = some x) (hx : e ∈ x.await) :
    tokenIn s e tag st cycles stretched = acceptToken s (tag / 8192) (tag % 8192) e tag st cycles stretched x := by
  simp [tokenIn, h, hx]

end

section
variable {s : State} {e : BitVec 14} {tag : BitVec 16} {st : Byte} {cy : BitVec 48} {b : Bool}

theorem exec_engineToken_asleep (h : s.bsn.spineAwake = false) :
    exec (.engineToken e tag st cy b) s = .next (wakeSpine { s with
      bsn := { s.bsn with held := s.bsn.held ++ [.token e.toNat tag.toNat st.toNat cy.toNat b] } }) :=
  congrArg _ (spineEvent_asleep h ..)

theorem exec_engineToken_awake (h : s.bsn.spineAwake = true) :
    exec (.engineToken e tag st cy b) s = .next (tokenIn s e.toNat tag.toNat st.toNat cy.toNat b) :=
  congrArg _ (spineEvent_awake h ..)

end

/-! ## Engine completion status (Table 7.7) -/

theorem skipStatus_ne_none {v : Nat} (h : skipStatus v ≠ none) : v = 2 ∨ v = 3 ∨ v = 4 := by
  unfold skipStatus at h
  split at h
  · omega
  · split at h
    · omega
    · split at h
      · omega
      · exact absurd rfl h

theorem engineFault_of_fault {v : Nat} (h : 6 ≤ v) (h' : v ≤ 0x7F) : engineFault v = some ST_ENGINE_FAULT := by
  rw [engineFault, if_neg (by omega), if_pos ⟨h, h'⟩]

theorem engineFault_of_other {v : Nat} (h : v < 5 ∨ 0x80 ≤ v) : engineFault v = none := by
  rw [engineFault, if_neg (by omega), if_neg (by omega)]

theorem engineOk_iff {v : Nat} : engineOk v = true ↔ v = 0 ∨ 0x80 ≤ v := by simp [engineOk]

/-! ## Event rings (R354, R355) -/

section
variable {s : State} {e type detail data : Nat}

/-- The ring takes the entry at its end; a full one first gives up its oldest. -/
theorem ring_pushEvent : ((pushEvent s e type detail data).ep e).ring =
    (s.ep e).ring.drop (if (s.ep e).ring.length < 16 then 0 else 1) ++ [eventEntry s e type detail data] := by
  unfold pushEvent
  dsimp only
  split <;> simp

theorem ep_pushEvent_of_ne {i : Nat} (h : i ≠ e) : (pushEvent s e type detail data).ep i = s.ep i := by
  unfold pushEvent
  dsimp only
  split <;> simp [h]

theorem length_ring_pushEvent (h : (s.ep e).ring.length ≤ 16) : ((pushEvent s e type detail data).ep e).ring.length ≤ 16 := by
  rw [ring_pushEvent, List.length_append, List.length_drop, List.length_singleton]
  split <;> omega

theorem getLast?_ring_pushEvent :
    ((pushEvent s e type detail data).ep e).ring.getLast? = some (eventEntry s e type detail data) := by
  rw [ring_pushEvent, List.getLast?_concat]

end

/-- An event that is no trace beat enters its endpoint's ring, and what else it does concerns no endpoint. -/
theorem exec_engineEvent_of_ring {s : State} {e : BitVec 14} {v : BitVec 128} (h : v.toNat % 256 ≠ 0x40) :
    ∃ t, exec (.engineEvent e v) s = .next t ∧
      ∀ i, t.ep i = (pushEvent s e.toNat (v.toNat % 256) (bitsN v.toNat 15 8) (bitsN v.toNat 55 32)).ep i := by
  change ∃ t, execEngineEvent e v s = .next t ∧ _
  unfold execEngineEvent
  dsimp only
  rw [if_neg h]
  refine ⟨_, rfl, fun i => ?_⟩
  have hdisarm : ∀ u : State, (if v.toNat % 256 = 0x04 then count u pgSAD 6 else u).ep i = u.ep i := fun u => by split <;> simp
  split
  · split <;> simp [hdisarm]
  · exact hdisarm _

/-- A trace beat is recorded where the session takes engine records. -/
theorem exec_engineEvent_of_traceBeat {s : State} {e : BitVec 14} {v : BitVec 128} (h : v.toNat % 256 = 0x40)
    (hctrl : s.loe.trace.ctrl.getLsbD 4 = true) : exec (.engineEvent e v) s =
      .next (traceRec s 2 e.toNat (epCtx s e.toNat) (v.toNat.testBit 8) (bitsN v.toNat 63 16)) := by
  change execEngineEvent e v s = _
  unfold execEngineEvent
  dsimp only
  rw [if_pos h, if_pos hctrl]

/-! ## The watchdog (R343) -/

/-- What the watchdog does at a context. -/
def wdogLook (m : MemView) (t : State) (c : Nat) : State :=
  if t.halted then t else if wdogDue t c then wdogFire t c m else t

theorem wdogLook_of_due {s : State} {m : MemView} {c : Nat} (hlive : s.halted = false) (h : wdogDue s c = true) :
    wdogLook m s c = wdogFire s c m := by simp [wdogLook, hlive, h]

theorem foldl_wdogLook_of_not_due {s : State} {m : MemView} {cs : List Nat} (h : ∀ c ∈ cs, wdogDue s c = false) :
    cs.foldl (wdogLook m) s = s := by
  induction cs with
  | nil => rfl
  | cons c cs ih =>
    obtain ⟨hc, hcs⟩ := List.forall_mem_cons.mp h
    have hlook : wdogLook m s c = s := by simp [wdogLook, hc]
    rw [List.foldl_cons, hlook, ih hcs]

section
variable {s : State} {m : MemView}

theorem exec_watchdogCheck_between (h : s.now % 1000000 ≠ 0) : exec (.watchdogCheck m) s = .next s := if_pos h

/-- At a multiple of 1 ms the watchdog looks at the contexts one by one. -/
theorem exec_watchdogCheck_at (h : s.now % 1000000 = 0) :
    exec (.watchdogCheck m) s = .next ((s.ctxs.map (·.1)).foldl (wdogLook m) s) := if_neg (not_not_intro h)

end

/-! ## The patrol scrub (R349, R402) -/

/-- What the scrub of a word meets: the page's armed error, or what the read showed. -/
def scrubMet (s : State) (p : Nat) (r : EccRead) : EccRead :=
  match (s.page p).inject with | some true => .uncorrectable | some false => .corrected | none => r

/-- The scrub of an item's word disarms the page's error and records what it met. -/
theorem exec_patrolScrub {s : State} {page array : BitVec 8} {word : W32} {item : EccItem} {r : EccRead}
    (h : itemAt s page.toNat array.toNat word.toNat item = true) :
    let s1 := s.setPage page.toNat { s.page page.toNat with inject := none }
    let addr := array.toNat * 2 ^ 56 + word.toNat
    exec (.patrolScrub page array word item r) s = .next (match scrubMet s page.toNat r with
      | .clean => s1
      | .corrected => setErr s1 page.toNat 30 addr
      | .uncorrectable => eccOutcome (setErr s1 page.toNat 31 addr) item) := by
  change execPatrolScrub page array word item r s = _
  unfold execPatrolScrub
  rw [if_neg (by simp [h])]
  change (match scrubMet s page.toNat r with | .clean => _ | .corrected => _ | .uncorrectable => _) = _
  cases scrubMet s page.toNat r <;> rfl

/-! ## TIME records (R357) -/

section
variable {s : State}

theorem exec_time30Wrap_of_wrap (howner : s.loe.trace.owner.isSome = true) (h : s.now / 10 % 2 ^ 30 = 0) :
    exec .time30Wrap s = .next (traceTime s) := 
    if_pos (by rw [howner, h]; rfl)

theorem exec_time30Wrap_of_no_session (h : s.loe.trace.owner = none) : exec .time30Wrap s = .next s := if_neg (by simp [h])

end

end Sys2Proof.Machine

open Sys2Proof Sys2Proof.Machine

/-- Settles O57, command by command: a token by the spine's domain and its record, an event by its type, the watchdog by
the time and the contexts' windows, the scrub by what it meets, and the wrap of TIME30 by the session. -/
theorem tokensAndProgress : Obligations.TokensAndProgress := by
  unfold Obligations.TokensAndProgress
  intro s e
  refine ⟨fun tag st cy b => ⟨exec_engineToken_asleep, fun hawake => ?_⟩, ?_, fun v hv hlen => ?_,
    fun v => exec_engineEvent_of_traceBeat, fun m => exec_watchdogCheck_between, fun m hnow hdue => ?_,
    fun m c cs x hnow hlive hctxs hdue => ?_, fun page array word item r => exec_patrolScrub, exec_time30Wrap_of_wrap,
    exec_time30Wrap_of_no_session⟩
  · rw [exec_engineToken_awake hawake]
    exact ⟨fun hnone => congrArg _ (tokenIn_unknown hnone), fun x hx hne => congrArg _ (tokenIn_not_awaited hx hne),
      fun x hx hmem => congrArg _ (tokenIn_awaited hx hmem)⟩
  · exact ⟨rfl, rfl, rfl, fun v => skipStatus_ne_none, rfl, fun v => engineFault_of_fault, fun v => engineFault_of_other,
      fun v => engineOk_iff⟩
  · obtain ⟨t, hexec, hep⟩ := exec_engineEvent_of_ring (s := s) (e := e) hv
    refine ⟨t, hexec, ?_, ?_, fun i hi => ?_⟩
    · rw [hep]; exact length_ring_pushEvent hlen
    · rw [hep]; exact getLast?_ring_pushEvent
    · rw [hep]; exact ep_pushEvent_of_ne hi
  · rw [exec_watchdogCheck_at hnow, foldl_wdogLook_of_not_due]
    simpa using hdue
  · rw [exec_watchdogCheck_at hnow, hctxs, List.map_cons, List.foldl_cons, wdogLook_of_due hlive hdue]
    rfl
end

section
/-! ## DEBUG_OPENED (R300) -/

namespace Sys2Proof.Machine

/-! ### The steady part under a command -/

/-- The commands that may change the steady part of the state: the resets, the end of an authentication, the stages that
read the fuses and derive the keys, and the wakes and sleeps of domains. -/
inductive MovesSteady : Instr → Prop
  | powerOnReset : MovesSteady .powerOnReset
  | blockReset : MovesSteady .blockReset
  | unitReset (q) : MovesSteady (.unitReset q)
  | authResult : MovesSteady .authResult
  | stage0 (fuses) : MovesSteady (.stage0 fuses)
  | stage2 (sramOk) : MovesSteady (.stage2 sramOk)
  | domainWake (d m) : MovesSteady (.domainWake d m)
  | sleepEntry (d) : MovesSteady (.sleepEntry d)

theorem steady_execPowerOnResetRelease (s : State) : steady (after s (execPowerOnResetRelease s)) = steady s := by
  simp only [execPowerOnResetRelease]
  (repeat' split) <;> simp

/-- Every other command keeps the steady part, each by the law of its row. -/
theorem steady_exec (s : State) : ∀ i, ¬ MovesSteady i → steady (after s (exec i s)) = steady s
  | .doorbellWrite r, _ => steady_execDoorbellWrite r s
  | .sigSet r data m, _ => steady_execSigSet r data m s
  | .sigAdd r data m, _ => steady_execSigAdd r data m s
  | .sigNotify r data m, _ => steady_execSigNotify r data m s
  | .registerWrite r m, _ => steady_execRegisterWrite r m s
  | .notificationTransfer, _ => steady_execNotificationTransfer s
  | .powerOnReset, h => (h .powerOnReset).elim
  | .powerOnResetRelease, _ => steady_execPowerOnResetRelease s
  | .blockReset, h => (h .blockReset).elim
  | .blockResetRelease, _ => steady_execBlockResetRelease s
  | .domainWake d m, h => (h (.domainWake d m)).elim
  | .sleepEntry d, h => (h (.sleepEntry d)).elim
  | .pollDue q, _ => steady_execPollDue q s
  | .piReadReturn q data, _ => steady_execPiReadReturn q data s
  | .entryReadReturn q data, _ => steady_execEntryReadReturn q data s
  | .fragmentReadReturn q data, _ => steady_execFragmentReadReturn q data s
  | .fragmentBufferGrant slice, _ => steady_execFragmentBufferGrant slice s
  | .constImageGrant slice, _ => steady_execConstImageGrant slice s
  | .jobCompletion q m, _ => steady_execJobCompletion q m s
  | .fenceAtomicComplete n old m, _ => steady_execFenceAtomicComplete n old m s
  | .completionRecordComplete q ok, _ => steady_execCompletionRecordComplete q ok s
  | .ciWriteComplete q ok, _ => steady_execCiWriteComplete q ok s
  | .pcrdGrant q w, _ => steady_execPcrdGrant q w s
  | .nop q, _ => steady_execNop q s
  | .launch q m, _ => steady_execLaunch q m s
  | .launchIndirect q m, _ => steady_execLaunchIndirect q m s
  | .copy q, _ => steady_execCopy q s
  | .fill q, _ => steady_execFill q s
  | .setConst q m, _ => steady_execSetConst q m s
  | .loadImem q m, _ => steady_execLoadImem q m s
  | .imemLoadIssue m, _ => steady_execImemLoadIssue m s
  | .fanStream q m, _ => steady_execFanStream q m s
  | .fanStreamEmit f m, _ => steady_execFanStreamEmit f m s
  | .fanStreamComplete f, _ => steady_execFanStreamComplete f s
  | .waitFence q m, _ => steady_execWaitFence q m s
  | .signalFence q m, _ => steady_execSignalFence q m s
  | .waitCount q m, _ => steady_execWaitCount q m s
  | .credit q m, _ => steady_execCredit q m s
  | .barrierArm q, _ => steady_execBarrierArm q s
  | .fenceRecheckReturn q die value, _ => steady_execFenceRecheckReturn q die value s
  | .lineRereadReturn line data, _ => steady_execLineRereadReturn line data s
  | .consumeAddReturn n old, _ => steady_execConsumeAddReturn n old s
  | .unlinkedReread q die, _ => steady_execUnlinkedReread q die s
  | .remoteWatchRetry q, _ => steady_execRemoteWatchRetry q s
  | .ifPkt q m, _ => steady_execIfPkt q m s
  | .elsePkt q, _ => steady_execElsePkt q s
  | .endif q, _ => steady_execEndif q s
  | .loop q m, _ => steady_execLoop q m s
  | .endloop q, _ => steady_execEndloop q s
  | .callBuffer q m, _ => steady_execCallBuffer q m s
  | .returnPkt q, _ => steady_execReturnPkt q s
  | .callRoutine q m fw, _ => steady_execCallRoutine q m fw s
  | .graphRun q m fw, _ => steady_execGraphRun q m fw s
  | .graphPatch q m, _ => steady_execGraphPatch q m s
  | .deadline q, _ => steady_execDeadline q s
  | .fallback q, _ => steady_execFallback q s
  | .fallbackSwitch q, _ => steady_execFallbackSwitch q s
  | .tag q, _ => steady_execTag q s
  | .phaseHint q, _ => steady_execPhaseHint q s
  | .hintExpiry p, _ => steady_execHintExpiry p s
  | .timestamp q, _ => steady_execTimestamp q s
  | .watch q, _ => steady_execWatch q s
  | .alloc q, _ => steady_execAlloc q s
  | .allocResume, _ => steady_execAllocResume s
  | .free q, _ => steady_execFree q s
  | .query q, _ => steady_execQuery q s
  | .contextCreate q, _ => steady_execContextCreate q s
  | .contextDestroy q, _ => steady_execContextDestroy q s
  | .teardownComplete c, _ => steady_execTeardownComplete c s
  | .contextRemovalComplete c, _ => steady_execContextRemovalComplete c s
  | .queueCreate q ciWriteOk, _ => steady_execQueueCreate q ciWriteOk s
  | .queueRelease q, _ => steady_execQueueRelease q s
  | .stpQCtrlEnable r, _ => steady_execStpQCtrlEnable r s
  | .stpQCtrlDisable r, _ => steady_execStpQCtrlDisable r s
  | .stpQCtrlHoldSet r, _ => steady_execStpQCtrlHoldSet r s
  | .stpQCtrlHoldClear r, _ => steady_execStpQCtrlHoldClear r s
  | .stpQCtrlWarm r, _ => steady_execStpQCtrlWarm r s
  | .bind q m, _ => steady_execBind q m s
  | .unbind q m, _ => steady_execUnbind q m s
  | .channelMigration p c, _ => steady_execChannelMigration p c s
  | .epochSwap q, _ => steady_execEpochSwap q s
  | .epochSwapTakeEffect p, _ => steady_execEpochSwapTakeEffect p s
  | .swapDeferral p, _ => steady_execSwapDeferral p s
  | .tableWriteTimeout ep, _ => steady_execTableWriteTimeout ep s
  | .setShares q, _ => steady_execSetShares q s
  | .sliceEnd p, _ => steady_execSliceEnd p s
  | .regulatorSet q, _ => steady_execRegulatorSet q s
  | .creditInterval active, _ => steady_execCreditInterval active s
  | .levelReport chan kind value, _ => steady_execLevelReport chan kind value s
  | .channelReportStale chan, _ => steady_execChannelReportStale chan s
  | .selftest q r, _ => steady_execSelftest q r s
  | .boundaryKnownAnswerRun k unit r, _ => steady_execBoundaryKnownAnswerRun k unit r s
  | .unitReset q, h => (h (.unitReset q)).elim
  | .abortAbsorb ep, _ => steady_execAbortAbsorb ep s
  | .retrain q, _ => steady_execRetrain q s
  | .fwActivate q image, _ => steady_execFwActivate q image s
  | .fwSliceActivate part, _ => steady_execFwSliceActivate part s
  | .keyInstall q, _ => steady_execKeyInstall q s
  | .keyRevoke q, _ => steady_execKeyRevoke q s
  | .sealPartition q, _ => steady_execSealPartition q s
  | .measureReport q, _ => steady_execMeasureReport q s
  | .scaleUpdate q m, _ => steady_execScaleUpdate q m s
  | .amaxReduce q m, _ => steady_execAmaxReduce q m s
  | .topkRoute q m, _ => steady_execTopkRoute q m s
  | .prefixSum q m, _ => steady_execPrefixSum q m s
  | .histogram q m, _ => steady_execHistogram q m s
  | .sortSmall q m, _ => steady_execSortSmall q m s
  | .shapeEval q m, _ => steady_execShapeEval q m s
  | .lossScaleCheck q m, _ => steady_execLossScaleCheck q m s
  | .specAccept q m, _ => steady_execSpecAccept q m s
  | .routineAlloc q, _ => steady_execRoutineAlloc q s
  | .routineFree q, _ => steady_execRoutineFree q s
  | .copySmall q m, _ => steady_execCopySmall q m s
  | .hashMeasure q m, _ => steady_execHashMeasure q m s
  | .watchDump q m, _ => steady_execWatchDump q m s
  | .slotGrant ep, _ => steady_execSlotGrant ep s
  | .launchRecordGrant lane, _ => steady_execLaunchRecordGrant lane s
  | .engineToken ep tag status cycles stretched, _ => steady_execEngineToken ep tag status cycles stretched s
  | .upstreamAlloc ep beat0 beat1, _ => steady_execUpstreamAlloc ep beat0 beat1 s
  | .upstreamFree ep beat0, _ => steady_execUpstreamFree ep beat0 s
  | .engineEvent ep data, _ => steady_execEngineEvent ep data s
  | .syncSignal ep id value m, _ => steady_execSyncSignal ep id value m s
  | .syncAdd ep id value m, _ => steady_execSyncAdd ep id value m s
  | .keyDrainAck src id, _ => steady_execKeyDrainAck src id s
  | .barrierReleaseRaise c, _ => steady_execBarrierReleaseRaise c s
  | .barrierReleaseLower c, _ => steady_execBarrierReleaseLower c s
  | .activityBeat grp data, _ => steady_execActivityBeat grp data s
  | .measurement mw, _ => steady_execMeasurement mw s
  | .activityWindow, _ => steady_execActivityWindow s
  | .frequencyDone hub, _ => steady_execFrequencyDone hub s
  | .railAck rail, _ => steady_execRailAck rail s
  | .alert, _ => steady_execAlert s
  | .alertRelease, _ => steady_execAlertRelease s
  | .rackBudgetWrite r, _ => steady_execRackBudgetWrite r s
  | .rackBudgetStale, _ => steady_execRackBudgetStale s
  | .freqProposeResend p, _ => steady_execFreqProposeResend p s
  | .fenceSignal die beat, _ => steady_execFenceSignal die beat s
  | .fenceWatch die beat, _ => steady_execFenceWatch die beat s
  | .fenceUnwatch die beat, _ => steady_execFenceUnwatch die beat s
  | .fenceWake die beat, _ => steady_execFenceWake die beat s
  | .fenceFault die beat, _ => steady_execFenceFault die beat s
  | .contextAbort die beat, _ => steady_execContextAbort die beat s
  | .abortDone die beat, _ => steady_execAbortDone die beat s
  | .freqPropose die beat, _ => steady_execFreqPropose die beat s
  | .freqSet die beat, _ => steady_execFreqSet die beat s
  | .keyDrain die beat, _ => steady_execKeyDrain die beat s
  | .keyDrained src beat, _ => steady_execKeyDrained src beat s
  | .drainAckTimeout slot dest, _ => steady_execDrainAckTimeout slot dest s
  | .remoteDrainTimeout slot, _ => steady_execRemoteDrainTimeout slot s
  | .keySlotRelease slot, _ => steady_execKeySlotRelease slot s
  | .twinState die beat, _ => steady_execTwinState die beat s
  | .twinStateResend, _ => steady_execTwinStateResend s
  | .doorbellFwd die beat, _ => steady_execDoorbellFwd die beat s
  | .handback die beat, _ => steady_execHandback die beat s
  | .handbackEnd die beat, _ => steady_execHandbackEnd die beat s
  | .heartbeatSeen, _ => steady_execHeartbeatSeen s
  | .heartbeatLost, _ => steady_execHeartbeatLost s
  | .watchdogCheck m, _ => steady_execWatchdogCheck m s
  | .patrolScrub page array word item e, _ => steady_execPatrolScrub page array word item e s
  | .clearCounters r, _ => steady_execClearCounters r s
  | .irqForce r, _ => steady_execIrqForce r s
  | .irqStatusClear r, _ => steady_execIrqStatusClear r s
  | .injectUe r, _ => steady_execInjectUe r s
  | .injectCe r, _ => steady_execInjectCe r s
  | .pageLock r, _ => steady_execPageLock r s
  | .irqTargetEnable r, _ => steady_execIrqTargetEnable r s
  | .sliceAwakeForce r, _ => steady_execSliceAwakeForce r s
  | .syncInvalEntry r, _ => steady_execSyncInvalEntry r s
  | .syncInvalAll r, _ => steady_execSyncInvalAll r s
  | .wfgStart r, _ => steady_execWfgStart r s
  | .wfgDone, _ => steady_execWfgDone s
  | .probeSelect r m, _ => steady_execProbeSelect r m s
  | .channelOwnerChange r, _ => steady_execChannelOwnerChange r s
  | .fanOwnerChange r, _ => steady_execFanOwnerChange r s
  | .paceBaseWrite r, _ => steady_execPaceBaseWrite r s
  | .pacingWindowWrite c line, _ => steady_execPacingWindowWrite c line s
  | .ctxSpadWrite r, _ => steady_execCtxSpadWrite r s
  | .traceStart r, _ => steady_execTraceStart r s
  | .traceStop r, _ => steady_execTraceStop r s
  | .spiStoreGo r, _ => steady_execSpiStoreGo r s
  | .spiStoreDone ok m, _ => steady_execSpiStoreDone ok m s
  | .rcvBegin r, _ => steady_execRcvBegin r s
  | .rcvData r, _ => steady_execRcvData r s
  | .rcvVerify r, _ => steady_execRcvVerify r s
  | .rcvProgram r, _ => steady_execRcvProgram r s
  | .rcvBoot r, _ => steady_execRcvBoot r s
  | .stage0 fuses, h => (h (.stage0 fuses)).elim
  | .stage1 sfdp flash, _ => steady_execStage1 sfdp flash s
  | .stage2 sramOk, h => (h (.stage2 sramOk)).elim
  | .stage3 sramOk, _ => steady_execStage3 sramOk s
  | .stage4 found, _ => steady_execStage4 found s
  | .stage5 chans links, _ => steady_execStage5 chans links s
  | .stage6 runs gain karPresent, _ => steady_execStage6 runs gain karPresent s
  | .stage7, _ => steady_execStage7 s
  | .mbxClaim r, _ => steady_execMbxClaim r s
  | .mbxRelease r, _ => steady_execMbxRelease r s
  | .mailboxClaimExpiry, _ => steady_execMailboxClaimExpiry s
  | .getVersion r, _ => steady_execGetVersion r s
  | .getCapabilities r, _ => steady_execGetCapabilities r s
  | .negotiateAlgorithms r, _ => steady_execNegotiateAlgorithms r s
  | .getDigests r sess, _ => steady_execGetDigests r sess s
  | .getCertificate r sess, _ => steady_execGetCertificate r sess s
  | .challenge r, _ => steady_execChallenge r s
  | .getMeasurements r sess index nonce, _ => steady_execGetMeasurements r sess index nonce s
  | .keyExchange r sid, _ => steady_execKeyExchange r sid s
  | .finish r sid requesterKey, _ => steady_execFinish r sid requesterKey s
  | .heartbeat r sid, _ => steady_execHeartbeat r sid s
  | .keyUpdate r sid, _ => steady_execKeyUpdate r sid s
  | .endSession r sid, _ => steady_execEndSession r sid s
  | .chunkSend r sess chunk last, _ => steady_execChunkSend r sess chunk last s
  | .chunkGet r sess index, _ => steady_execChunkGet r sess index s
  | .unsupportedRequest r code, _ => steady_execUnsupportedRequest r code s
  | .sessionTimeout sid, _ => steady_execSessionTimeout sid s
  | .vendorKeyInstall r sid body, _ => steady_execVendorKeyInstall r sid body s
  | .vendorKeyRevoke r sid body, _ => steady_execVendorKeyRevoke r sid body s
  | .vendorSeal r sid body, _ => steady_execVendorSeal r sid body s
  | .vendorReport r sid body, _ => steady_execVendorReport r sid body s
  | .logRead r sid body, _ => steady_execLogRead r sid body s
  | .authNew r, _ => steady_execAuthNew r s
  | .authCheck r, _ => steady_execAuthCheck r s
  | .authResult, h => (h .authResult).elim
  | .authClose r, _ => steady_execAuthClose r s
  | .testReset, _ => steady_execTestReset s
  | .registerAccessInstrument dr m, _ => steady_execRegisterAccessInstrument dr m s
  | .mgtWinData, _ => steady_execMgtWinData s
  | .mgmtLatchRead addr, _ => steady_execMgmtLatchRead addr s
  | .reservedSyncOp ep id op value, _ => steady_execReservedSyncOp ep id op value s
  | .unlistedPeerMessage die beat, _ => steady_execUnlistedPeerMessage die beat s
  | .unknownUpstreamRequest ep beat0 beat1, _ => steady_execUnknownUpstreamRequest ep beat0 beat1 s
  | .signalPageFormatError r data, _ => steady_execSignalPageFormatError r data s
  | .refusedRegisterRead r, _ => steady_execRefusedRegisterRead r s
  | .knownAnswerRunTimeout k unit, _ => steady_execKnownAnswerRunTimeout k unit s
  | .trainWaitExpiry chan, _ => steady_execTrainWaitExpiry chan s
  | .railAckTimeout rail, _ => steady_execRailAckTimeout rail s
  | .freqProposeMissing p die, _ => steady_execFreqProposeMissing p die s
  | .time30Wrap, _ => steady_execTime30Wrap s
  | .mailboxRequestNotParsed r, _ => steady_execMailboxRequestNotParsed r s

/-- A packet row keeps the steady part, or it is the packet's effect on a state of the same steady part. -/
theorem runPacket_cases (s : State) (q op : Nat) (tokens : List Word → Bool) (f : State → Job → List Word → State) :
    steady (runPacket s q op tokens f) = steady s ∨
      ∃ u j ws, steady u = steady s ∧ runPacket s q op tokens f = f u j ws := by
  unfold runPacket
  dsimp only
  cases s.job q with
  | none => exact .inl rfl
  | some j =>
    dsimp only
    cases curPkt j with
    | none => exact .inl rfl
    | some ws =>
      dsimp only
      split
      · exact .inl rfl
      split
      · exact .inl (by simp)
      split
      · exact .inl (by simp)
      split
      · exact .inl (by simp)
      next s1 hs1 =>
        have h1 : steady s1 = steady s := steady_restoreSpill hs1
        split
        · exact .inl h1
        split
        · exact .inl (by split <;> simp [h1])
        split
        · split
          · exact .inr ⟨_, _, _, by simp [h1], rfl⟩
          · exact .inl (by simp [h1])
        · exact .inl (by simp [h1])

/-! ### DEBUG_OPENED under the commands that change the steady part

The record is read as a field of the steady part, which the laws of the shared operations speak of. -/

@[simp] theorem steady_debugOpened (s : State) : (steady s).debugOpened = s.ntc.debugOpened := rfl

theorem debugOpened_execBlockReset (s : State) : (steady (after s (execBlockReset s))).debugOpened = s.ntc.debugOpened := by
  unfold execBlockReset
  split <;> simp

theorem debugOpened_waitRow {s : State} {q op : Nat} {wait : List Word → Bool} {f : State → Job → List Word → State}
    (h : ∀ u j ws, (steady (f u j ws)).debugOpened = (steady u).debugOpened) :
    (steady (after s (waitRow s q op wait f))).debugOpened = s.ntc.debugOpened := by
  have hrow : (steady (after s (packetRow s q op noTokens f))).debugOpened = s.ntc.debugOpened := by
    rcases runPacket_cases s q op noTokens f with hkept | ⟨u, j, ws, hu, hf⟩
    · exact congrArg Steady.debugOpened hkept
    · rw [packetRow, after_next, hf, h, hu]; rfl
  unfold waitRow
  split
  · split
    · rfl
    · exact hrow
  · exact hrow

theorem debugOpened_execUnitReset (q : BitVec 18) (s : State) :
    (steady (after s (execUnitReset q s))).debugOpened = s.ntc.debugOpened :=
  debugOpened_waitRow fun u _ ws => by
    dsimp only
    split <;> simp

theorem debugOpened_atStage {s : State} {n : Nat} {f : State → State}
    (h : (steady (f s)).debugOpened = s.ntc.debugOpened) :
    (steady (after s (atStage s n f))).debugOpened = s.ntc.debugOpened := by
  unfold atStage
  split
  · exact h
  · rfl

theorem debugOpened_execStage0 (fuses : List W32) (s : State) :
    (steady (after s (execStage0 fuses s))).debugOpened = s.ntc.debugOpened :=
  debugOpened_atStage (by
    dsimp only
    (repeat' split) <;> simp)

theorem debugOpened_execStage2 (sramOk : Bool) (s : State) :
    (steady (after s (execStage2 sramOk s))).debugOpened = s.ntc.debugOpened :=
  debugOpened_atStage (by
    dsimp only
    (repeat' split) <;> simp [steady_notchKeys, steady_foldl])

theorem debugOpened_execDomainWake (d : Fin 9) (m : MemView) (s : State) :
    (steady (after s (execDomainWake d m s))).debugOpened = s.ntc.debugOpened := by
  unfold execDomainWake
  dsimp only
  (repeat' split) <;> simp

theorem debugOpened_execSleepEntry (d : Fin 9) (s : State) :
    (steady (after s (execSleepEntry d s))).debugOpened = s.ntc.debugOpened := by
  unfold execSleepEntry
  dsimp only
  (repeat' split) <;> simp

/-! ### The end of an authentication (R414, Table 16.7) -/

/-- No check passes while a partition is sealed. -/
theorem authReason_ne_zero_of_sealed {s : State} (b : Bool) (h : ∃ p ∈ s.parts, p.2.sealed.isSome = true) :
    authReason s b ≠ 0 := by
  have hsealed : s.parts.any (fun p => p.2.sealed.isSome) = true := List.any_eq_true.mpr h
  simp only [authReason, hsealed, if_true]
  split <;> decide

section
variable {s : State} {b : Bool}

theorem execAuthResult_of_pass (hst : s.dbg.st = .checking b) (h : authReason s b = 0) :
    ∃ t, execAuthResult s = .next t ∧ t.dbg.st = .open ∧ t.ntc.debugOpened = true := by
  simp [execAuthResult, hst, h]

theorem execAuthResult_of_fail (hst : s.dbg.st = .checking b) (h : authReason s b ≠ 0) :
    ∃ t, execAuthResult s = .next t ∧ t.dbg.st ≠ .open ∧ t.ntc.debugOpened = s.ntc.debugOpened := by
  simp only [execAuthResult, hst, if_neg h]
  refine ⟨_, rfl, ?_, rfl⟩
  dsimp only
  split <;> decide

theorem execAuthResult_of_no_check (hst : ∀ b, s.dbg.st ≠ .checking b) : execAuthResult s = .next s := by
  unfold execAuthResult
  split
  · exact absurd ‹_› (hst _)
  · rfl

/-- The end of an authentication sets DEBUG_OPENED or leaves it. -/
theorem opened_execAuthResult (ho : s.ntc.debugOpened = true) :
    (steady (after s (execAuthResult s))).debugOpened = true := by
  by_cases hst : ∃ b, s.dbg.st = .checking b
  · obtain ⟨b, hst⟩ := hst
    by_cases h : authReason s b = 0
    · obtain ⟨t, ht, -, htrue⟩ := execAuthResult_of_pass hst h
      rw [ht]; exact htrue
    · obtain ⟨t, ht, -, hkept⟩ := execAuthResult_of_fail hst h
      rw [ht]; exact hkept.trans ho
  · rw [execAuthResult_of_no_check (not_exists.mp hst)]; exact ho

end

/-! ### The record stands -/

/-- No command but the assertion of rst_por_n clears DEBUG_OPENED. -/
theorem opened_exec {s : State} {i : Instr} (hi : i ≠ .powerOnReset) (ho : s.ntc.debugOpened = true) :
    (steady (after s (exec i s))).debugOpened = true := by
  by_cases hm : MovesSteady i
  · cases hm with
    | powerOnReset => exact absurd rfl hi
    | blockReset => exact (debugOpened_execBlockReset s).trans ho
    | unitReset q => exact (debugOpened_execUnitReset q s).trans ho
    | authResult => exact opened_execAuthResult ho
    | stage0 fuses => exact (debugOpened_execStage0 fuses s).trans ho
    | stage2 sramOk => exact (debugOpened_execStage2 sramOk s).trans ho
    | domainWake d m => exact (debugOpened_execDomainWake d m s).trans ho
    | sleepEntry d => exact (debugOpened_execSleepEntry d s).trans ho
  · rw [steady_exec s i hm]; exact ho

theorem opened_tick {s : State} (ho : s.ntc.debugOpened = true) : (tick s).ntc.debugOpened = true := by
  unfold tick
  split <;> exact ho

theorem opened_step {s t : State} (ho : s.ntc.debugOpened = true) (hstep : step s = .next t)
    (hnext : s.pending.head? ≠ some .powerOnReset) : t.ntc.debugOpened = true := by
  unfold step at hstep
  split at hstep
  · cases hstep; exact opened_tick ho
  next c rest hpending =>
    have hc : c ≠ .powerOnReset := fun hc => hnext (by rw [hpending, hc]; rfl)
    have hopened := opened_exec (s := { s with pending := rest }) hc ho
    rwa [hstep] at hopened

theorem testBit_reportFlags_zero (s : State) : (reportFlags s).testBit 0 = s.ntc.debugOpened := by
  unfold reportFlags
  cases s.ntc.debugOpened <;> cases mixedFirmware s <;> rfl

end Sys2Proof.Machine

open Sys2Proof Sys2Proof.Machine

/-- Settles O6: the check of the sealed partitions fails an authentication, its end alone writes DEBUG_OPENED, and each
other command but rst_por_n keeps it. -/
theorem debugOpenedStands : Obligations.DebugOpenedStands := by
  unfold Obligations.DebugOpenedStands
  exact ⟨fun s b hsealed hst => execAuthResult_of_fail hst (authReason_ne_zero_of_sealed b hsealed),
    fun s b => execAuthResult_of_pass, fun s t => opened_step, testBit_reportFlags_zero⟩
end

section
/-! What the commands keep (R14 to R17, R29, R300, R305, R360, R367): the steady part under each command that may change it,
and the obligations DomainsKept and WhatCommandsKeep. -/

namespace Sys2Proof.Machine

/-! ## The steady part under the commands that change it -/

section
variable (s : State)

theorem steady_blockReset_row :
    steady (after s (exec .blockReset s)) =
      if s.bsn.porAsserted then steady s else { steady s with sliceAwake := 0, spineAwake := false } := by
  change steady (after s (execBlockReset s)) = _
  unfold execBlockReset
  split
  · rfl
  · exact steady_blockReset s

/-- The end of an authentication changes at most DEBUG_OPENED. -/
theorem steady_authResult_row : ∃ opened, steady (after s (exec .authResult s)) = { steady s with debugOpened := opened } := by
  change ∃ opened, steady (after s (execAuthResult s)) = _
  unfold execAuthResult
  split
  · dsimp only
    split <;> exact ⟨_, rfl⟩
  · exact ⟨_, rfl⟩

/-- A row that may wait leaves what the packet's effect leaves, or the steady part as it was. -/
theorem steady_waitRow_induct {s : State} {P : Steady → Prop} {q op : Nat} {wait : List Word → Bool}
    {f : State → Job → List Word → State} (h0 : P (steady s)) (hf : ∀ u j ws, steady u = steady s → P (steady (f u j ws))) :
    P (steady (after s (waitRow s q op wait f))) := by
  have hrow : P (steady (after s (packetRow s q op noTokens f))) := by
    rw [packetRow, after_next]
    rcases runPacket_cases s q op noTokens f with hkept | ⟨u, j, ws, hu, hrun⟩
    · rwa [hkept]
    · rw [hrun]; exact hf u j ws hu
  unfold waitRow
  split
  · split
    · exact h0
    · exact hrow
  · exact hrow

/-- The row of UNIT_RESET keeps the steady part, or it resets the block: no domain is awake then. -/
theorem steady_unitReset_row (q : BitVec 18) :
    steady (after s (exec (.unitReset q) s)) = steady s ∨
      steady (after s (exec (.unitReset q) s)) = { steady s with sliceAwake := 0, spineAwake := false } :=
  steady_waitRow_induct (P := fun x => x = steady s ∨ x = { steady s with sliceAwake := 0, spineAwake := false }) (.inl rfl)
    fun u _ ws hu => by
      dsimp only
      split
      · right; rw [steady_startBoot, ← hu]; rfl
      · left; simp [hu]

theorem steady_atStage_induct {s : State} {P : Steady → Prop} {n : Nat} {f : State → State} (h0 : P (steady s)) (hf : P (steady (f s))) :
    P (steady (after s (atStage s n f))) := by
  unfold atStage
  split
  · exact hf
  · exact h0

/-- Stage 0 keeps the steady part, or it wakes every domain and may read the fuse words. -/
theorem steady_stage0_row (fuses : List W32) :
    steady (after s (exec (.stage0 fuses) s)) = steady s ∨ ∃ words,
      steady (after s (exec (.stage0 fuses) s)) = { steady s with sliceAwake := 0xFF, spineAwake := true, fuses := words } := by
  change steady (after s (execStage0 fuses s)) = _ ∨ ∃ words, steady (after s (execStage0 fuses s)) = _
  refine steady_atStage_induct
    (P := fun x => x = steady s ∨ ∃ words, x = { steady s with sliceAwake := 0xFF, spineAwake := true, fuses := words })
    (.inl rfl) (.inr ?_)
  dsimp only
  (repeat' split) <;> exact ⟨_, (steady_endStage ..).trans ((steady_sendTwin ..).trans rfl)⟩

/-- Stage 2 changes at most the digest that the keys are derived from. -/
theorem steady_stage2_row (sramOk : Bool) :
    ∃ digest, steady (after s (exec (.stage2 sramOk) s)) = { steady s with bootDigest := digest } := by
  change ∃ digest, steady (after s (execStage2 sramOk s)) = _
  refine steady_atStage_induct (P := fun x => ∃ digest, x = { steady s with bootDigest := digest }) ⟨_, rfl⟩ ?_
  dsimp only
  (repeat' split) <;> simp [steady_notchKeys, steady_foldl] <;> exact ⟨_, rfl⟩

/-- A wake leaves the steady part, or the spine is awake behind it. -/
theorem steady_domainWake_row (d : Fin 9) (m : MemView) :
    steady (after s (exec (.domainWake d m) s)) = steady s ∨
      ∃ slices, steady (after s (exec (.domainWake d m) s)) = { steady s with sliceAwake := slices, spineAwake := true } := by
  change steady (after s (execDomainWake d m s)) = _ ∨ ∃ slices, steady (after s (execDomainWake d m s)) = _
  unfold execDomainWake
  dsimp only
  split
  · exact .inl rfl
  split
  · split
    · exact .inl rfl
    · exact .inr ⟨_, by rw [after_next, steady_deliverHeld]; rfl⟩
  split
  · exact .inl rfl
  next h =>
    obtain ⟨-, hspine⟩ := not_or.mp h
    have hspine : s.bsn.spineAwake = true := by simpa using hspine
    refine .inr ⟨s.bsn.sliceAwake ||| BitVec.ofNat 8 (2 ^ d.val), ?_⟩
    rw [after_next, steady_pumpSlice, steady_deliverHeld, ← hspine]
    rfl

/-- A sleep leaves the steady part, or the spine sleeps behind every slice, or a slice that was awake sleeps. -/
theorem steady_sleepEntry_row (d : Fin 9) :
    steady (after s (exec (.sleepEntry d) s)) = steady s ∨
      (s.bsn.sliceAwake = 0 ∧ steady (after s (exec (.sleepEntry d) s)) = { steady s with spineAwake := false }) ∨
      (s.bsn.sliceAwake ≠ 0 ∧ ∃ slices, steady (after s (exec (.sleepEntry d) s)) = { steady s with sliceAwake := slices }) := by
  change steady (after s (execSleepEntry d s)) = _ ∨ (_ ∧ steady (after s (execSleepEntry d s)) = _) ∨
    (_ ∧ ∃ slices, steady (after s (execSleepEntry d s)) = _)
  unfold execSleepEntry
  dsimp only
  split
  · exact .inl rfl
  split
  · split
    next h =>
      have hslices : s.bsn.sliceAwake = 0 := by
        simp only [spineIdle, Bool.and_eq_true] at h
        simp_all
      exact .inr (.inl ⟨hslices, rfl⟩)
    · exact .inl rfl
  split
  next h =>
    have hslices : s.bsn.sliceAwake ≠ 0 := by
      intro h0
      simp [h0] at h
    exact .inr (.inr ⟨hslices, _, rfl⟩)
  · exact .inl rfl

end

/-! ## A slice is awake only while the spine is (R14 to R17) -/

/-- The invariant of the domains, of the steady part. -/
def DomainsOk (x : Steady) : Prop := x.sliceAwake ≠ 0 → x.spineAwake = true

theorem domainInv_iff (s : State) : DomainInv s ↔ DomainsOk (steady s) := Iff.rfl

theorem domainsOk_exec {s : State} (h : DomainInv s) (i : Instr) : DomainsOk (steady (after s (exec i s))) := by
  have hs : DomainsOk (steady s) := h
  have hasleep : ∀ x : Steady, x.sliceAwake = 0 → DomainsOk x := fun _ h0 hne => absurd h0 hne
  by_cases hm : MovesSteady i
  · cases hm with
    | powerOnReset => exact hasleep _ rfl
    | blockReset =>
      rw [steady_blockReset_row]
      split
      · exact hs
      · exact hasleep _ rfl
    | unitReset q =>
      rcases steady_unitReset_row s q with e | e <;> rw [e]
      · exact hs
      · exact hasleep _ rfl
    | authResult =>
      obtain ⟨opened, e⟩ := steady_authResult_row s
      rw [e]; exact hs
    | stage0 fuses =>
      rcases steady_stage0_row s fuses with e | ⟨words, e⟩ <;> rw [e]
      · exact hs
      · exact fun _ => rfl
    | stage2 sramOk =>
      obtain ⟨digest, e⟩ := steady_stage2_row s sramOk
      rw [e]; exact hs
    | domainWake d m =>
      rcases steady_domainWake_row s d m with e | ⟨slices, e⟩ <;> rw [e]
      · exact hs
      · exact fun _ => rfl
    | sleepEntry d =>
      rcases steady_sleepEntry_row s d with e | ⟨h0, e⟩ | ⟨h0, slices, e⟩ <;> rw [e]
      · exact hs
      · exact fun hne => absurd h0 hne
      · exact fun _ => h h0
  · rw [steady_exec s i hm]; exact hs

theorem domainInv_tick {s : State} (h : DomainInv s) : DomainInv (tick s) := by
  unfold tick
  split <;> exact h

/-! ## What every command leaves alone -/

theorem steady_of_exec {i : Instr} {s t : State} (h : exec i s = .next t) : steady t = steady (after s (exec i s)) := by
  rw [h, after_next]

/-- The queue of commands and the time are those of s, and the fuse words too but for stage 0. -/
def Lasts (s : State) (i : Instr) (x : Steady) : Prop :=
  x.pending = s.pending ∧ x.timebase = s.timebase ∧ ((∀ f, i ≠ .stage0 f) → x.fuses = s.swb.fuses)

theorem lasts_exec {s : State} {i : Instr} (hi : i ≠ .powerOnReset) : Lasts s i (steady (after s (exec i s))) := by
  have hs : Lasts s i (steady s) := ⟨rfl, rfl, fun _ => rfl⟩
  by_cases hm : MovesSteady i
  · cases hm with
    | powerOnReset => exact absurd rfl hi
    | blockReset => rw [steady_blockReset_row]; split <;> exact hs
    | unitReset q => rcases steady_unitReset_row s q with e | e <;> rw [e] <;> exact hs
    | authResult => obtain ⟨opened, e⟩ := steady_authResult_row s; rw [e]; exact hs
    | stage0 fuses =>
      rcases steady_stage0_row s fuses with e | ⟨words, e⟩ <;> rw [e]
      · exact hs
      · exact ⟨rfl, rfl, fun hf => absurd rfl (hf fuses)⟩
    | stage2 sramOk => obtain ⟨digest, e⟩ := steady_stage2_row s sramOk; rw [e]; exact hs
    | domainWake d m => rcases steady_domainWake_row s d m with e | ⟨slices, e⟩ <;> rw [e] <;> exact hs
    | sleepEntry d => rcases steady_sleepEntry_row s d with e | ⟨-, e⟩ | ⟨-, slices, e⟩ <;> rw [e] <;> exact hs
  · rw [steady_exec s i hm]; exact hs

/-- The assertion of rst_por_n keeps the queue of commands (the model's own, log 1). -/
theorem pending_powerOnReset (s : State) : (steady (after s (exec .powerOnReset s))).pending = s.pending := rfl

end Sys2Proof.Machine

open Sys2Proof Sys2Proof.Machine

/-- Settles O5: a command keeps the awake domains but for the resets, after which none is awake, stage 0 and the wakes,
after which the spine is awake, and the sleeps, of which the spine's comes behind every slice's. -/
theorem domainsKept : Obligations.DomainsKept := by
  unfold Obligations.DomainsKept
  intro s t h hstep
  unfold step at hstep
  split at hstep
  · cases hstep; exact domainInv_tick h
  next c rest hpending =>
    rw [domainInv_iff, steady_of_exec hstep]
    exact domainsOk_exec (s := { s with pending := rest }) h c

/-- Settles O7: the commands that may change the steady part, one by one; every other command keeps it whole. -/
theorem whatCommandsKeep : Obligations.WhatCommandsKeep := by
  unfold Obligations.WhatCommandsKeep
  intro i s t h
  have hsteady := steady_of_exec h
  refine ⟨?_, fun hi => ?_, fun hi hf => ?_, fun hpor hblk hunit hauth h0 h2 hwake hsleep => ?_⟩
  · change (steady t).pending = _
    rw [hsteady]
    by_cases hi : i = .powerOnReset
    · subst hi; exact pending_powerOnReset s
    · exact (lasts_exec hi).1
  · change (steady t).timebase = _
    rw [hsteady]; exact (lasts_exec hi).2.1
  · change (steady t).fuses = _
    rw [hsteady]; exact (lasts_exec hi).2.2 hf
  · rw [hsteady]
    refine steady_exec s i fun hm => ?_
    cases hm with
    | powerOnReset => exact hpor rfl
    | blockReset => exact hblk rfl
    | unitReset q => exact hunit q rfl
    | authResult => exact hauth rfl
    | stage0 fuses => exact h0 fuses rfl
    | stage2 sramOk => exact h2 sramOk rfl
    | domainWake d m => exact hwake d m rfl
    | sleepEntry d => exact hsleep d rfl
end

section
/-! Resets, wakes and sleeps of domains (R14 to R18, R29, R406): the rows' cases, and the obligation ResetsAndDomains. -/

namespace Sys2Proof.Machine

variable {s : State}

/-! ## Resets -/

theorem exec_blockReset_of_powered (h : s.bsn.porAsserted = false) : exec .blockReset s = .next (blockReset s) :=
  if_neg (by simp [h])

theorem exec_powerOnResetRelease_last (hpor : s.bsn.porAsserted = true) (hblk : s.bsn.blkAsserted = false) :
    exec .powerOnResetRelease s = .next (startBoot { s with bsn := { s.bsn with porAsserted := false } } false) := by
  change execPowerOnResetRelease s = _
  simp [execPowerOnResetRelease, hpor, hblk]

theorem exec_blockResetRelease_last (hblk : s.bsn.blkAsserted = true) (hpor : s.bsn.porAsserted = false) :
    exec .blockResetRelease s = .next (startBoot { s with bsn := { s.bsn with blkAsserted := false } } true) := by
  change execBlockResetRelease s = _
  simp [execBlockResetRelease, hpor, hblk]

/-! ## Wakes -/

/-- Domain 8 is the spine. -/
theorem spine_val : (8 : Fin 9).val = 8 := rfl

theorem exec_domainWake_spine (m : MemView) (hlive : inReset s = false) (hwaking : s.bsn.spineWaking = true) :
    exec (.domainWake 8 m) s = .next (deliverAll m s.bsn.held []
      { s with bsn := { s.bsn with spineAwake := true, spineWaking := false, held := [] } }) := by
  change execDomainWake 8 m s = _
  simp [execDomainWake, deliverHeld, spine_val, hlive, hwaking]

/-- The state in which slice k has woken. -/
def sliceWoken (s : State) (k : Nat) : State :=
  { s with bsn := { s.bsn with sliceAwake := s.bsn.sliceAwake ||| BitVec.ofNat 8 (2 ^ k),
                               sliceWaking := s.bsn.sliceWaking &&& ~~~(BitVec.ofNat 8 (2 ^ k)) } }

/-- A slice that wakes with no access held. -/
theorem exec_domainWake_slice {k : Fin 9} (m : MemView) (hk : k.val < 8) (hlive : inReset s = false)
    (hwaking : s.bsn.sliceWaking.getLsbD k.val = true) (hspine : s.bsn.spineAwake = true) (hheld : s.bsn.held = []) :
    exec (.domainWake k m) s = .next (pumpSlice (sliceWoken s k.val) k.val) := by
  have h8 : k.val ≠ 8 := by omega
  change execDomainWake k m s = _
  simp [execDomainWake, deliverHeld, deliverAll, sliceWoken, h8, hlive, hwaking, hspine, hheld]

/-! ## Sleeps -/

/-- The state in which slice k sleeps. -/
def sliceAsleep (s : State) (k : Nat) : State :=
  { s with bsn := { s.bsn with sliceAwake := s.bsn.sliceAwake &&& ~~~(BitVec.ofNat 8 (2 ^ k)) } }

theorem exec_sleepEntry_slice {k : Fin 9} (hk : k.val < 8) (hboot : s.swb.boot = .ready)
    (hawake : s.bsn.sliceAwake.getLsbD k.val = true) (hidle : sliceIdle s k.val = true) :
    exec (.sleepEntry k) s = .next (sliceAsleep s k.val) := by
  have h8 : k.val ≠ 8 := by omega
  change execSleepEntry k s = _
  simp [execSleepEntry, sliceAsleep, h8, hboot, hawake, hidle]

theorem exec_sleepEntry_spine (hboot : s.swb.boot = .ready) (hawake : s.bsn.spineAwake = true) (hidle : spineIdle s = true) :
    exec (.sleepEntry 8) s = .next { s with bsn := { s.bsn with spineAwake := false } } := by
  change execSleepEntry 8 s = _
  simp [execSleepEntry, spine_val, hboot, hawake, hidle]

theorem exec_sleepEntry_spine_busy (hbusy : spineIdle s = false) : exec (.sleepEntry 8) s = .next s := by
  change execSleepEntry 8 s = _
  simp [execSleepEntry, spine_val, hbusy]

/-- The spine has work while a slice is awake or its hold set holds a bit. -/
theorem spineIdle_eq_false (h : s.bsn.sliceAwake ≠ 0 ∨ s.per.hold ≠ []) : spineIdle s = false := by
  refine Bool.eq_false_iff.mpr fun hidle => ?_
  simp only [spineIdle, Bool.and_eq_true, beq_iff_eq, List.isEmpty_iff] at hidle
  simp_all

/-- Bit k of a domain mask is bit k alone. -/
theorem getLsbD_domainBit {k i : Nat} (hi : i < 8) : (BitVec.ofNat 8 (2 ^ k)).getLsbD i = decide (i = k) := by
  rw [BitVec.getLsbD_ofNat, Nat.testBit_two_pow, decide_eq_true hi, Bool.true_and]
  exact decide_eq_decide.mpr eq_comm

theorem sliceAsleep_bit {k i : Nat} (hi : i < 8) :
    (sliceAsleep s k).bsn.sliceAwake.getLsbD i = (s.bsn.sliceAwake.getLsbD i && !decide (i = k)) := by
  change (s.bsn.sliceAwake &&& ~~~(BitVec.ofNat 8 (2 ^ k))).getLsbD i = _
  rw [BitVec.getLsbD_and, BitVec.getLsbD_not, getLsbD_domainBit hi, decide_eq_true hi, Bool.true_and]

end Sys2Proof.Machine

open Sys2Proof Sys2Proof.Machine

/-- Settles O3, clause by clause: the resets and their releases, the wakes and the sleeps. -/
theorem resetsAndDomains : Obligations.ResetsAndDomains := by
  unfold Obligations.ResetsAndDomains
  intro s
  refine ⟨rfl, fun hpor => ⟨_, exec_blockReset_of_powered hpor, rfl, rfl, rfl, rfl, rfl, rfl, rfl, rfl, rfl, rfl, rfl⟩,
    exec_powerOnResetRelease_last, exec_blockResetRelease_last, fun hpor => if_neg (by simp [hpor]),
    fun hblk => if_neg (by simp [hblk]), fun m => exec_domainWake_spine m, fun k m hk hlive hwaking hspine hheld => ?_,
    fun k hk hboot hawake hidle => ?_, exec_sleepEntry_spine, fun h => exec_sleepEntry_spine_busy (spineIdle_eq_false h)⟩
  · exact ⟨_, exec_domainWake_slice m hk hlive hwaking hspine hheld, rfl, rfl⟩
  · refine ⟨_, exec_sleepEntry_slice hk hboot hawake hidle, ?_, fun i hi hne => ?_, rfl⟩
    · simp [sliceAsleep_bit hk]
    · simp [sliceAsleep_bit hi, hne]
end

section
/-! The common registers of a page (R401 to R405, Table 16.2): what an operator's write of each comes to, on an unlocked and on
a locked page, and the obligation CommonRegisterWrites. -/

namespace Sys2Proof.Machine

/-! ## The 32 bits of a write -/

theorem hasBit_low {i : Nat} (hi : i < 32) (d : Word) : hasBit i (fld d 31 0) = d.getLsbD i := by
  change (d.toNat >>> 0 % 2 ^ 32).testBit i = d.getLsbD i
  rw [Nat.shiftRight_zero, Nat.testBit_mod_two_pow, BitVec.testBit_toNat, decide_eq_true hi, Bool.true_and]

theorem getLsbD_low {i : Nat} (hi : i < 32) (d : Word) : (d.setWidth 32).getLsbD i = d.getLsbD i := by
  simp [hi]

/-! ## A common register -/

section
variable {s : State} {h : HostReq} {p off : Nat} {d : Word}

theorem pageOfWrite_operator {wide : Bool} (w : OperatorWrites s h p off wide) : pageOfWrite (.host h d) = p := by
  obtain ⟨haddr, hoff, -⟩ := w.place
  change (h.addr.toNat - 0x1000000) / 4096 = p
  omega

/-- A row of a common register is the write of that register, and OKAY. -/
theorem writeRow_common (w : OperatorWrites s h p off false) (hoff : off < 0x100) {ok : Nat → Bool} (hok : ok (fld d 31 0) = true) :
    writeRow s (.host h d) (pageOfWrite (.host h d)) off ok [] =
      .next (emit (putCommon s .operator p off (BitVec.ofNat 64 (fld d 31 0))) (.hostResp h.id 0)) := by
  rw [pageOfWrite_operator w, writeRow_operator w d ok hok, putReg, if_pos hoff]

theorem writesCommon_operator (hp : p ≠ pgMGT) : writesCommon .operator p = true := by simp [writesCommon, hp, opDbg, opView]

theorem lockedFor_operator : lockedFor s .operator p = (s.page p).lock := rfl

end

/-! ## Unlocked and locked pages -/

section
variable {s : State} {p : Nat} {d : Word}

/-- What the operator's write of a common register does on a page other than MGT. -/
theorem putCommon_operator (hp : p ≠ pgMGT) (off : Nat) :
    putCommon s .operator p off (BitVec.ofNat 64 (fld d 31 0)) =
      (let pg := s.page p
       if off = 0x008 then
         if pg.lock || !(d.getLsbD 0) then s else s.setPage p { pg with cnt := List.replicate 8 0 }
       else if off = 0x010 then s.setPage p { pg with irqStatus := pg.irqStatus &&& ~~~(d.setWidth 32) }
       else if off = 0x014 then
         if pg.lock then s
         else irqEdge pg { pg with irqEnable := d.setWidth 32 } (s.setPage p { pg with irqEnable := d.setWidth 32 }) p
       else if off = 0x018 then if pg.lock then s else raiseIrq s p (d.setWidth 32)
       else if off = 0x01C then s.setPage p { pg with errStatus := pg.errStatus &&& ~~~(d.setWidth 32) }
       else if off = 0x028 then
         if pg.lock then s
         else if d.getLsbD 31 then s.setPage p { pg with inject := some true }
         else if d.getLsbD 30 then s.setPage p { pg with inject := some false }
         else s
       else if off = 0x030 then if d.getLsbD 0 then s.setPage p { pg with lock := true } else s
       else s) := by
  have hbit : ∀ {i}, i < 32 → (d.setWidth 32).getLsbD i = d.getLsbD i := fun hi => getLsbD_low hi d
  unfold putCommon
  dsimp only
  rw [low32, writesCommon_operator hp, lockedFor_operator, hbit (i := 0) (by decide), hbit (i := 30) (by decide),
    hbit (i := 31) (by decide)]
  rfl

/-- A locked page keeps its counters, its interrupts and its injection against the operator (R405). -/
theorem putCommon_locked (hlock : (s.page p).lock = true) {off : Nat} (hoff : off ∈ [0x008, 0x018, 0x028]) (w : Word) :
    putCommon s .operator p off w = s := by
  unfold putCommon
  simp only [List.mem_cons, List.not_mem_nil, or_false] at hoff
  rcases hoff with rfl | rfl | rfl <;> simp [lockedFor_operator, hlock]

end

end Sys2Proof.Machine

open Sys2Proof Sys2Proof.Machine

/-- Settles O8: each row is the write of its common register, by the register on an unlocked page and without effect on a
locked one. -/
theorem commonRegisterWrites : Obligations.CommonRegisterWrites := by
  unfold Obligations.CommonRegisterWrites
  refine ⟨fun s h d p hp => ⟨fun w hlock h0 => ?_, fun w hlock => ?_, fun w => ?_, fun w hlock h31 => ?_,
    fun w hlock h30 h31 => ?_, fun w h0 => ?_⟩, fun s h d p hlock => ⟨fun w h0 => ?_, fun w => ?_, fun w h31 => ?_, fun w h30 => ?_⟩⟩
  · rw [show exec (.clearCounters (.host h d)) s = _ from writeRow_common w (by decide) ((hasBit_low (by decide) d).trans h0),
      putCommon_operator hp]
    simp only [hlock, h0]
    rfl
  · rw [show exec (.irqForce (.host h d)) s = _ from writeRow_common w (by decide) rfl, putCommon_operator hp]
    simp only [hlock]
    rfl
  · rw [show exec (.irqStatusClear (.host h d)) s = _ from writeRow_common w (by decide) rfl, putCommon_operator hp]
    rfl
  · rw [show exec (.injectUe (.host h d)) s = _ from writeRow_common w (by decide) ((hasBit_low (by decide) d).trans h31),
      putCommon_operator hp]
    simp only [hlock, h31]
    rfl
  · rw [show exec (.injectCe (.host h d)) s = _ from writeRow_common w (by decide) ((hasBit_low (by decide) d).trans h30),
      putCommon_operator hp]
    simp only [hlock, h30, h31]
    rfl
  · rw [show exec (.pageLock (.host h d)) s = _ from writeRow_common w (by decide) ((hasBit_low (by decide) d).trans h0),
      putCommon_operator hp]
    simp only [h0]
    rfl
  · rw [show exec (.clearCounters (.host h d)) s = _ from writeRow_common w (by decide) ((hasBit_low (by decide) d).trans h0),
      putCommon_locked hlock (by decide)]
  · rw [show exec (.irqForce (.host h d)) s = _ from writeRow_common w (by decide) rfl, putCommon_locked hlock (by decide)]
  · rw [show exec (.injectUe (.host h d)) s = _ from writeRow_common w (by decide) ((hasBit_low (by decide) d).trans h31),
      putCommon_locked hlock (by decide)]
  · rw [show exec (.injectCe (.host h d)) s = _ from writeRow_common w (by decide) ((hasBit_low (by decide) d).trans h30),
      putCommon_locked hlock (by decide)]
end

section
/-! Queues move (R108, R109, R111, R113, Table 4.9): the read of a producer index, the writes of STP_Q_CTRL, and the obligation
QueueControlWrites. -/

namespace Sys2Proof.Machine

/-! ## The bits of a 4-byte write -/

theorem bitAt_low {i : Nat} (hi : i < 32) (d : Word) : bitAt (BitVec.ofNat 64 (fld d 31 0)) i = d.getLsbD i := by
  have hlt : fld d 31 0 < 2 ^ 64 := by
    have : fld d 31 0 < 2 ^ 32 := Nat.mod_lt _ (by decide)
    omega
  rw [bitAt, BitVec.toNat_ofNat, Nat.mod_eq_of_lt hlt]
  exact hasBit_low hi d

/-! ## What an access of a queue depends on -/

section
variable {s : State} {q : Nat}

/-- A queue's accesses go where its class and its owner say. -/
theorem qPieces_setQueue {r : Queue} (hcls : r.cls = (s.queue q).cls) (howner : r.owner = (s.queue q).owner) (va n : Nat)
    (write : Bool) : qPieces (s.setQueue q r) q va n write = qPieces s q va n write := by
  simp [qPieces, hcls, howner]

theorem mayRead_iff : mayRead s q = true ↔
    s.halted = false ∧ sliceUp s (s.queue q).home = true ∧ (s.slice (s.queue q).home).paused = false := by
  simp [mayRead, and_assoc]

/-- From s to t queue q's producer index has been asked for: the read has left on the home slice's port. -/
structure PiAsked (s t : State) (q : Nat) (ps : List (Nat × Nat × Nat)) : Prop where
  queue : t.queue q = { s.queue q with pend := false, pollHeld := false,
                                       piRead := if (s.queue q).freshDue then .fresh else .plain }
  others : ∀ k, k ≠ q → t.queue k = s.queue k
  out : t.out = s.out ++ readsOf s (s.queue q).home ps
  flights : t.flights = s.flights ++ [⟨(s.queue q).home, .queue q .piRead, readsOf s (s.queue q).home ps, true⟩]
  rest : { t with queues := s.queues, out := s.out, flights := s.flights, pages := s.pages } = s

theorem issuePi_asks {ps : List (Nat × Nat × Nat)} (hps : qPieces s q (idxVa (s.queue q)) 8 false = .ok ps)
    (hroom : portRoom s (s.queue q).home = true) : PiAsked s (issuePi s q) q ps := by
  unfold issuePi
  simp only [hps, portQ]
  cases (s.queue q).pollHeld
  · simp only [Bool.false_eq_true, if_false]
    rw [issue_of_room]
    · exact ⟨by simp [State.queue, State.setQueue], fun k hk => by simp [State.queue, State.setQueue, hk], by simp, by simp, by cases s; rfl⟩
    · exact hroom
  · simp only [if_true]
    rw [issue_of_room]
    · exact ⟨by simp [State.queue, State.setQueue], fun k hk => by simp [State.queue, State.setQueue, hk], by simp, by simp,
        by cases s; rfl⟩
    · exact hroom

/-- A queue that may read and owes a fresh read, or a poll's, reads its producer index. -/
theorem pump_reads (hst : (s.queue q).st = .enabled) (hhold : (s.queue q).hold = false) (hfetched : (s.queue q).fetched = false)
    (hread : (s.queue q).piRead = .none) (hmay : mayRead s q = true)
    (hwant : (s.queue q).freshDue = true ∨ (s.queue q).pollHeld = true) : pump s q = issuePi s q := by
  obtain ⟨hlive, hup, hpaused⟩ := mayRead_iff.mp hmay
  have hw : ((s.queue q).freshDue || (s.queue q).pollHeld) = true := by simpa using hwant
  simp [pump, wantsRead, hst, hhold, hfetched, hread, hlive, hup, hpaused, hw]

/-- A queue with an entry fetched, or in HOLD, reads nothing. -/
theorem pump_of_busy (h : (s.queue q).fetched = true ∨ (s.queue q).hold = true) : pump s q = s := by
  rcases h with h | h <;> simp [pump, h]

end

/-! ## STP_Q_CTRL -/

section
variable {s : State} {h : HostReq} {d : Word} {q : Nat}

/-- A row of STP_Q_CTRL is the control of the queue that STP_Q_SEL names, and OKAY. -/
theorem writeRow_queueCtrl (w : OperatorWrites s h pgSTP 0x104 false) (hlock : (s.page pgSTP).lock = false)
    (hq : q = selOf s .operator pgSTP 0x100) (hsec : q ≠ 0x3FFFF) {ok : Nat → Bool} (hok : ok (fld d 31 0) = true) :
    writeRow s (.host h d) pgSTP 0x104 ok [] =
      .next (emit (putQueueCtrl s .operator q (BitVec.ofNat 64 (fld d 31 0))) (.hostResp h.id 0)) := by
  have hsees : seesQueue s .operator q = true := by simpa [seesQueue, secQ] using hsec
  have hput : ∀ x : Word, putReg s .operator pgSTP 0x104 x 0x00000000FFFFFFFF true [] = putSTP s .operator 0x104 x := fun _ => rfl
  rw [writeRow_operator w d ok hok, hput]
  unfold putSTP
  simp [lockedFor_operator, hlock, ← hq, hsees]

/-- WARM of queue q as written. -/
def warmed (s : State) (q : Nat) (b : Bool) : State := s.setQueue q { s.queue q with warm := b }

/-- STP_Q_CTRL of a queue that is not FREE: WARM, then HOLD and ENABLE as written. -/
theorem putQueueCtrl_operator (hst : (s.queue q).st ≠ .free) :
    putQueueCtrl s .operator q (BitVec.ofNat 64 (fld d 31 0)) =
      (let s1 := warmed s q (d.getLsbD 2)
       let s2 := if d.getLsbD 1 then queueHold s1 q true else s1
       let s3 := if d.getLsbD 0 then queueEnable s2 q else queueDisable s2 q
       let began := (s.queue q).st == .disabled && !(s.queue q).hold && (s3.queue q).st == .enabled
       if d.getLsbD 1 || began then s3 else queueHold s3 q false) := by
  unfold putQueueCtrl
  rw [if_neg hst, bitAt_low (i := 0) (by decide), bitAt_low (i := 1) (by decide), bitAt_low (i := 2) (by decide)]
  rfl

/-- HOLD written 1. -/
theorem putQueueCtrl_hold (h1 : d.getLsbD 1 = true) (hst : (s.queue q).st ≠ .free) :
    putQueueCtrl s .operator q (BitVec.ofNat 64 (fld d 31 0)) =
      if d.getLsbD 0 then queueEnable (queueHold (warmed s q (d.getLsbD 2)) q true) q
      else queueDisable (queueHold (warmed s q (d.getLsbD 2)) q true) q := by
  rw [putQueueCtrl_operator hst, h1]
  rfl

/-- HOLD written 0, where ENABLE does not begin the queue. -/
theorem putQueueCtrl_release {s3 : State} (h1 : d.getLsbD 1 = false) (hst : (s.queue q).st ≠ .free)
    (hs3 : (if d.getLsbD 0 then queueEnable (warmed s q (d.getLsbD 2)) q else queueDisable (warmed s q (d.getLsbD 2)) q) = s3)
    (hbegan : (s.queue q).st = .disabled → (s3.queue q).st ≠ .enabled) :
    putQueueCtrl s .operator q (BitVec.ofNat 64 (fld d 31 0)) = queueHold s3 q false := by
  have hb : ((s.queue q).st == .disabled && !(s.queue q).hold && (s3.queue q).st == .enabled) = false := by
    by_cases hd : (s.queue q).st = .disabled
    · simp [hbegan hd]
    · simp [hd]
  rw [putQueueCtrl_operator hst, h1]
  simp only [Bool.false_eq_true, if_false, hs3, hb, Bool.or_self]

theorem queueHold_set (hst : (s.queue q).st ≠ .free) :
    queueHold s q true = count (s.setQueue q { s.queue q with hold := true, pollHeld := false }) pgSTP 5 := by
  simp [queueHold, hst]

theorem queueHold_clear_enabled (hst : (s.queue q).st = .enabled) :
    queueHold s q false = pump (s.setQueue q { oweFresh (s.queue q) with hold := false }) q := by
  simp [queueHold, hst]

theorem queueHold_clear_other (hst : (s.queue q).st = .disabled ∨ (s.queue q).st = .disabling) :
    queueHold s q false = s.setQueue q { s.queue q with hold := false } := by
  rcases hst with hst | hst <;> simp [queueHold, hst]

theorem queueEnable_disabled (hst : (s.queue q).st = .disabled) (hctx : (s.ctx (s.queue q).owner).st = .active) :
    queueEnable s q = pump (s.setQueue q { oweFresh (s.queue q) with st := .enabled }) q := by
  simp [queueEnable, hst, hctx]

theorem queueEnable_enabled (hst : (s.queue q).st = .enabled) : queueEnable s q = s := by
  simp [queueEnable, hst]

theorem queueDisable_enabled (hst : (s.queue q).st = .enabled) (hcls : (s.queue q).cls ≠ 2) : queueDisable s q =
    s.setQueue q { s.queue q with st := if (s.queue q).fetched then .disabling else .disabled, pollHeld := false } := by
  simp [queueDisable, hst, hcls]

theorem queueDisable_disabled (hst : (s.queue q).st = .disabled) : queueDisable s q = s := by simp [queueDisable, hst]

/-- ENABLE of a DISABLED queue that is not in HOLD reads the producer index, and nothing else follows (R109). -/
theorem putQueueCtrl_enable {ps : List (Nat × Nat × Nat)} (h0 : d.getLsbD 0 = true) (h1 : d.getLsbD 1 = false)
    (hst : (s.queue q).st = .disabled) (hhold : (s.queue q).hold = false) (hfetched : (s.queue q).fetched = false)
    (hread : (s.queue q).piRead = .none) (hctx : (s.ctx (s.queue q).owner).st = .active) (hmay : mayRead s q = true)
    (hroom : portRoom s (s.queue q).home = true) (hps : qPieces s q (idxVa (s.queue q)) 8 false = .ok ps) :
    let s1 := s.setQueue q { s.queue q with warm := d.getLsbD 2 }
    PiAsked (s1.setQueue q { oweFresh (s1.queue q) with st := .enabled })
      (putQueueCtrl s .operator q (BitVec.ofNat 64 (fld d 31 0))) q ps := by
  intro s1
  have hr1 : s1.queue q = { s.queue q with warm := d.getLsbD 2 } := by simp [s1]
  have henable := queueEnable_disabled (s := s1) (q := q) (by rw [hr1]; exact hst) (by rw [hr1]; exact hctx)
  generalize hs2 : s1.setQueue q { oweFresh (s1.queue q) with st := .enabled } = s2 at henable ⊢
  have hr2 : s2.queue q = { oweFresh { s.queue q with warm := d.getLsbD 2 } with st := .enabled } := by
    rw [← hs2, ← hr1]; simp
  have hpump : pump s2 q = issuePi s2 q := by
    obtain ⟨hlive, hup, hpaused⟩ := mayRead_iff.mp hmay
    refine pump_reads (by rw [hr2]) (by rw [hr2]; exact hhold) (by rw [hr2]; exact hfetched) ?_
      (mayRead_iff.mpr ⟨by rw [← hs2]; exact hlive, ?_, ?_⟩) (.inl (by rw [hr2]; rfl))
    · rw [hr2]; simp [oweFresh, hread]
    · rw [hr2, ← hs2]; exact hup
    · rw [hr2, ← hs2]; exact hpaused
  have hpieces : qPieces s2 q (idxVa (s2.queue q)) 8 false = .ok ps := by
    rw [hr2, ← hs2, qPieces_setQueue (by rfl) (by rfl)]
    exact (qPieces_setQueue (by rfl) (by rfl) ..).trans hps
  have hasks := issuePi_asks hpieces (by rw [hr2, ← hs2]; exact hroom)
  have hend : putQueueCtrl s .operator q (BitVec.ofNat 64 (fld d 31 0)) = issuePi s2 q := by
    have hafter : ((issuePi s2 q).queue q).st = .enabled := by rw [hasks.queue, hr2]
    rw [putQueueCtrl_operator (by simp [hst])]
    simp only [h0, h1]
    change (if (false || ((s.queue q).st == .disabled && !(s.queue q).hold && ((queueEnable s1 q).queue q).st == .enabled)) = true
      then queueEnable s1 q else queueHold (queueEnable s1 q) q false) = _
    rw [henable, hpump, hst, hhold, hafter]
    rfl
  rw [hend]
  exact hasks

end

end Sys2Proof.Machine

open Sys2Proof Sys2Proof.Machine

/-- Settles O11: the control's parts in their order, WARM, HOLD and ENABLE, by what is written and the queue's state. -/
theorem queueControlWrites : Obligations.QueueControlWrites := by
  unfold Obligations.QueueControlWrites
  intro s h d q w hlock hq hsec
  have hzero : ∀ i, i < 32 → d.getLsbD i = false → (!(fld d 31 0).testBit i) = true := fun i hi hd => by
    rw [← hasBit, hasBit_low hi, hd]; rfl
  refine ⟨fun ps h0 h1 hst hhold hfetched hread hctx hmay hroom hps => ?_, fun h0 h1 hst hcls hhold => ?_,
    fun h0 h1 hst => ?_, fun h0 h1 hst hfetched => ?_, fun h0 h1 hst => ?_⟩
  · obtain ⟨hqueue, hothers, hout, hflights, hrest⟩ := putQueueCtrl_enable h0 h1 hst hhold hfetched hread hctx hmay hroom hps
    refine ⟨_, writeRow_queueCtrl w hlock hq hsec ((hasBit_low (by decide) d).trans h0), ?_, ?_, fun k hk => ?_, ?_, ?_, ?_⟩
    · rw [queue_emit, hqueue]; simp [oweFresh]
    · rw [out_emit, hout]; simp [oweFresh, readsOf, hostVisible]
    · rw [queue_emit, hothers k hk]; simp [hk]
    · rw [flights_emit, hflights]; simp [oweFresh, readsOf, hostVisible]
    · have hjobs := congrArg State.jobs hrest
      exact hjobs
    · have hwsh := congrArg State.wsh hrest
      exact hwsh
  · have hdisable : (if d.getLsbD 0 then queueEnable (warmed s q (d.getLsbD 2)) q else queueDisable (warmed s q (d.getLsbD 2)) q) =
        _ := (if_neg (h0 ▸ Bool.false_ne_true)).trans (queueDisable_enabled (by simpa [warmed] using hst) (by simpa [warmed] using hcls))
    refine ⟨_, writeRow_queueCtrl w hlock hq hsec (hzero 0 (by decide) h0), ?_⟩
    rw [putQueueCtrl_release h1 (by simp [hst]) hdisable (by simp [hst]),
      queueHold_clear_other (by cases hf : (s.queue q).fetched <;> simp [warmed, hf])]
    exact ⟨by simp [warmed, hhold], by simp [warmed], by cases s; rfl, fun k hk => by simp [warmed, hk]⟩
  · refine ⟨_, writeRow_queueCtrl w hlock hq hsec ((hasBit_low (by decide) d).trans h1), ?_⟩
    rw [putQueueCtrl_hold h1 (by simp [hst]), h0, if_pos rfl, queueHold_set (by simp [warmed, hst]),
      queueEnable_enabled (by simp [warmed, hst])]
    exact ⟨by simp [warmed], by simp [warmed], by cases s; rfl, fun k hk => by simp [warmed, hk]⟩
  · have henable : (if d.getLsbD 0 then queueEnable (warmed s q (d.getLsbD 2)) q else queueDisable (warmed s q (d.getLsbD 2)) q) =
        _ := (if_pos h0).trans (queueEnable_enabled (by simpa [warmed] using hst))
    refine ⟨_, writeRow_queueCtrl w hlock hq hsec (hzero 1 (by decide) h1), ?_⟩
    rw [putQueueCtrl_release h1 (by simp [hst]) henable (by simp [hst]), queueHold_clear_enabled (by simpa [warmed] using hst),
      pump_of_busy (.inl (by simpa [warmed, oweFresh] using hfetched))]
    exact ⟨by simp [warmed, oweFresh], by simp [warmed], by cases s; rfl, fun k hk => by simp [warmed, hk]⟩
  · have hdisable : (if d.getLsbD 0 then queueEnable (warmed s q (d.getLsbD 2)) q else queueDisable (warmed s q (d.getLsbD 2)) q) =
        _ := (if_neg (h0 ▸ Bool.false_ne_true)).trans (queueDisable_disabled (by simpa [warmed] using hst))
    refine ⟨_, writeRow_queueCtrl w hlock hq hsec rfl, ?_⟩
    rw [putQueueCtrl_release h1 (by simp [hst]) hdisable (by simp [warmed, hst]), queueHold_clear_other (.inl (by simpa [warmed] using hst))]
    exact ⟨by simp [warmed], by simp [warmed], by cases s; rfl, fun k hk => by simp [warmed, hk]⟩
end

section
/-! Owners and shares (R169, R189, R200, R270, R281): the writes that change the owner of a quiet barrier channel or Fan, the
pacing base and a scratchpad share, and the obligation OwnerAndShareWrites. -/

namespace Sys2Proof.Machine

/-! ## The fields of the words -/

/-- A field of the low half of a write that carries 32 bits. -/
theorem fld_low {hi lo : Nat} (h : hi < 32) (hlo : lo ≤ hi) (d : Word) : fld (BitVec.ofNat 64 (fld d 31 0)) hi lo = fld d hi lo := by
  have hlt : fld d 31 0 < 2 ^ 64 := by
    have : fld d 31 0 < 2 ^ 32 := Nat.mod_lt _ (by decide)
    omega
  have hself : ∀ w : Word, fld w hi lo = w.toNat / 2 ^ lo % 2 ^ (hi + 1 - lo) := fun w => by
    rw [fld, bitsN, Nat.shiftRight_eq_div_pow]
  rw [hself, hself, BitVec.toNat_ofNat, Nat.mod_eq_of_lt hlt]
  refine Nat.eq_of_testBit_eq fun i => ?_
  simp only [Nat.testBit_mod_two_pow, Nat.testBit_div_two_pow]
  by_cases hi' : i < hi + 1 - lo
  · have hbit := hasBit_low (i := i + lo) (by omega) d
    rw [hasBit] at hbit
    rw [hbit, BitVec.testBit_toNat]
  · simp [hi']

/-! ## No job waits -/

section
variable {s : State} (hjobs : s.jobs = [])
include hjobs

theorem wakeArms_of_no_jobs (c : Nat) : wakeArms s c = s := by simp [wakeArms, hjobs]

theorem wakeFan_of_no_jobs (f : Nat) : wakeFan s f = s := by simp [wakeFan, fanWaiters, hjobs]

theorem sealGo_of_no_jobs (p : Nat) : sealGo s p = s := by simp [sealGo, State.job, hjobs, tget]

end

@[simp] theorem ownerOf_setBarrier (s : State) (c p : Nat) (x : Chan) : ownerOf (s.setBarrier c x) p = ownerOf s p := rfl
@[simp] theorem ownerOf_setFan (s : State) (n p : Nat) (x : Fan) : ownerOf (s.setFan n x) p = ownerOf s p := rfl

/-- A new owner clears what the unit holds; it is counted where it differs from the one recorded. -/
def countOwner (s : State) (old new : List Byte) : State := if new = old then s else count s pgNTC 7

section
variable (s : State) (old new : List Byte)

@[simp] theorem barrier_countOwner (c : Nat) : (countOwner s old new).barrier c = s.barrier c := by
  unfold countOwner; split <;> rfl
@[simp] theorem fan_countOwner (n : Nat) : (countOwner s old new).fan n = s.fan n := by
  unfold countOwner; split <;> rfl
@[simp] theorem out_countOwner : (countOwner s old new).out = s.out := by
  unfold countOwner; split <;> rfl
@[simp] theorem jobs_countOwner : (countOwner s old new).jobs = s.jobs := by
  unfold countOwner; split <;> rfl

end

/-! ## Quiet channels and Fans -/

section
variable {s : State} {c n p : Nat}

/-- A channel that is to change, is not armed and whose release is low takes its partition and owner. -/
theorem chanSettle_quiet (hch : (s.barrier c).changing = some (true, p)) (harmed : (s.barrier c).armed = [])
    (hrel : (s.barrier c).release = false) (hjobs : s.jobs = []) :
    chanSettle s c = count ((countOwner s (s.barrier c).owner (ownerOf s p)).setBarrier c
      { s.barrier c with valid := true, part := p, changing := none, owner := ownerOf s p }) pgSAD 5 := by
  have hquiet : ∀ t : State, t.jobs = [] → sealGo (wakeArms t c) p = t := fun t ht => by
    rw [wakeArms_of_no_jobs ht, sealGo_of_no_jobs ht]
  unfold chanSettle
  simp only [hch, harmed, hrel, ownerAt]
  exact hquiet _ ((jobs_countOwner ..).trans hjobs)

theorem disarmSpine_nil (s : State) (c : Nat) : disarmSpine s c [] = s := by
  have hnone : (s.barrier c).armed.filter (fun e => ([] : List Nat).contains e) = [] := List.filter_eq_nil_iff.mpr (by simp)
  simp only [disarmSpine, hnone]
  rfl

theorem chanOwner_of_unarmed (harmed : (s.barrier c).armed = []) (valid : Bool) :
    chanOwner s c valid p = chanSettle (s.setBarrier c { s.barrier c with changing := some (valid, p) }) c := by
  have hdisarm := disarmSpine_nil (s.setBarrier c { s.barrier c with changing := some (valid, p) }) c
  rw [← harmed] at hdisarm
  exact congrArg (chanSettle · c) hdisarm

/-- A Fan that is to change and has no stream takes its partition and owner. -/
theorem fanSettle_quiet (hch : (s.fan n).changing = some (true, p)) (hstreams : (s.fan n).streams = []) (hjobs : s.jobs = []) :
    fanSettle s n = count ((countOwner s (s.fan n).owner (ownerOf s p)).setFan n
      { s.fan n with valid := true, part := p, changing := none, owner := ownerOf s p,
                     loop := if ownerOf s p = (s.fan n).owner then (s.fan n).loop else [] }) pgFAN 7 := by
  have hquiet : ∀ t : State, t.jobs = [] → sealGo (wakeFan t n) p = t := fun t ht => by
    rw [wakeFan_of_no_jobs ht, sealGo_of_no_jobs ht]
  unfold fanSettle
  simp only [hch, hstreams, ownerAt]
  exact hquiet _ ((jobs_countOwner ..).trans hjobs)

end

/-! ## Scratchpad shares -/

/-- A share of a standing context that no other context of its partition has a share beside. -/
theorem putSpad_alone {s : State} {c : Nat} (hst : (s.ctx c).st = .active)
    (h : s.ctxs.all (fun e => e.1 == c || e.2.part != (s.ctx c).part || e.2.spadSize == 0) = true) (base size : Nat) :
    putSpad s c base size = s.setCtx c { s.ctx c with spadBase := base, spadSize := size } := by
  have hclash : s.ctxs.any (fun e => e.1 != c && e.2.part == (s.ctx c).part && e.2.st != .free &&
      shareOverlaps base size e.2.spadBase e.2.spadSize) = false := by
    rw [List.any_eq_false]
    intro e he
    have hlone := List.all_eq_true.mp h e he
    simp only [Bool.or_eq_true, beq_iff_eq, bne_iff_ne] at hlone
    rcases hlone with (hlone | hlone) | hlone <;> simp [hlone, shareOverlaps]
  simp [putSpad, hclash, hst]

theorem fld_spadBase (d : Word) : fld (d &&& 0x0000FFFF0000FFFF) 15 0 = d.toNat % 2 ^ 16 := by
  have hmask : ∀ i < 16, Nat.testBit 0x0000FFFF0000FFFF i = true := by decide
  refine Nat.eq_of_testBit_eq fun i => ?_
  change ((d &&& 0x0000FFFF0000FFFF).toNat >>> 0 % 2 ^ 16).testBit i = _
  rw [BitVec.toNat_and, Nat.shiftRight_zero, Nat.testBit_mod_two_pow, Nat.testBit_mod_two_pow, Nat.testBit_and]
  by_cases hi : i < 16
  · rw [show BitVec.toNat (0x0000FFFF0000FFFF : Word) = 0x0000FFFF0000FFFF from rfl, hmask i hi, Bool.and_true]
  · simp [hi]

theorem fld_spadSize (d : Word) : fld (d &&& 0x0000FFFF0000FFFF) 47 32 = d.toNat / 2 ^ 32 % 2 ^ 16 := by
  have hmask : ∀ i < 16, Nat.testBit 0x0000FFFF0000FFFF (32 + i) = true := by decide
  refine Nat.eq_of_testBit_eq fun i => ?_
  change ((d &&& 0x0000FFFF0000FFFF).toNat >>> 32 % 2 ^ 16).testBit i = _
  rw [BitVec.toNat_and, Nat.testBit_mod_two_pow, Nat.testBit_mod_two_pow, Nat.testBit_shiftRight, Nat.testBit_div_two_pow,
    Nat.testBit_and]
  by_cases hi : i < 16
  · rw [show BitVec.toNat (0x0000FFFF0000FFFF : Word) = 0x0000FFFF0000FFFF from rfl, hmask i hi, Bool.and_true, Nat.add_comm]
  · simp [hi]

/-- A unit that nobody owns, claimed. -/
theorem ownerWrite_claim {d : Word} {part : Nat} (h8 : d.getLsbD 8 = true) :
    ownerWrite false part none (BitVec.ofNat 64 (fld d 31 0)) = some (true, d.toNat % 256, true) := by
  have hp : fld d 7 0 = d.toNat % 256 := by simp [fld, bitsN]
  unfold ownerWrite
  rw [bitAt_low (by decide), fld_low (by decide) (by decide), h8, hp]
  simp

end Sys2Proof.Machine

open Sys2Proof Sys2Proof.Machine

/-- Settles O13: each write reaches its register, an owner's change that nothing holds up takes effect at once, and the pacing
base and the share are stored. -/
theorem ownerAndShareWrites : Obligations.OwnerAndShareWrites := by
  unfold Obligations.OwnerAndShareWrites
  intro s h d
  refine ⟨fun c hc w hlock h8 hvalid hchanging harmed hrel hjobs => ?_, fun n hn w hlock h8 hvalid hchanging hstreams hjobs => ?_,
    fun w hlock => ?_, fun c hc w hlock hst hclash => ?_⟩
  · have hput : putReg s .operator pgSAD 0x104 (BitVec.ofNat 64 (fld d 31 0)) 0x00000000FFFFFFFF true [] =
        chanOwner s c true (d.toNat % 256) := by
      change putSAD s .operator 0x104 _ = _
      unfold putSAD
      simp [lockedFor_operator, hlock, opDbg, opView, ← hc, hvalid, hchanging, ownerWrite_claim h8]
    refine ⟨_, writeRow_operator w d _ rfl [], ?_⟩
    rw [hput, chanOwner_of_unarmed harmed, chanSettle_quiet (p := d.toNat % 256) (by simp) (by simpa using harmed)
      (by simpa using hrel) (by exact hjobs)]
    exact ⟨by simp, fun k hk => by simp [hk], by simp, by simp⟩
  · have hput : putReg s .operator pgFAN 0x104 (BitVec.ofNat 64 (fld d 31 0)) 0x00000000FFFFFFFF true [] =
        fanOwner s n true (d.toNat % 256) := by
      change putFAN s .operator 0x104 _ = _
      unfold putFAN
      simp [lockedFor_operator, hlock, opDbg, opView, ← hn, hvalid, hchanging, ownerWrite_claim h8]
    refine ⟨_, writeRow_operator w d _ rfl [], ?_⟩
    rw [hput, fanOwner, fanSettle_quiet (p := d.toNat % 256) (by simp) (by simpa using hstreams) (by exact hjobs)]
    exact ⟨by simp, fun k hk => by simp [hk], by simp, by simp⟩
  · have hput : putReg s .operator pgECP 0x100 d 0xFFFFFFFFFFFFFFFF true [] =
        s.setCtx 0 { s.ctx 0 with pace := d &&& 0x01FFFFFFFFFFFFC1 } := by
      change putECP s .operator 0x100 d _ = _
      unfold putECP
      simp only [lockedFor_operator, hlock, viewCtx, mergeW_full]
      rfl
    exact (writeRow64_operator w d []).trans (by rw [hput])
  · have hput : putReg s .operator pgSCH 0x148 d 0xFFFFFFFFFFFFFFFF true [] =
        s.setCtx c { s.ctx c with spadBase := d.toNat % 2 ^ 16, spadSize := d.toNat / 2 ^ 32 % 2 ^ 16 } := by
      change putSCH s .operator 0x148 d _ = _
      unfold putSCH
      simp only [lockedFor_operator, hlock, opDbg, opView, ← hc, mergeW_full]
      exact (putSpad_alone hst hclash ..).trans (by rw [fld_spadBase, fld_spadSize])
    exact (writeRow64_operator w d []).trans (by rw [hput])
end

section
/-! Steps, the state after reset, and the operator's writes of single registers of the pages ID, BSN, HFE, WSH, LOE and SWB
(R15, R153, R170, R171, R356, R360, R365, R384, R403, R406): the obligations StepRunsFront, ResetState, BlockRegisterWrites,
WatershedWrites and TraceStoreAndRecovery. -/

namespace Sys2Proof.Machine

variable {s : State} {h : HostReq} {d : Word}

/-! ## A tick -/

theorem tick_of_powered (hpor : s.bsn.porAsserted = false) :
    tick s = { s with timebase := s.timebase + 10,
                      pins := { s.pins with hbOut := if (s.timebase + 10).toNat % 1000 = 0 then !s.pins.hbOut else s.pins.hbOut } } := by
  simp [tick, hpor]

theorem tick_of_por (hpor : s.bsn.porAsserted = true) : tick s = s := by simp [tick, hpor]

/-! ## A register beyond the common ones -/

/-- A 4-byte row whose register write is known. -/
theorem writeRow_of_put {t : State} {p off : Nat} {ok : Nat → Bool} (w : OperatorWrites s h p off false)
    (hok : ok (fld d 31 0) = true)
    (hput : putReg s .operator p off (BitVec.ofNat 64 (fld d 31 0)) 0x00000000FFFFFFFF true [] = t) :
    writeRow s (.host h d) p off ok [] = .next (emit t (.hostResp h.id 0)) :=
  hput ▸ writeRow_operator w d ok hok []

/-- An 8-byte row whose register write is known. -/
theorem writeRow64_of_put {t : State} {p off : Nat} {m : MemView} (w : OperatorWrites s h p off true)
    (hput : putReg s .operator p off d 0xFFFFFFFFFFFFFFFF true m = t) :
    writeRow64 s (.host h d) p off m = .next (emit t (.hostResp h.id 0)) :=
  hput ▸ writeRow64_operator w d m

/-- REGISTER_WRITE of a register of the window is the write of that register. -/
theorem exec_registerWrite_operator {p off : Nat} {wide : Bool} (w : OperatorWrites s h p off wide) (m : MemView) :
    exec (.registerWrite (.host h d) m) s = .next (regWrite s (.host h d) m) := by
  obtain ⟨hregion, -⟩ := operatorWrites_noFault w
  exact if_neg (by simp [hregion])

/-- The low bits of the low half. -/
theorem ofNat_fld_mod {n : Nat} (hn : n ≤ 32) : (BitVec.ofNat 64 (fld d 31 0)).toNat % 2 ^ n = d.toNat % 2 ^ n := by
  have hlow : (BitVec.ofNat 64 (fld d 31 0)).toNat = d.toNat % 2 ^ 32 := by simp [fld, bitsN]; omega
  rw [hlow, Nat.mod_mod_of_dvd _ (Nat.pow_dvd_pow 2 hn)]

/-! ## ID_IRQ_TARGET and SLICE_AWAKE_FORCE -/

theorem foldl_presentIrq_quiet (hquiet : ∀ p, (s.page p).irqStatus &&& (s.page p).irqEnable = 0) (l : List Nat) :
    l.foldl (fun t p => if (t.page p).irqStatus &&& (t.page p).irqEnable ≠ 0 then presentIrq t p else t) s = s := by
  induction l with
  | nil => rfl
  | cons p l ih => rw [List.foldl_cons, if_neg (not_not_intro (hquiet p)), ih]

/-- ENABLE of the interrupt target presents nothing where no page has a pending enabled cause (R403). -/
theorem putIrqTarget_quiet (hquiet : ∀ p, (s.page p).irqStatus &&& (s.page p).irqEnable = 0) (w : W32) :
    putIrqTarget s w = { s with idIrqTarget := w &&& 0x80000FFF } := by
  have hfold := foldl_presentIrq_quiet (s := { s with idIrqTarget := w &&& 0x80000FFF }) hquiet allPages
  unfold putIrqTarget
  dsimp only at hfold ⊢
  rw [hfold]
  split <;> rfl

/-- The one domain bit of a write. -/
theorem bitList_single {k n : Nat} (hk : k < 8) (hn : n % 256 = 2 ^ k) : bitList 8 n = [k] := by
  have hbits : ∀ i, i < 8 → n.testBit i = decide (i = k) := fun i hi => by
    have hlow : (n % 2 ^ 8).testBit i = n.testBit i := by rw [Nat.testBit_mod_two_pow, decide_eq_true hi, Bool.true_and]
    rw [← hlow, show n % 2 ^ 8 = 2 ^ k from hn, Nat.testBit_two_pow]
    exact decide_eq_decide.mpr eq_comm
  unfold bitList
  rw [List.filter_congr (q := fun i => decide (i = k)) (fun i hi => hbits i (List.mem_range.mp hi))]
  exact (by decide : ∀ k < 8, (List.range 8).filter (fun i => decide (i = k)) = [k]) k hk

theorem low8_of_masked (w : W32) : (w &&& 0x83FF00FF).toNat % 256 = w.toNat % 256 := by
  rw [BitVec.toNat_and]
  refine Nat.eq_of_testBit_eq fun i => ?_
  have hmask : ∀ i < 8, Nat.testBit (BitVec.toNat (0x83FF00FF : W32)) i = true := by decide
  rw [show (256 : Nat) = 2 ^ 8 from rfl, Nat.testBit_mod_two_pow, Nat.testBit_mod_two_pow, Nat.testBit_and]
  by_cases hi : i < 8
  · rw [hmask i hi, Bool.and_true]
  · simp [hi]

/-- SLICE_AWAKE_FORCE of one slice wakes it (R15). -/
theorem putBSN_one {k : Nat} (hk : k < 8) (hlock : (s.page pgBSN).lock = false) (hd : d.toNat % 256 = 2 ^ k)
    (h31 : d.getLsbD 31 = false) : putBSN s .operator 0x100 (BitVec.ofNat 64 (fld d 31 0)) =
      wakeSlice { s with bsn := { s.bsn with ctrl := d.setWidth 32 &&& 0x83FF00FF } } k := by
  have hslices : bitList 8 (d.setWidth 32 &&& 0x83FF00FF : W32).toNat = [k] := by
    refine bitList_single hk ?_
    rw [low8_of_masked, BitVec.toNat_setWidth, ← hd]
    omega
  have hspine : (d.setWidth 32 &&& 0x83FF00FF : W32).getLsbD 31 = false := by
    rw [BitVec.getLsbD_and, getLsbD_low (by decide), h31, Bool.false_and]
  unfold putBSN
  dsimp only
  rw [low32, hslices, hspine, lockedFor_operator, hlock]
  rfl

/-! ## The Watershed -/

theorem fld_23_0 (d : Word) : fld d 23 0 = d.toNat % 2 ^ 24 := by simp [fld, bitsN]

/-! ## Trace sessions -/

/-- LOE_TRACE_CTRL by the operator on an unlocked page. -/
theorem putTraceCtrl_operator (hlock : (s.page pgLOE).lock = false) :
    putReg s .operator pgLOE 0x180 (BitVec.ofNat 64 (fld d 31 0)) 0x00000000FFFFFFFF true [] =
      (if d.getLsbD 0 = true ∧ s.loe.trace.owner.isSome = true ∧ !(d.getLsbD 1 = true ∧ s.loe.trace.owner = some .operator) then
         startTrace s .operator 1 0
       else
         let s1 := { s with loe := { s.loe with trace := { s.loe.trace with ctrl := d.setWidth 32 &&& 0xFF1C } } }
         let s2 := if d.getLsbD 1 = true ∧ s.loe.trace.owner = some .operator then endTrace s1 else s1
         if d.getLsbD 0 then startTrace s2 .operator 1 0 else s2) := by
  change putTraceCtrl s .operator _ = _
  unfold putTraceCtrl
  dsimp only
  rw [bitAt_low (by decide), bitAt_low (by decide), lockedFor_operator, hlock, low32]
  rfl

/-! ## Stores -/

theorem spiGo_allowed (hbusy : s.swb.spiBusy = false)
    (hallowed : storeAllowed s (s.swb.spiDst.toNat % 2 ^ 26) (s.swb.spiLen.toNat % 2 ^ 27) = true) :
    spiGo s = { s with swb := { s.swb with spiBusy := true } } := by
  unfold spiGo
  rw [if_neg (by simp [hbusy])]
  exact if_pos hallowed

/-! ## The recovery loader (R384) -/

theorem getLsbD_of_mod16 {v i : Nat} (hd : d.toNat % 16 = v) (hi : i < 4) : d.getLsbD i = v.testBit i := by
  rw [← hd, show (16 : Nat) = 2 ^ 4 from rfl, Nat.testBit_mod_two_pow, decide_eq_true hi, Bool.true_and, BitVec.testBit_toNat]

/-- The bits of SWB_RCV_CTRL act in their order. -/
theorem putRcv_operator {v : Nat} (hd : d.toNat % 16 = v) :
    putReg s .operator pgSWB 0x140 (BitVec.ofNat 64 (fld d 31 0)) 0x00000000FFFFFFFF true [] =
      (let s1 := if v.testBit 0 then rcvBegin s else s
       let s2 := if v.testBit 1 then rcvVerify s1 else s1
       let s3 := if v.testBit 2 then rcvProgram s2 else s2
       if v.testBit 3 then rcvBoot s3 else s3) := by
  change putRcv s _ = _
  unfold putRcv
  rw [bitAt_low (by decide), bitAt_low (by decide), bitAt_low (by decide), bitAt_low (by decide),
    getLsbD_of_mod16 hd (by decide), getLsbD_of_mod16 hd (by decide), getLsbD_of_mod16 hd (by decide),
    getLsbD_of_mod16 hd (by decide)]

section
variable (hrec : s.swb.boot = .recovery)
include hrec

theorem rcvBegin_in : rcvBegin s = { s with swb := { s.swb with
    fwImage := [], rcvCount := 0, rcvOver := false, verified := false, verifyFailed := false } } := by
  simp [rcvBegin, inRecovery, hrec]

theorem rcvVerify_in : rcvVerify s = { s with swb := { s.swb with
    verified := !s.swb.rcvOver && fwImageOk s s.swb.fwImage, verifyFailed := !(!s.swb.rcvOver && fwImageOk s s.swb.fwImage) } } := by
  simp [rcvVerify, inRecovery, hrec]

theorem rcvProgram_in {a : Nat} (hver : s.swb.verified = true) (hflash : s.swb.fwFlash = some a)
    (hallowed : storeAllowed s a (roundUp (imgBytes s.swb.fwImage + 96) 4096) = true) :
    let n := roundUp (imgBytes s.swb.fwImage + 96) 4096
    rcvProgram s = count (emit { s with swb := { s.swb with spiDone := true } }
      (.spiStore a (padBytes n (s.swb.fwImage.take (imgBytes s.swb.fwImage + 96))))) pgSWB 7 (n / 4096) := by
  simp [rcvProgram, inRecovery, hrec, hver, hflash, hallowed]

theorem rcvBoot_in (hver : s.swb.verified = true) : rcvBoot s = { s with
    pins := { s.pins with hfeAvail := false }, swb := { s.swb with boot := .stage 2, stageAt := s.now } } := by
  simp [rcvBoot, inRecovery, hrec, hver]

end

end Sys2Proof.Machine

open Sys2Proof Sys2Proof.Machine

/-- Settles O1: the front command is what a step runs, and an empty queue ticks. -/
theorem stepRunsFront : Obligations.StepRunsFront := by
  unfold Obligations.StepRunsFront
  refine ⟨fun c s => rfl, fun s hempty => ⟨tick s, by rw [step, hempty], ?_⟩⟩
  cases hpor : s.bsn.porAsserted
  · rw [tick_of_powered hpor]
    exact ⟨by simp, fun hc => absurd hc (by decide), rfl, rfl, rfl, rfl⟩
  · rw [tick_of_por hpor]
    exact ⟨by simp, fun _ => rfl, rfl, rfl, rfl, rfl⟩

/-- Settles O2, by evaluation: the tables are empty, so that every entry reads as its reset value. -/
theorem resetState : Obligations.ResetState := by
  unfold Obligations.ResetState
  exact ⟨rfl, rfl, rfl, rfl, rfl, rfl, rfl, rfl, rfl, rfl, rfl, rfl, fun _ => ⟨rfl, rfl⟩, fun _ => rfl, fun _ => rfl, fun _ => rfl,
    fun _ => rfl, rfl, rfl, rfl, fun h0 => absurd rfl h0, rfl, rfl⟩

/-- Settles O9: each write reaches its register. -/
theorem blockRegisterWrites : Obligations.BlockRegisterWrites := by
  unfold Obligations.BlockRegisterWrites
  intro s h d
  refine ⟨fun w hlock h31 _ hquiet => ?_, fun k hk w hlock hd h31 => ?_, fun m w hlock => ?_, fun m w => ?_⟩
  · refine writeRow_of_put w ((hasBit_low (by decide) d).trans h31) ?_
    change putID s .operator 0x138 _ = _
    unfold putID
    rw [lockedFor_operator, hlock, low32, if_pos ⟨rfl, rfl, rfl⟩, putIrqTarget_quiet hquiet]
  · refine writeRow_of_put w ?_ (putBSN_one hk hlock hd h31)
    have hne : fld d 31 0 % 256 ≠ 0 := by
      have hlow : fld d 31 0 = d.toNat % 2 ^ 32 := by simp [fld, bitsN]
      have hpos : 0 < 2 ^ k := Nat.two_pow_pos k
      omega
    simp [hne]
  · rw [exec_registerWrite_operator w, regWrite_operator w]
    refine congrArg (fun t => Host.Outcome.next (emit t (.hostResp h.id 0))) ?_
    change putHFE s .operator 0x108 d 0xFFFFFFFFFFFFFFFF = _
    unfold putHFE
    dsimp only
    rw [lockedFor_operator, hlock, mergeW_full]
    rfl
  · rw [exec_registerWrite_operator w, regWrite_operator w]
    refine congrArg (fun t => Host.Outcome.next (emit t (.hostResp h.id 0))) ?_
    change putSel s .operator pgSTP 0x100 18 (BitVec.ofNat 64 (fld d 31 0)) = _
    rw [putSel, ofNat_fld_mod (by decide)]

/-- Settles O12: each write reaches its register. -/
theorem watershedWrites : Obligations.WatershedWrites := by
  unfold Obligations.WatershedWrites
  intro s h d
  refine ⟨fun w h24 => ?_, fun w h24 => ?_, fun w h0 h1 hrun => ?_, fun m w => ?_⟩
  · refine writeRow_of_put w ?_ ?_
    · rw [← hasBit, hasBit_low (by decide), h24]; rfl
    · change syncInval s 0 (bitAt _ 24) (fld _ 23 0) = _
      rw [bitAt_low (by decide), fld_low (by decide) (by decide), fld_23_0, h24, syncInval, Nat.zero_mul, Nat.zero_add]
      rfl
  · refine writeRow_of_put w ((hasBit_low (by decide) d).trans h24) ?_
    change syncInval s 0 (bitAt _ 24) (fld _ 23 0) = _
    rw [bitAt_low (by decide), h24]
    rfl
  · refine writeRow_of_put w ((hasBit_low (by decide) d).trans h0) ?_
    change (if bitAt _ 0 = true then startWfg (if bitAt _ 1 = true then _ else s) false else _) = _
    rw [bitAt_low (by decide), bitAt_low (by decide), h0, h1]
    simp [startWfg, hrun]
  · refine writeRow64_of_put w ?_
    change putProbe s .operator d 0xFFFFFFFFFFFFFFFF true m = _
    unfold putProbe
    rw [mergeW_full]
    rfl

/-- Settles O14: each write reaches its register; START begins a session, STOP ends it, and the bits of SWB_RCV_CTRL act one
by one. -/
theorem traceStoreAndRecovery : Obligations.TraceStoreAndRecovery := by
  unfold Obligations.TraceStoreAndRecovery
  refine ⟨fun s h d => ⟨fun w hlock h0 h1 howner => ?_, fun w hlock h0 h1 howner => ?_, fun w h0 hbusy hallowed => ?_⟩,
    fun s h d hrec => ⟨fun w hd => ?_, fun w hroom => ?_, fun w hd => ?_, fun a n w hd hver hflash hn hallowed => ?_,
      fun w hd hver => ?_⟩⟩
  · refine writeRow_of_put w ((hasBit_low (by decide) d).trans h0) ?_
    rw [putTraceCtrl_operator hlock]
    simp only [h0, h1, howner]
    rfl
  · refine writeRow_of_put w ((hasBit_low (by decide) d).trans h1) ?_
    rw [putTraceCtrl_operator hlock]
    simp only [h0, h1, howner]
    rfl
  · refine writeRow_of_put w ((hasBit_low (by decide) d).trans h0) ?_
    change putSpi s _ = _
    unfold putSpi
    rw [bitAt_low (by decide), bitAt_low (by decide), bitAt_low (by decide), h0]
    exact spiGo_allowed hbusy hallowed
  · refine writeRow_of_put w ((hasBit_low (by decide) d).trans (getLsbD_of_mod16 hd (by decide))) ?_
    rw [putRcv_operator hd]
    exact rcvBegin_in hrec
  · refine writeRow64_of_put w ?_
    change rcvAppend s d = _
    simp [rcvAppend, inRecovery, hrec, Nat.not_lt.mpr hroom]
  · refine writeRow_of_put w ((hasBit_low (by decide) d).trans (getLsbD_of_mod16 hd (by decide))) ?_
    rw [putRcv_operator hd]
    exact rcvVerify_in hrec
  · refine writeRow_of_put w ((hasBit_low (by decide) d).trans (getLsbD_of_mod16 hd (by decide))) ?_
    rw [putRcv_operator hd, hn]
    exact rcvProgram_in hrec hver hflash (by rw [hn] at hallowed; exact hallowed)
  · refine writeRow_of_put w ((hasBit_low (by decide) d).trans (getLsbD_of_mod16 hd (by decide))) ?_
    rw [putRcv_operator hd]
    exact rcvBoot_in hrec hver
end


section

/-! ## Writes of a host requester outside the register pages (R33 to R35) -/

namespace Sys2Proof.Machine

section
variable {s : State} {h : HostReq} {operator : Bool} {addr size : Nat}

theorem hostRegion_doorbell {a : Nat} (h : a < 0x1000000) : hostRegion a = .doorbell := if_pos h

theorem hostRegion_signal {a : Nat} (h1 : 0x1100000 ≤ a) (h2 : a < 0x1101000) : hostRegion a = .signal := by
  unfold hostRegion; rw [if_neg (by omega), if_neg (by omega), if_pos h2]

theorem hostRegion_mailbox {a : Nat} (h1 : 0x1101000 ≤ a) (h2 : a < 0x1102000) : hostRegion a = .mailbox := by
  unfold hostRegion; rw [if_neg (by omega), if_neg (by omega), if_neg (by omega), if_pos h2]

/-- The one strobe pattern of a whole word. -/
theorem HostWrites.strobesAll (w : HostWrites s h operator addr size) (hsize : size = 4 ∨ size = 8) : strobesAll h = true := by
  obtain ⟨h1, h2⟩ := w.beat
  rcases hsize with rfl | rfl <;> simp [Machine.strobesAll, h1, h2, halfFull, bitsN]

/-- A write of one whole word, aligned, passes R33 where the region takes such a write. -/
theorem HostWrites.noFault (w : HostWrites s h operator addr size) (hsize : size = 4 ∨ size = 8) (halign : addr % size = 0)
    (hmap : hostRegion addr = .doorbell ∨ hostRegion addr = .mailbox ∨ (hostRegion addr = .signal ∧ size = 8)) :
    hostFault h true = none := by
  obtain ⟨hcls, hbit15, htwin, hctx⟩ := w.requester
  obtain ⟨hatomic, hpoison, hsingle⟩ := w.plain
  have hstrobes := w.strobesAll hsize
  have hreq : badRequester h = false ∧ badOperator h = false := by
    cases operator <;> simp [badRequester, badOperator, hcls, hbit15, hctx]
  have hword : wordBeat h = true := by
    rcases hsize with rfl | rfl <;> simp [wordBeat, w.beat.1, w.place, halign]
  have hform : formOk h true = true := by
    rcases hmap with hr | hr | ⟨hr, rfl⟩ <;>
      simp [formOk, w.place, hr, hsingle, hword, hstrobes, burstOk, w.beat.1, halign]
  have hmapped : hostRegion h.addr.toNat ≠ .unmapped := by
    rw [w.place]; rcases hmap with hr | hr | ⟨hr, -⟩ <;> simp [hr]
  simp [hostFault, hreq, hmapped, htwin, hatomic, hpoison, hform]

theorem HostWrites.judged (w : HostWrites s h operator addr size) (hfault : hostFault h true = none) (f : State → State) :
    judged s h f = f s := by
  simp [Machine.judged, inReset, w.live, hfault]

theorem HostWrites.not_inRecovery (w : HostWrites s h operator addr size) : inRecovery s = false := by
  simp [inRecovery, w.reach]

/-- The requester's own order holds nothing back, so its answer leaves at once. -/
theorem hostAnswer_of_not_behind {t : State} {id : BitVec 8} (h : behind t (16 + id.toNat) = false) (resp : Nat) :
    hostAnswer t id resp = emit t (.hostResp id resp) := by
  simp [hostAnswer, hostReply, h, emits, emit]

theorem behind_congr {s t : State} (h : t.bsn.held = s.bsn.held) (k : Nat) : behind t k = behind s k := by
  simp only [behind, h]

end

/-! ## The signal page (R155, R156) -/

section
variable {s u s1 : State} {h : HostReq} {d : Word} {m : MemView} {off : Nat} {f : Fence}

/-- A write of the signal page by the operator with the spine awake: answered, counted, and acted upon. -/
theorem signalRow_operator (w : HostWrites s h true (0x1100000 + off) 8) (hoff : off < 4096) (halign : off % 8 = 0)
    (hawake : s.bsn.spineAwake = true) {ok : Bool} (hok : ok = true) :
    signalRow s h d m ok = .next (signalPage (emit s (.hostResp h.id 0)) 0 off d true m) := by
  have hregion : hostRegion (0x1100000 + off) = .signal := hostRegion_signal (by omega) (by omega)
  have hfault := w.noFault (Or.inr rfl) (by omega) (Or.inr (Or.inr ⟨hregion, rfl⟩))
  obtain ⟨hcls, -, -, hctx⟩ := w.requester
  have hplace : (0x1100000 + off) % 4096 = off := by omega
  unfold signalRow
  rw [w.place, hregion, hok, w.judged hfault]
  unfold signalAccepted
  simp [w.not_inRecovery, hostAnswer_of_not_behind w.order, spineEvent, hawake, hcls, hctx, w.place, hplace]

theorem portSpine_eq (pa : Nat) : portSpine pa = pa / 64 % 8 := by
  simp [portSpine, bitsN, Nat.shiftRight_eq_div_pow]

/-- A signal that no job makes, an ADD only while the fence's counting order is free: its atomic joins those in flight and
its request goes to the spine port of its address (R43). -/
theorem addAtomic_of_no_job {a : Atomic} (hjob : a.job = none) (huse : a.use = .signal)
    (hfree : a.add = true → orderHeld s a.fence.pa = false) :
    addAtomic s a = issue { s with wsh := { s.wsh with atomics := s.wsh.atomics ++ [{ a with issued := true }] } }
      (a.fence.pa / 64 % 8) (.atomic a.fence.pa) [.chiAtomic (a.fence.pa / 64 % 8) a.fence.pa a.fence.key a.add a.operand] := by
  have hgo : (!a.add || !orderHeld s a.fence.pa) = true := by
    cases hadd : a.add
    · rfl
    · simp [hfree hadd]
  have hins := insertAtomic_of_not_consume (a := { a with issued := true }) (by simp [isConsume, huse]) s.wsh.atomics
  unfold addAtomic
  simp only [hgo, if_true, hins]
  simp only [issueAtomic, atomicPort, atomicOut, hjob, huse, portSpine_eq]

/-- A signal by no job of a fence of this die that no line caches. -/
theorem signal_home_of_no_job {v : Word} {c : Nat} {last : W32} (hhome : f.home = dieId s) (hline : findLine s f = none)
    (hkey : keyStopped s f.key = false) (hfree : f.counting = true → orderHeld s f.pa = false)
    (hroom : portRoom s (f.pa / 64 % 8) = true) :
    signal s f v c last none false none =
      emit { s with wsh := { s.wsh with atomics := s.wsh.atomics ++
                      [{ sigAtomic f v c last none false none none with issued := true }] },
                    flights := s.flights ++ [⟨f.pa / 64 % 8, .atomic f.pa,
                      [.chiAtomic (f.pa / 64 % 8) f.pa f.key f.counting v], true⟩] }
        (.chiAtomic (f.pa / 64 % 8) f.pa f.key f.counting v) := by
  have hadd := addAtomic_of_no_job (s := s) (a := sigAtomic f v c last none false none none) rfl rfl hfree
  rw [issue_of_room (by exact hroom)] at hadd
  unfold signal
  rw [if_neg (by simp [hhome])]
  simp only [hkey, Bool.false_eq_true, if_false]
  have hcached : findLine (addAtomic s (sigAtomic f v c last none false none none)) f = none := by
    rw [hadd, ← hline]; exact findLine_congr rfl f
  rw [performSignal_of_uncached hcached, hadd]
  rfl

/-- The form of the fence that a resolution for a signal hands back. -/
theorem signalOf_resolved {c id : Nat} {counting : Bool} {v : Word} {last : W32}
    (h : resolveFence s c (BitVec.ofNat 64 id) (some counting) true m = .ok (s1, f)) :
    signalOf s c id counting v last m = signal s1 f v c last none false none := by
  unfold signalOf; rw [h]

/-- A line that is read again at once: its key lives, no write is in its way, and its port has room. -/
theorem rereadLine_reads {l : Nat} (hkey : keyStopped s (s.line l).key = false) (hreread : (s.line l).reread = false)
    (hbusy : lineBusy s (s.line l).pa = false) (hroom : portRoom s ((s.line l).pa / 64 % 8) = true) :
    rereadLine s l =
      (let x := s.line l
       let k := x.pa / 64 % 8
       let o := Out.chiRead k x.pa 64 x.key (hostVisible s x.pa)
       let t := s.setLine l { x with reread := true }
       count (emit { t with flights := t.flights ++ [⟨k, .line l, [o], true⟩] } o) pgWSH 4) := by
  unfold rereadLine
  simp only [hkey, hreread, Bool.false_eq_true, if_false]
  have hissue : ∀ (t : State) (r : HeldRead), lineBusy t r.pa = false → portRoom t (r.pa / 64 % 8) = true →
      issueRead t r = emit { t with flights := t.flights ++
          [⟨r.pa / 64 % 8, r.who, [.chiRead (r.pa / 64 % 8) r.pa r.len r.key (hostVisible t r.pa)], true⟩] }
        (.chiRead (r.pa / 64 % 8) r.pa r.len r.key (hostVisible t r.pa)) := by
    intro t r hb hr
    simp only [issueRead, hb, Bool.false_eq_true, if_false, HeldRead.go, portSpine_eq, issue_of_room hr]
    rfl
  rw [hissue _ _ (by exact hbusy) (by exact hroom)]
  rfl


/-- The ID of a signal's data word. -/
theorem ofNat_fld_63_40 (d : Word) : BitVec.ofNat 64 (fld d 63 40) = d >>> 40 := by
  apply BitVec.eq_of_toNat_eq
  have := d.isLt
  simp [fld, bitsN, Nat.shiftRight_eq_div_pow]
  omega

/-- The value of a signal's data word. -/
theorem fld_39_0 (d : Word) : fld d 39 0 = d.toNat % 2 ^ 40 := by simp [fld, bitsN]

theorem ofNat_fld_23_0 (hd : d.toNat < 2 ^ 24) : BitVec.ofNat 64 (fld d 23 0) = d := by
  apply BitVec.eq_of_toNat_eq
  simp [fld, bitsN]
  omega

end

end Sys2Proof.Machine

open Sys2Proof Sys2Proof.Machine

/-- Settles O18: each write is answered and counted, and then the sync ID's fence takes the atomic, or its line the read. -/
theorem signalPageWrites : Obligations.SignalPageWrites := by
  unfold Obligations.SignalPageWrites
  intro s h d m u hawake hu
  refine ⟨fun s1 f v w hv hres hhome hline hkey hroom => ?_, fun s1 f v w hv hres hhome hline hkey hfree hroom => ?_,
    fun s1 f l w hd hres hhome hline hreread hkey hbusy hroom => ?_, fun off w hlow hhigh halign => ?_⟩
  · have hcounting := (resolveFence_spec hres).2 _ rfl
    subst hu hv
    have hrow := signalRow_operator (m := m) (d := d) (off := 0) w (by omega) rfl hawake
      (ok := h.addr.toNat % 4096 == 0x000) (by rw [w.place]; rfl)
    rw [← ofNat_fld_63_40] at hres
    rw [show exec (.sigSet h d m) s = _ from hrow]
    simp only [signalPage, if_true, fld_39_0, signalOf_resolved hres,
      signal_home_of_no_job hhome hline hkey (by simp [hcounting]) hroom, hcounting]
  · have hcounting := (resolveFence_spec hres).2 _ rfl
    subst hu hv
    have hrow := signalRow_operator (m := m) (d := d) (off := 8) w (by omega) rfl hawake
      (ok := h.addr.toNat % 4096 == 0x008) (by rw [w.place]; rfl)
    rw [← ofNat_fld_63_40] at hres
    rw [show exec (.sigAdd h d m) s = _ from hrow]
    simp only [signalPage, if_true, fld_39_0, signalOf_resolved hres,
      signal_home_of_no_job hhome hline hkey (fun _ => hfree) hroom, hcounting, Nat.reduceEqDiff, if_false]
  · subst hu
    have hrow := signalRow_operator (m := m) (d := d) (off := 0x10) w (by omega) rfl hawake
      (ok := h.addr.toNat % 4096 == 0x010) (by rw [w.place]; rfl)
    have hfld : fld d 63 24 = 0 := by simp [fld, bitsN, Nat.shiftRight_eq_div_pow]; omega
    rw [show exec (.sigNotify h d m) s = _ from hrow]
    have hnotify : notifyFence (count (emit s (.hostResp h.id 0)) pgHFE 4) 0 (fld d 23 0) m = rereadLine s1 l := by
      rw [← ofNat_fld_23_0 hd] at hres
      have hdie : dieId s1 = dieId (count (emit s (.hostResp h.id 0)) pgHFE 4) := by
        rcases (resolveFence_spec hres).1 with rfl | ⟨_, rfl⟩ <;> rfl
      unfold notifyFence
      rw [hres]
      simp [hhome, hline, hdie]
    simp only [signalPage, hfld, hnotify, and_self, if_true, Nat.reduceEqDiff, if_false]
    rw [rereadLine_reads hkey hreread hbusy hroom]
  · subst hu
    have hplace : (0x1100000 + off) % 4096 = off := by omega
    have hrow := signalRow_operator (m := []) (d := d) w hhigh halign hawake
      (ok := decide (0x010 < h.addr.toNat % 4096) || (h.addr.toNat % 4096 == 0x010 && fld d 63 24 != 0))
      (by rw [w.place, hplace]; simp [hlow])
    rw [show exec (.signalPageFormatError h d) s = _ from hrow]
    simp only [signalPage]
    rw [if_neg (by omega), if_neg (by omega), if_neg (by omega)]

end


section

/-! ## The mailbox (R295, Table 11.6) and its requests (R293, R294) -/

namespace Sys2Proof.Machine

section
variable {s : State} {h : HostReq} {d : Word} {n : Nat}

/-- The bytes of a 4-byte write at the mailbox's control word. -/
theorem mbxBytes_control (w : HostWrites s h true 0x1101004 4) (hd : d.toNat % 256 = n) :
    mbxBytes h d = [(4, BitVec.ofNat 8 n), (5, BitVec.ofNat 8 (d.toNat / 2 ^ 8)), (6, BitVec.ofNat 8 (d.toNat / 2 ^ 16)),
      (7, BitVec.ofNat 8 (d.toNat / 2 ^ 24))] := by
  obtain ⟨hsize, hstrobes⟩ := w.beat
  have hmore : h.more = [] := by simpa [HostReq.single, List.isEmpty_iff] using w.plain.2.2
  have hlanes : (List.range 4).filter (fun i => (0x0F#8).getLsbD i) = [0, 1, 2, 3] := by decide
  have hlow : BitVec.ofNat 8 d.toNat = BitVec.ofNat 8 n := by
    apply BitVec.eq_of_toNat_eq
    rw [BitVec.toNat_ofNat, BitVec.toNat_ofNat, ← hd]
    omega
  simp only [mbxBytes, hostBeats, hmore, List.zipIdx_nil, List.map_nil, List.flatMap_cons, List.flatMap_nil, w.place, hsize,
    hstrobes, Nat.reduceEqDiff, if_false, hlanes]
  simp [hlow]

/-- The operator's claim of a mailbox nobody holds, or its access to its own: neither is refused. -/
theorem mbxMay_control (w : HostWrites s h true 0x1101004 4) (hd : d.toNat % 256 = n) {x : Mailbox}
    (howner : x.owner = none ∨ x.owner = some (true, 0)) : mbxMay x (true, 0) (mbxBytes h d) = true := by
  rw [mbxBytes_control w hd]
  rcases howner with ho | ho <;> simp [mbxMay, ho]

/-- What a write of the control word stores: the claim, and the time of the owner's access. -/
theorem mbxStore_control (w : HostWrites s h true 0x1101004 4) (hd : d.toNat % 256 = n) (x : Mailbox) (now : Nat)
    (howner : x.owner = some (true, 0) ∨ (x.owner = none ∧ (BitVec.ofNat 8 n).getLsbD 0 = true)) :
    mbxStore x now (true, 0) (mbxBytes h d) = { x with owner := some (true, 0), lastAccess := now } := by
  have hlen : x.reqLen / 256 * 256 + x.reqLen % 256 = x.reqLen := by omega
  rw [mbxBytes_control w hd]
  cases x
  dsimp only at howner hlen
  rcases howner with ho | ⟨ho, hbit⟩
  · subst ho; simp [mbxStore, mbxByte, hlen]
  · subst ho; simp only [mbxStore, mbxByte]; simp [hbit, hlen]

/-- A write of the control word by the operator, who may make it. -/
theorem mbxRow_control (w : HostWrites s h true 0x1101004 4) (hawake : s.bsn.spineAwake = true) (hd : d.toNat % 256 = n)
    (howner : s.ntc.mbx.owner = some (true, 0) ∨ (s.ntc.mbx.owner = none ∧ (BitVec.ofNat 8 n).getLsbD 0 = true))
    (go : Option (State → State)) :
    mbxRow s (.host h d) go =
      (let x := { s.ntc.mbx with owner := some (true, 0), lastAccess := s.now }
       let s1 := emit { count s pgHFE 5 with ntc := { s.ntc with mbx := x } } (.hostResp h.id 0)
       let s2 := match go with
         | some f => if (BitVec.ofNat 8 n).getLsbD 1 = true ∧ x.busy = false then
             f (s1.setMbx { x with busy := true, rspReady := false, error := false }) else s1
         | none => s1
       .next (s2.setMbx (if (BitVec.ofNat 8 n).getLsbD 2 = true ∧ s2.ntc.mbx.owner = some (true, 0) then
         { s2.ntc.mbx with owner := none } else s2.ntc.mbx))) := by
  have hregion : hostRegion h.addr.toNat = .mailbox := by rw [w.place]; rfl
  have hfault := w.noFault (Or.inl rfl) (by decide) (Or.inr (Or.inl rfl))
  have hwho : mbxWho h = (true, 0) := by simp [mbxWho, w.requester.1, w.requester.2.2.2]
  have hmay := mbxMay_control w hd (x := s.ntc.mbx) (howner.symm.imp And.left id)
  have hstore := mbxStore_control w hd s.ntc.mbx s.now howner
  have hcontrol : mbxByte (mbxBytes h d) 4 = some (BitVec.ofNat 8 n) := by rw [mbxBytes_control w hd]; rfl
  unfold mbxRow
  simp only [hregion, if_true, w.judged hfault]
  unfold mbxWrite
  have hanswer : ∀ t : State, t.bsn.held = s.bsn.held → hostAnswer t h.id 0 = emit t (.hostResp h.id 0) := fun t ht =>
    hostAnswer_of_not_behind ((behind_congr ht _).trans w.order) 0
  have hwake : wakeSpine (count s pgHFE 5) = count s pgHFE 5 := if_pos hawake
  have hpage : (count s pgHFE 5).ntc = s.ntc := ntc_count ..
  have hnow : (count s pgHFE 5).now = s.now := rfl
  simp only [w.not_inRecovery, hwake, hwho, hpage, hnow, hmay, hstore, Bool.false_eq_true, if_false, Bool.not_true]
  rw [hanswer _ (by simp [State.setMbx])]
  simp only [mbxGoes, mbxReleased, hcontrol, Option.any_some]
  cases go <;> simp [State.setMbx]

theorem setMbx_self (t : State) : t.setMbx t.ntc.mbx = t := rfl

/-- A GO of the mailbox's owner: its request runs on the state with BUSY set, and nothing is stored behind it. -/
theorem goRow_of_go (w : MailboxGo s h d) (f : State → State) : goRow s (.host h d) f = .next (f (goState s h)) := by
  have hbits : (BitVec.ofNat 8 2).getLsbD 1 = true ∧ (BitVec.ofNat 8 2).getLsbD 2 = false := by decide
  unfold goRow
  rw [mbxRow_control w.write w.awake w.bits (.inl w.owner)]
  simp only [hbits, w.idle, and_self, if_true, false_and, if_false, Bool.false_eq_true, setMbx_self]
  simp only [goState, w.owner]
  rfl

/-! ### The sessions a request sees are those of the state before -/

theorem established_goState (sid : Nat) : established (goState s h) sid = established s sid := rfl
theorem openSession_goState (sid : Nat) : openSession (goState s h) sid = openSession s sid := rfl
theorem requesterOf_goState (sid : Nat) : requesterOf (goState s h) sid = requesterOf s sid := rfl
theorem ownerSession_goState (sid p : Nat) : ownerSession (goState s h) sid p = ownerSession s sid p := rfl
theorem freeKeySlot_goState : freeKeySlot (goState s h) = freeKeySlot s := rfl
theorem secIndex_goState : secIndex (goState s h) = secIndex s := rfl

/-- A request within an established session, which one of `f` answers. -/
theorem inSession_of_established {sid : Nat} (hest : established s sid = true) (f : State → State) :
    inSession (goState s h) sid f = mbxAnswer (f (goState s h)) .ack :=
  if_pos hest

/-- A vendor-defined command of an established session, its body of the right length. -/
theorem vendorRow_of_go (w : MailboxGo s h d) {sid : BitVec 16} (hest : established s sid.toNat = true) {body : List Byte}
    (hlen : body.length = n) (f : State → Nat → State) :
    vendorRow s (.host h d) sid body n f = .next (f (goState s h) sid.toNat) := by
  unfold vendorRow
  rw [goRow_of_go w, if_pos ⟨hest, hlen⟩]

/-! ### Words of a request's bytes -/

theorem leNat_lt (bs : List Byte) : leNat bs < 256 ^ bs.length := by
  induction bs with
  | nil => simp [leNat]
  | cons b bs ih =>
    have := b.isLt
    rw [leNat, List.length_cons, Nat.pow_succ]
    omega

theorem leBytes_leNat (bs : List Byte) : leBytes bs.length (leNat bs) = bs := by
  induction bs with
  | nil => rfl
  | cons b bs ih =>
    have hb := b.isLt
    have hrest : leNat (b :: bs) / 256 = leNat bs := by rw [leNat]; omega
    have hfirst : BitVec.ofNat 8 (leNat (b :: bs)) = b := by
      apply BitVec.eq_of_toNat_eq
      rw [BitVec.toNat_ofNat, leNat]
      omega
    rw [List.length_cons, leBytes, hfirst, hrest, ih]

/-- Eight bytes, as the word they make, are those bytes again. -/
theorem leBytes_word {bs : List Byte} (hlen : bs.length = 8) : leBytes 8 (BitVec.ofNat 64 (leNat bs)).toNat = bs := by
  have hlt := leNat_lt bs
  rw [hlen] at hlt
  rw [BitVec.toNat_ofNat, Nat.mod_eq_of_lt (by simpa using hlt)]
  exact hlen ▸ leBytes_leNat bs

/-- The four words of 32 bytes. -/
theorem bytesOfWords_of_32 {bs : List Byte} (hlen : bs.length = 32) :
    bytesOfWords ((List.range 4).map (fun i => BitVec.ofNat 64 (leNat (cut bs (8 * i) 8)))) = bs := by
  have hcut : ∀ i, i < 4 → leBytes 8 (BitVec.ofNat 64 (leNat (cut bs (8 * i) 8))).toNat = cut bs (8 * i) 8 := fun i hi =>
    leBytes_word (by simp [cut, hlen]; omega)
  have hjoin : ∀ k, 8 * (k + 1) ≤ 32 → cut bs (8 * k) 8 ++ bs.drop (8 * (k + 1)) = bs.drop (8 * k) := fun k _ => by
    rw [show 8 * (k + 1) = 8 * k + 8 by omega, ← List.drop_drop]
    exact List.take_append_drop 8 _
  have hend : bs.drop (8 * 4) = [] := List.drop_eq_nil_of_le (by simp [hlen])
  simp only [bytesOfWords, show List.range 4 = [0, 1, 2, 3] from rfl, List.map_cons, List.map_nil, List.flatMap_cons,
    List.flatMap_nil, hcut 0 (by omega), hcut 1 (by omega), hcut 2 (by omega), hcut 3 (by omega)]
  rw [← hend, hjoin 3 (by omega), hjoin 2 (by omega), hjoin 1 (by omega), hjoin 0 (by omega)]
  rfl

/-! ### A response -/

/-- The response's bytes put in the mailbox's data leave it a byte buffer. -/
theorem wf_response {n : Nat} (b : Nat → Byte) (l : List Nat) {m : Memory} (hm : m.wf = true) :
    (l.foldl (fun m i => if i < n then Memory.write m i (b i) else m) m).wf = true := by
  induction l generalizing m with
  | nil => exact hm
  | cons i l ih =>
    refine ih ?_
    dsimp only
    split
    · exact wf_write _ _ _ hm
    · exact hm

end

end Sys2Proof.Machine

open Sys2Proof Sys2Proof.Machine

/-- Settles O19: a write of the control word stores the claim or the release alone, and a response fills the mailbox alone. -/
theorem mailbox : Obligations.Mailbox := by
  unfold Obligations.Mailbox
  refine ⟨fun s h d => ⟨fun w hawake hd howner => ?_, fun w hawake hd howner => ?_, rfl⟩, fun s rsp => ?_⟩
  · change mbxRow s (.host h d) none = _
    rw [mbxRow_control w hawake hd (.inr ⟨howner, by decide⟩)]
    simp only [show (BitVec.ofNat 8 1).getLsbD 2 = false by decide, false_and, if_false, Bool.false_eq_true, setMbx_self]
  · change mbxRow s (.host h d) none = _
    rw [mbxRow_control w hawake hd (.inl howner)]
    simp only [show (BitVec.ofNat 8 4).getLsbD 2 = true by decide]
    rfl
  · refine ⟨rfl, rfl, rfl, rfl, rfl, by simp [mbxAnswer], by simp [mbxAnswer]; omega, rfl, by cases s; rfl, fun hwf => ?_⟩
    unfold mbxAnswer
    dsimp only [State.takeFree]
    exact wf_response _ _ hwf

/-- Settles O20: each request runs on the state its GO leaves, and its answer follows from the session it names. -/
theorem mailboxRequests : Obligations.MailboxRequests := by
  unfold Obligations.MailboxRequests
  refine ⟨fun s h d g w hg => ?_, fun s h d g w hg => ?_⟩
  · subst hg
    refine ⟨goRow_of_go w _, goRow_of_go w _, goRow_of_go w _, goRow_of_go w _, fun _ => goRow_of_go w _, goRow_of_go w _,
      goRow_of_go w _, fun i nonce hlen hi => ?_, fun i hi => ?_, fun i hi => ?_, ?_⟩
    · change (if nonce.length ≠ 32 then _ else _) = _
      rw [if_neg (by simp [hlen]), goRow_of_go w]
      simp only [sessionOk, Bool.not_true, Bool.false_eq_true, if_false, if_neg hi]
    · refine (goRow_of_go w _).trans ?_
      rw [if_neg]
      · rfl
      · rw [not_or]; exact ⟨by simp [sessionOk], Nat.not_le.mpr hi⟩
    · refine (goRow_of_go w _).trans ?_
      rw [if_pos (.inr hi)]
    · refine (goRow_of_go w _).trans ?_
      have howner : (goState s h).ntc.mbx.owner = some (true, 0) := w.owner
      simp only [howner, State.setMbx]
      simp only [w.owner]
      rfl
  · subst hg
    refine ⟨fun sid hroom hnew => ?_, fun sid key x hx hopen => ?_, fun sid hest => ⟨?_, ?_, ?_⟩, fun sid => rfl,
      fun chunk hlen hsum => ?_⟩
    · refine (goRow_of_go w _).trans ?_
      have hfree : openSession (goState s h) sid.toNat = none := by
        rw [openSession_goState]
        unfold openSession
        rw [List.find?_eq_none]
        simpa using hnew
      rw [if_pos ⟨hroom, by rw [hfree]; rfl⟩]
      rfl
    · refine (goRow_of_go w _).trans ?_
      have hfound : openSession (goState s h) sid.toNat = some x := hx
      simp only [hfound, hopen, Bool.false_eq_true, if_false]
      rfl
    · exact (goRow_of_go w _).trans (congrArg _ (inSession_of_established hest _))
    · exact (goRow_of_go w _).trans (congrArg _ (inSession_of_established hest _))
    · exact (goRow_of_go w _).trans (congrArg _ (inSession_of_established hest _))
    · refine (goRow_of_go w _).trans ?_
      rw [if_neg]
      · rfl
      · simp only [sessionOk, not_or]
        exact ⟨by simp, Nat.not_lt.mpr hlen, Nat.not_lt.mpr hsum⟩

/-- Settles O21: each command of an established session publishes its entry, or is answered at once. -/
theorem vendorCommands : Obligations.VendorCommands := by
  unfold Obligations.VendorCommands
  intro s h d sid w hest
  refine ⟨fun body k hlen howner hfree => ?_, fun body hlen howner => ?_, fun body k hlen hk hk2 howner => ?_,
    fun body hlen hreq => ?_, fun body hlen => ?_, fun body n hlen hn hlow hhigh hzero => ?_⟩
  · change execVendorKeyInstall _ _ _ _ = _
    have hrest : (body.drop 4).take 224 = body.drop 4 := List.take_of_length_le (by simp [hlen])
    unfold execVendorKeyInstall
    rw [vendorRow_of_go w hest hlen]
    simp only [cut, List.drop_zero, ownerSession_goState, howner, freeKeySlot_goState, hfree, secIndex_goState, hrest,
      Bool.not_true, Bool.false_eq_true, if_false]
  · change execVendorKeyInstall _ _ _ _ = _
    unfold execVendorKeyInstall
    rw [vendorRow_of_go w hest hlen]
    simp only [cut, List.drop_zero, ownerSession_goState, howner, Bool.not_false, if_true, vendorAnswer]
  · change execVendorKeyRevoke _ _ _ _ = _
    have hslot : (goState s h).slot k = s.slot k := rfl
    unfold execVendorKeyRevoke
    rw [vendorRow_of_go w hest hlen]
    simp only [← hk, hslot, ownerSession_goState, howner, Bool.not_true, Bool.false_eq_true, and_false, if_false]
  · change execVendorSeal _ _ _ _ = _
    unfold execVendorSeal
    rw [vendorRow_of_go w hest hlen]
    simp only [requesterOf_goState, Option.isNone_eq_false_iff.mpr hreq, Bool.false_eq_true, if_false]
  · change ∃ ws, execVendorReport _ _ _ _ = _ ∧ _
    unfold execVendorReport
    rw [vendorRow_of_go w hest hlen]
    have hheader : opOf (headerWord 0xC3 7) = 0xC3 ∧ lenOf (headerWord 0xC3 7) = 7 := by decide
    exact ⟨_, rfl, rfl, hheader.1, hheader.2, bytesOfWords_of_32 hlen⟩
  · change execLogRead _ _ _ _ = _
    have hpart : ∀ p, (goState s h).part p = s.part p := fun _ => rfl
    have hstatus : leBytes 2 ST_OK.toNat = [0, 0] := by decide
    unfold execLogRead
    rw [vendorRow_of_go w hest hlen]
    simp only [cut, List.drop_zero, List.take_of_length_le (l := body.drop 8) (i := 2) (by simp [hlen]), ← hn, hzero, hpart,
      hstatus]
    rw [if_neg (by omega)]

end


section

/-! ## The management port (R313, R335, R411, R412) and the debug side (R414, R415) -/

namespace Sys2Proof.Machine

section
variable {s : State}

theorem not_behind_of_empty {t : State} (h : t.bsn.held = []) (k : Nat) : behind t k = false := by
  simp [behind, h]

/-- A read of the management port whose page is awake and that nothing holds back. -/
theorem mgmtRead_of_awake {addr p : Nat} (hpage : mgmtPage (addr / 4096) = some p) (halign : addr % 4 = 0)
    (hheld : s.bsn.held = []) (hawake : pageAwake (count s pgMGT 0) (mgmtNeeds (count s pgMGT 0) p (addr % 4096)) = true) :
    mgmtRead s addr = doMgmtRead (count s pgMGT 0) addr := by
  unfold mgmtRead
  simp only [hpage, halign, ne_eq, not_true_eq_false, if_false, hawake,
    not_behind_of_empty (t := count s pgMGT 0) (by simpa using hheld)]
  simp

/-- A read of WIN_DATA. -/
theorem mgtWinData_of_awake (hpor : s.bsn.porAsserted = false) (hblk : s.bsn.blkAsserted = false) (hheld : s.bsn.held = [])
    (hawake : pageAwake (count s pgMGT 0) (mgmtNeeds (count s pgMGT 0) pgMGT 0x104) = true) :
    exec .mgtWinData s = .next (let r := windowRead (count s pgMGT 0); mgmtAnswer r.1 r.2) := by
  change execMgtWinData s = _
  have hpage : mgmtPage (0x5104 / 4096) = some pgMGT := by decide
  have hreads : mgmtReads pgMGT 0x104 = true := by decide
  unfold execMgtWinData
  rw [if_neg (by simp [inReset, hpor, hblk]), mgmtRead_of_awake hpage (by decide) hheld hawake]
  unfold doMgmtRead
  simp only [hpage, hreads, Nat.reduceMod, Bool.not_true, Bool.false_eq_true, if_false, and_self, if_true]

theorem alwaysOn_mgt {t : State} : pageAwake t pgMGT = true := rfl

/-- Where the block runs, or the selected register needs nothing but the page itself, WIN_DATA needs no other page. -/
theorem mgmtNeeds_window {t : State} : mgmtNeeds t pgMGT 0x104 =
    if (windowWorks t && mapped (t.mgt.winSel.toNat / 4096) && !(t.mgt.winSel.toNat % 4096 == 0x000 ||
      t.mgt.winSel.toNat % 4096 == 0x004 || t.mgt.winSel.toNat % 4096 == 0x00C)) = true
    then t.mgt.winSel.toNat / 4096 else pgMGT := rfl

theorem windowWorks_iff {t : State} :
    windowWorks t = true ↔ t.swb.boot = .halted ∨ t.swb.boot = .failed ∨ t.swb.boot = .recovery := by
  simp [windowWorks, or_assoc]

/-- The window's read of a register it shows. -/
theorem windowRead_works {q o : Nat} (hworks : windowWorks s = true) (hq : q = s.mgt.winSel.toNat / 4096)
    (ho : o = s.mgt.winSel.toNat % 4096) (hopen : (!mapped q || (q == pgDBG && o != 0x104)) = false) :
    windowRead s = ({ count s pgMGT 3 with freeCtr := s.freeCtr + 1 }, read32 (count s pgMGT 3) .operator q o s.freeCtr) := by
  unfold windowRead
  dsimp only
  rw [show windowWorks (count s pgMGT 3) = true from hworks]
  rw [show (count s pgMGT 3).mgt = s.mgt from rfl, ← hq, ← ho, hopen]
  rfl

/-- Its read of a page that is not mapped, or of the debug page beyond DBG_AUTH_STATUS. -/
theorem windowRead_blank {q o : Nat} (hworks : windowWorks s = true) (hq : q = s.mgt.winSel.toNat / 4096)
    (ho : o = s.mgt.winSel.toNat % 4096) (hclosed : (!mapped q || (q == pgDBG && o != 0x104)) = true) :
    windowRead s = (count s pgMGT 3, 0) := by
  unfold windowRead
  dsimp only
  rw [show windowWorks (count s pgMGT 3) = true from hworks]
  rw [show (count s pgMGT 3).mgt = s.mgt from rfl, ← hq, ← ho, hclosed]
  rfl

theorem windowRead_refused (hworks : windowWorks s = false) :
    windowRead s = ({ count s pgMGT 3 with mgt := { s.mgt with winRefused := true } }, 0) := by
  unfold windowRead
  dsimp only
  rw [show windowWorks (count s pgMGT 3) = false from hworks]
  rfl

/-- VLD_RACK_BUDGET waits for the next window. -/
theorem rackBudgetWrite_awake (hpor : s.bsn.porAsserted = false) (hblk : s.bsn.blkAsserted = false) (hheld : s.bsn.held = [])
    (hspine : s.bsn.spineAwake = true) (d : W32) :
    exec (.rackBudgetWrite (.mgmt 0x1104 d 0xF)) s =
      .next (emit { count s pgMGT 1 with
        vld := { s.vld with
          lastRack := s.now,
          late := s.vld.late ++ [{ off := 0x104, sel := 0, data := BitVec.ofNat 64 d.toNat, cover := 0xFFFFFFFF }] } }
        (.mgmtResp false 0)) := by
  have haddr : (0x1104 : BitVec 16).toNat = 0x1104 := by decide
  have hpage : mgmtPage (0x1104 / 4096) = some pgVLD := by decide
  have hwrites : mgmtWrites pgVLD 0x104 = true := by decide
  have hword : writesWord (.mgmt 0x1104 d 0xF) pgVLD 0x104 = some d.toNat := by
    simp only [writesWord, haddr, hpage]; exact if_pos (by decide)
  have hdata : fld (BitVec.ofNat 64 (d.toNat * 2 ^ 32)) 63 32 = d.toNat := by
    have := d.isLt
    simp only [fld, bitsN, BitVec.toNat_ofNat, Nat.shiftRight_eq_div_pow]; omega
  have hput : ∀ w, put64 (count s pgMGT 1) .management pgVLD 0x100 w false true [] =
      putRack (count s pgMGT 1) (BitVec.ofNat 64 (fld w 63 32)) := fun _ => rfl
  have hawake : pageAwake (count s pgMGT 1) pgVLD = true := hspine
  have hbehind : behind (count s pgMGT 1) (viewKey .management 0) = false := not_behind_of_empty (by exact hheld) _
  have hstrobe : (0xF : BitVec 4).toNat = 15 := by decide
  have hoff : (pgVLD * 4096 + 256) / 4096 = pgVLD ∧ (pgVLD * 4096 + 256) % 4096 = 0x100 := by decide
  change execRackBudgetWrite (.mgmt 0x1104 d 0xF) s = _
  unfold execRackBudgetWrite writeRow
  rw [hword]
  simp only [if_true, regWrite, inReset, hpor, hblk, Bool.or_self, Bool.false_eq_true, if_false, haddr]
  unfold mgmtWrite
  simp only [hpage, hstrobe, Nat.reduceMod, ne_eq, not_true_eq_false, or_self, hwrites, Bool.not_true, Bool.false_eq_true,
    if_false]
  unfold acceptWrite doWrite putBeats
  simp only [beatPage, List.foldl_cons, List.foldl_nil, Nat.reduceDiv, Nat.reduceMul, hoff, hawake, hbehind, Bool.not_true,
    Bool.or_self, Bool.false_eq_true, if_false, decide_true, if_true, hput, hdata]
  rfl

/-- The timebase's lower half, its upper half latched. -/
theorem mgmtLatchRead_timebase (hpor : s.bsn.porAsserted = false) (hblk : s.bsn.blkAsserted = false)
    (hheld : s.bsn.held = []) :
    exec (.mgmtLatchRead 0x3108) s =
      .next (emit { count s pgMGT 0 with
          freeCtr := s.freeCtr + 1,
          mgt := { s.mgt with latch := some (0x26108, (s.timebase >>> 32).setWidth 32) } }
        (.mgmtResp false (s.timebase.setWidth 32))) := by
  have haddr : (0x3108 : BitVec 16).toNat = 0x3108 := by decide
  have hpage : mgmtPage (0x3108 / 4096) = some pgBSN := by decide
  have hreads : mgmtReads pgBSN 0x108 = true := by decide
  have hread : ∀ (t : State) f, read64 t .management pgBSN 0x108 f = t.timebase.toNat := fun t _ =>
    Nat.mod_eq_of_lt t.timebase.isLt
  have hwide : is64 pgBSN 0x108 = true := by decide
  have hhigh : BitVec.ofNat 32 (s.timebase.toNat / 2 ^ 32) = (s.timebase >>> 32).setWidth 32 := by
    apply BitVec.eq_of_toNat_eq; simp [Nat.shiftRight_eq_div_pow]
  have hlow : BitVec.ofNat 32 (s.timebase.toNat % 2 ^ 32) = s.timebase.setWidth 32 := by
    apply BitVec.eq_of_toNat_eq; simp
  change execMgmtLatchRead 0x3108 s = _
  unfold execMgmtLatchRead
  rw [if_neg (by simp [inReset, hpor, hblk]), haddr, mgmtRead_of_awake hpage (by decide) hheld rfl]
  unfold doMgmtRead
  rw [hpage]
  simp only [Nat.reduceMod, hreads, Bool.not_true, Bool.false_eq_true, if_false, State.takeFree, hwide, if_true, hread]
  rw [if_neg (by decide)]
  simp only [mgmtAnswer, ← hhigh, ← hlow]
  rfl

/-- A tenant's read of the debug page is refused (R415). -/
theorem refusedRead_debugPage {h : HostReq} {d : Word} (hpor : s.bsn.porAsserted = false) (hblk : s.bsn.blkAsserted = false)
    (hheld : s.bsn.held = []) (hcls : h.cls = 0#2) (hbit : h.bit15 = false) (hsingle : h.single = true)
    (hsize : h.size = 4) (haddr : h.addr.toNat = 0x1029100) :
    exec (.refusedRegisterRead (.host h d)) s =
      .next (emit { count s pgHFE 7 with freeCtr := s.freeCtr + 1 } (.hostData h.id 2 0 true)) := by
  have hregion : hostRegion h.addr.toNat = .register := hostRegion_register (by omega) (by omega)
  have hword : wordBeat h = true := by simp [wordBeat, hsize, haddr]
  have hfault : hostFault h false = none := by
    simp [hostFault, badRequester, badOperator, formOk, burstOk, hregion, hcls, hbit, hsingle, hword]
  have hmore : h.more = [] := by simpa [HostReq.single, List.isEmpty_iff] using hsingle
  have hview : hostView h = .tenant h.ctx.toNat := by simp [hostView, hcls]
  have hrefused : ∀ w st, allowedBeat s (.tenant h.ctx.toNat) false (regBeat 4 false (0x1029100, w, st)) = false := fun w st => by
    have hpage : (regBeat 4 false (0x1029100, w, st)).off / 4096 = pgDBG := by
      change (0x1029100 - 0x1000000) / 8 * 8 / 4096 = 0x29
      rfl
    simp only [allowedBeat, refusedHost, hpage, isTenant, beq_self_eq_true, Bool.or_true, Bool.true_and, Bool.true_or,
      Bool.not_true]
  change execRefusedRegisterRead (.host h d) s = _
  unfold execRefusedRegisterRead
  rw [if_neg (by simp [inReset, hpor, hblk])]
  simp only [hfault, hostRead, hregion]
  simp only [hostRegRead, hview, hostBeats, hmore, hsize, haddr, List.zipIdx_nil, List.map_nil, List.map_cons, hrefused,
    Bool.false_eq_true, if_false]
  simp only [acceptRead, List.all_cons, List.all_nil, quickBeat, Bool.and_self, if_true, hostReply, readOuts, List.isEmpty_nil]
  rw [if_neg (by rw [Bool.not_eq_true]; exact not_behind_of_empty (by exact hheld) _)]
  rfl

/-- A write of DBG_AUTH_CTRL through the debug port, its access answered where the debug view is open behind it. -/
theorem writeRow_debugControl (hpor : s.bsn.porAsserted = false) (hblk : s.bsn.blkAsserted = false) (hheld : s.bsn.held = [])
    (d : Word) {ok : Nat → Bool} (hok : ok (fld d 31 0) = true) :
    writeRow s (.debug 0x29100 false d) pgDBG 0x100 ok [] =
      .next (debugAnswer (putDBG s .debug 0x100 (BitVec.ofNat 64 (fld d 31 0))) false 0) := by
  have haddr : (0x29100 : BitVec 20).toNat = 0x29100 := by decide
  have hword : writesWord (.debug 0x29100 false d) pgDBG 0x100 = some (fld d 31 0) := by
    simp only [writesWord, haddr]; exact if_pos (by decide)
  have hrefused : refusedDebug s 0x29100 = false := by
    have hpage : mapped (0x29100 / 4096) = true ∧ (0x29100 / 4096 != pgDBG) = false := by decide
    simp [refusedDebug, hpage]
  have hbeat : wordBeatAt 0x29100 false d = ⟨0x29100, d, true, false⟩ := rfl
  have hpage : 0x29100 / 4096 = pgDBG ∧ 0x29100 % 4096 = 0x100 := by decide
  have hput : put64 s .debug pgDBG 0x100 d true false [] = putDBG s .debug 0x100 (BitVec.ofNat 64 (fld d 31 0)) := rfl
  unfold writeRow
  rw [hword]
  simp only [hok, if_true, regWrite, inReset, hpor, hblk, Bool.or_self, Bool.false_eq_true, if_false, haddr]
  unfold debugWrite alignedWrite acceptWrite doWrite putBeats
  have hbehind : behind s (viewKey .debug 0) = false := not_behind_of_empty hheld _
  have hawake : pageAwake s pgDBG = true := rfl
  simp only [hrefused, show natural 0x29100 false = true by decide, Bool.not_true, Bool.or_self, Bool.false_eq_true, if_false,
    hbeat, beatPage, hpage, List.foldl_cons, List.foldl_nil, hput, hbehind, hawake, writeAnswer]

/-- Where the debug view is closed an access through the instrument shows nothing. -/
theorem debugAnswer_closed (h : s.dbg.st ≠ .open) (err : Bool) (n : Nat) : debugAnswer s err n = s := by
  simp [debugAnswer, debugOpen, h]

theorem putDBG_control (d : Word) : putDBG s .debug 0x100 d =
    (let s1 := if bitAt d 0 then authNew s else s
     let s2 := if bitAt d 1 then authCheck s1 else s1
     if bitAt d 2 then authClose s2 else s2) := rfl

theorem authNew_fresh (h : s.dbg.st = .idle ∨ s.dbg.st = .challenged) :
    authNew s = { s with freeCtr := s.freeCtr + 1,
                         dbg := { s.dbg with st := .challenged, nonce := freeBytes s.freeCtr 48 } } := by
  rcases h with h | h <;> simp [authNew, h, State.takeFree]

theorem authCheck_challenged (h : s.dbg.st = .challenged) : authCheck s = { s with dbg := { s.dbg with st := .checking true } } := by
  simp [authCheck, h]

theorem authClose_open (h : s.dbg.st = .open) : authClose s = { s with dbg := { s.dbg with st := .idle } } := by
  simp [authClose, debugOpen, h]

theorem authClose_st (s : State) :
    authClose s = { s with dbg := { s.dbg with st := if s.dbg.st = .open then .idle else s.dbg.st } } := by
  by_cases h : s.dbg.st = .open
  · rw [authClose_open h, if_pos h]
  · rw [if_neg h]; exact if_neg (by simpa [debugOpen] using h)

/-- What the instrument shows of 64 bits read without an error. -/
theorem instrResult_read {dr data : Nat} (hdata : data < 2 ^ 64) :
    (instrResult dr 0 1 data).getLsbD 86 = true ∧ (instrResult dr 0 1 data).getLsbD 87 = false ∧
      bitsN (instrResult dr 0 1 data).toNat 85 22 = data := by
  have hlow := Nat.mod_lt dr (show 2 ^ 22 > 0 by decide)
  have hval : (instrResult dr 0 1 data).toNat = 2 ^ 86 + (data * 2 ^ 22 + dr % 2 ^ 22) := by
    simp only [instrResult, BitVec.toNat_ofNat]; omega
  refine ⟨?_, ?_, ?_⟩
  · rw [BitVec.getLsbD, hval, Nat.testBit_eq_decide_div_mod_eq, decide_eq_true_eq]; omega
  · rw [BitVec.getLsbD, hval, Nat.testBit_eq_decide_div_mod_eq, decide_eq_false_iff_not]; omega
  · rw [bitsN, hval, Nat.shiftRight_eq_div_pow]; omega

/-- The open debug view's read of the timebase. -/
theorem debugRead_timebase (hheld : s.bsn.held = []) (hopen : s.dbg.st = .open) :
    debugRead s 0x26108 true =
      (let r := instrResult s.dbg.dr.toNat 0 1 s.timebase.toNat
       emit { s with freeCtr := s.freeCtr + 1, dbg := { s.dbg with dr := r } } (.jtagResult r)) := by
  have hpage : 0x26108 / 4096 = pgBSN ∧ 0x26108 % 4096 = 0x108 ∧ mapped pgBSN = true ∧ (pgBSN == pgSTP) = false := by decide
  have hread : ∀ (t : State) f, read64 t .debug pgBSN 0x108 f = t.timebase.toNat := fun t _ =>
    Nat.mod_eq_of_lt t.timebase.isLt
  have hawake : pageAwake s pgBSN = true := rfl
  unfold debugRead
  rw [if_neg (by simp [refusedDebug, hpage, debugOpen, hopen])]
  simp only [hpage, hawake, not_behind_of_empty hheld, ciBlocked, Bool.not_true, Bool.false_and, Bool.or_self, Bool.false_eq_true,
    if_false]
  unfold doDebugRead
  simp only [hpage, State.takeFree, if_true, hread]
  exact if_pos (by simp [debugOpen, hopen])

/-- The timebase, read through the instrument by an open debug view. -/
theorem instrument_timebase (hpor : s.bsn.porAsserted = false) (hblk : s.bsn.blkAsserted = false) (hheld : s.bsn.held = [])
    (hopen : s.dbg.st = .open) (m : MemView) :
    ∃ dr, exec (.registerAccessInstrument (BitVec.ofNat 88 (2 ^ 21 + 0x26108)) m) s =
      .next (let r := instrResult dr 0 1 s.timebase.toNat
        emit { s with freeCtr := s.freeCtr + 1, dbg := { s.dbg with tap := .network, dr := r } } (.jtagResult r)) := by
  have hoff : bitsN (BitVec.ofNat 88 (2 ^ 21 + 0x26108)).toNat 19 0 = 0x26108 := by decide
  have hwide : (BitVec.ofNat 88 (2 ^ 21 + 0x26108)).getLsbD 21 = true := by decide
  have hwrite : (BitVec.ofNat 88 (2 ^ 21 + 0x26108)).getLsbD 20 = false := by decide
  refine ⟨(BitVec.ofNat 88 ((BitVec.ofNat 88 (2 ^ 21 + 0x26108)).toNat % 2 ^ 22)).toNat, ?_⟩
  change execRegisterAccessInstrument _ m s = _
  unfold execRegisterAccessInstrument
  rw [if_neg (by simp [inReset, hpor, hblk, debugOpen, hopen])]
  simp only [hoff, hwide, hwrite, show natural 0x26108 true = true by decide, Bool.not_true, Bool.false_eq_true, if_false]
  rw [debugRead_timebase (by exact hheld) (by exact hopen)]

end

end Sys2Proof.Machine

open Sys2Proof Sys2Proof.Machine

/-- Settles O15: one access each, by the port's own rule for what it names. -/
theorem managementAccesses : Obligations.ManagementAccesses := by
  unfold Obligations.ManagementAccesses
  intro s hpor hblk hheld hspine
  have hreset : inReset s = false := by simp [inReset, hpor, hblk]
  refine ⟨fun d => ?_, fun d hlate => ?_, ?_, fun q o hboot hq ho hmapped hdbg hawake => ?_,
    fun q o hboot hq ho hnone => ?_, fun h1 h2 h3 => ?_, fun h d hcls hbit _ hsingle hsize haddr => ?_⟩
  · exact rackBudgetWrite_awake hpor hblk hheld hspine d
  · simp [applyWrites, hlate, applyVld, fld, bitsN]
  · exact mgmtLatchRead_timebase hpor hblk hheld
  · have hworks : windowWorks (count s pgMGT 0) = true := windowWorks_iff.mpr hboot
    have hpage : pageAwake (count s pgMGT 0) (mgmtNeeds (count s pgMGT 0) pgMGT 0x104) = true := by
      rw [mgmtNeeds_window]; split
      · exact hq ▸ hawake
      · rfl
    have hopen : (!mapped q || (q == pgDBG && o != 0x104)) = false := by
      simp only [hmapped, Bool.not_true, Bool.false_or, Bool.and_eq_false_imp, beq_iff_eq, bne_eq_false_iff_eq]; exact hdbg
    rw [mgtWinData_of_awake hpor hblk hheld hpage, windowRead_works (by exact hworks) (by exact hq) (by exact ho) hopen]
    rfl
  · have hworks : windowWorks (count s pgMGT 0) = true := windowWorks_iff.mpr hboot
    have hpage : pageAwake (count s pgMGT 0) (mgmtNeeds (count s pgMGT 0) pgMGT 0x104) = true := by
      rw [mgmtNeeds_window]; split
      · rename_i hneeds
        rcases hnone with hnone | ⟨hdbg, -⟩
        · simp [← hq, hnone] at hneeds
        · rw [show (count s pgMGT 0).mgt.winSel.toNat / 4096 = pgDBG from hq.symm.trans hdbg]; rfl
      · rfl
    have hclosed : (!mapped q || (q == pgDBG && o != 0x104)) = true := by
      rcases hnone with hnone | ⟨hdbg, ho4⟩
      · simp [hnone]
      · simp [hdbg, ho4]
    rw [mgtWinData_of_awake hpor hblk hheld hpage, windowRead_blank (by exact hworks) (by exact hq) (by exact ho) hclosed]
    rfl
  · have hworks : windowWorks (count s pgMGT 0) = false := by
      rw [Bool.eq_false_iff, ne_eq, windowWorks_iff]; simp [h1, h2, h3]
    have hpage : pageAwake (count s pgMGT 0) (mgmtNeeds (count s pgMGT 0) pgMGT 0x104) = true := by
      rw [mgmtNeeds_window, hworks]; rfl
    rw [mgtWinData_of_awake hpor hblk hheld hpage, windowRead_refused (by exact hworks)]
    rfl
  · exact refusedRead_debugPage hpor hblk hheld hcls hbit hsingle hsize haddr

/-- Settles O16: a write of DBG_AUTH_CTRL does what its bit says, and an access through the instrument shows its result. -/
theorem debugAuthentication : Obligations.DebugAuthentication := by
  unfold Obligations.DebugAuthentication
  intro s hpor hblk hheld
  refine ⟨fun hst => ?_, fun hst => ?_, fun b hst hpass => ?_,
    fun b hst hfail => ?_, fun hst => ?_, ?_, fun m hst => ?_⟩
  · refine (writeRow_debugControl (ok := hasBit 0) hpor hblk hheld 1 (by decide)).trans ?_
    rw [putDBG_control]
    simp only [show bitAt (BitVec.ofNat 64 (fld 1 31 0)) 0 = true by decide,
      show bitAt (BitVec.ofNat 64 (fld 1 31 0)) 1 = false by decide,
      show bitAt (BitVec.ofNat 64 (fld 1 31 0)) 2 = false by decide, if_true, Bool.false_eq_true, if_false]
    rw [authNew_fresh hst, debugAnswer_closed (by simp)]
  · refine (writeRow_debugControl (ok := hasBit 1) hpor hblk hheld 2 (by decide)).trans ?_
    rw [putDBG_control]
    simp only [show bitAt (BitVec.ofNat 64 (fld 2 31 0)) 0 = false by decide,
      show bitAt (BitVec.ofNat 64 (fld 2 31 0)) 1 = true by decide,
      show bitAt (BitVec.ofNat 64 (fld 2 31 0)) 2 = false by decide, if_true, Bool.false_eq_true, if_false]
    rw [authCheck_challenged hst, debugAnswer_closed (by simp)]
  · change execAuthResult s = _
    simp only [execAuthResult, hst, hpass, if_true]
  · change execAuthResult s = _
    simp only [execAuthResult, hst, if_neg hfail]
  · refine (writeRow_debugControl (ok := hasBit 2) hpor hblk hheld 4 (by decide)).trans ?_
    rw [putDBG_control]
    simp only [show bitAt (BitVec.ofNat 64 (fld 4 31 0)) 0 = false by decide,
      show bitAt (BitVec.ofNat 64 (fld 4 31 0)) 1 = false by decide,
      show bitAt (BitVec.ofNat 64 (fld 4 31 0)) 2 = true by decide, if_true, Bool.false_eq_true, if_false]
    rw [authClose_open hst, debugAnswer_closed (by simp)]
  · change execTestReset s = _
    unfold execTestReset
    rw [authClose_st]
  · obtain ⟨dr, hrun⟩ := instrument_timebase hpor hblk hheld hst m
    obtain ⟨h86, h87, hdata⟩ := instrResult_read (dr := dr) s.timebase.isLt
    exact ⟨_, _, hrun, rfl, rfl, rfl, h86, h87, hdata⟩

end


section

/-! ## The producer index and the entry behind it (R102, R109, R113) -/

namespace Sys2Proof.Machine

section
variable {s : State} {q : Nat}

/-- A completed access frees its port: no more than the requests on the ports and what leaves on them changes. -/
theorem landed_eq (s : State) (who : Access) : ∃ out flights, landed s who = { s with out := out, flights := flights } := by
  unfold landed
  split
  · exact ⟨_, _, rfl⟩
  · exact ⟨_, _, rfl⟩

/-- What the fetch of the entry at CI leaves. -/
structure EntryAsked (s t : State) (q : Nat) (ps : List (Nat × Nat × Nat)) : Prop where
  queue : t.queue q = { s.queue q with fetched := true, entryRead := true,
                                       history := (s.queue q).history.set (s.queue q).histNext (ringSlot (s.queue q)),
                                       histNext := ((s.queue q).histNext + 1) % 8 }
  others : ∀ k, k ≠ q → t.queue k = s.queue k
  out : t.out = s.out ++ readsOf s (s.queue q).home ps
  flights : t.flights = s.flights ++ [⟨(s.queue q).home, .queue q .entryRead, readsOf s (s.queue q).home ps, true⟩]
  ctxs : ∀ c, { t.ctx c with lastAdv := (s.ctx c).lastAdv } = s.ctx c
  rest : { t with queues := s.queues, out := s.out, flights := s.flights, pages := s.pages, ctxs := s.ctxs } = s

theorem issueFetch_asks {ps : List (Nat × Nat × Nat)} (hps : qPieces s q (entryAddr (s.queue q)) 64 false = .ok ps)
    (hroom : portRoom s (s.queue q).home = true) : EntryAsked s (issueFetch s q) q ps := by
  have hadvance : ∀ c i, { (advance s c).ctx i with lastAdv := (s.ctx i).lastAdv } = s.ctx i := by
    intro c i
    by_cases h : i = c
    · subst h; simp [advance]
    · simp [advance, h]
  unfold issueFetch
  simp only [hps, portQ]
  rw [issue_of_room]
  · split
    · exact ⟨by simp [State.queue, State.setQueue], fun k hk => by simp [State.queue, State.setQueue, hk], by simp, by simp,
        fun _ => rfl, by cases s; rfl⟩
    · exact ⟨by simp [State.queue, State.setQueue], fun k hk => by simp [State.queue, State.setQueue, advance, hk], by simp [advance], by simp [advance], hadvance _,
        by cases s; rfl⟩
  · split <;> exact hroom

/-- A queue whose index shows an entry, and which owes no read, fetches the entry. -/
theorem pump_fetches (hst : (s.queue q).st = .enabled) (hhold : (s.queue q).hold = false) (hfetched : (s.queue q).fetched = false)
    (hread : (s.queue q).piRead = .none) (hmay : mayRead s q = true) (hfresh : (s.queue q).freshDue = false)
    (hpoll : (s.queue q).pollHeld = false) (hseen : (s.queue q).piSeen ≠ (s.queue q).ci) : pump s q = issueFetch s q := by
  obtain ⟨hlive, hup, hpaused⟩ := mayRead_iff.mp hmay
  simp [pump, wantsRead, hst, hhold, hfetched, hread, hlive, hup, hpaused, hfresh, hpoll, hseen]

/-- One that owes no read and shows no entry reads nothing. -/
theorem pump_of_no_want (h : wantsRead (s.queue q) = false) : pump s q = s := by
  simp [pump, h]

/-- A poll that falls due at an idle queue: its read of the producer index is the pump's. -/
theorem pollDue_idle {qb : BitVec 18} (hst : (s.queue qb.toNat).st = .enabled) (hhold : (s.queue qb.toNat).hold = false)
    (hfetched : (s.queue qb.toNat).fetched = false) (hmay : mayRead s qb.toNat = true)
    (hdue : pollTime s (s.queue qb.toNat) = true) (hwait : (s.queue qb.toNat).wait = false) :
    exec (.pollDue qb) s =
      .next (pump (s.setQueue qb.toNat { s.queue qb.toNat with pollHeld := true }) qb.toNat) := by
  obtain ⟨hlive, hup, hpaused⟩ := mayRead_iff.mp hmay
  change execPollDue qb s = _
  simp [execPollDue, hst, hlive, hdue, hpaused, hwait, pollPi, hhold, hfetched, wakeFor, hup]

/-- An index within the ring's size that comes back is recorded, and the queue goes on. -/
theorem piReadReturn_in_range {qb : BitVec 18} {w : Word} {u : State} (hu : u = landed s (.queue qb.toNat .piRead))
    (hlive : u.halted = false) (hread : (u.queue qb.toNat).piRead = .plain) (hst : (u.queue qb.toNat).st = .enabled)
    (hrange : (w.setWidth 32 - (u.queue qb.toNat).ci : W32).toNat ≤ 2 ^ (u.queue qb.toNat).log2) :
    ∃ t, exec (.piReadReturn qb (some w)) s = .next (pump t qb.toNat) ∧
      t.queue qb.toNat = { u.queue qb.toNat with piRead := .none, piSeen := w.setWidth 32 } ∧
      (∀ k, k ≠ qb.toNat → t.queue k = u.queue k) ∧ { t with queues := u.queues } = u := by
  have hw : BitVec.ofNat 32 w.toNat = w.setWidth 32 := by apply BitVec.eq_of_toNat_eq; simp
  refine ⟨(u.setQueue qb.toNat { u.queue qb.toNat with piRead := .none }).setQueue qb.toNat
    { u.queue qb.toNat with piRead := .none, piSeen := w.setWidth 32 }, ?_, by simp, fun k hk => by simp [hk], by cases u; rfl⟩
  change execPiReadReturn qb (some w) s = _
  unfold execPiReadReturn
  simp only [← hu, hread, hst, hw, reduceCtorEq, if_false, false_and, hlive, ne_eq, not_true_eq_false,
    Bool.false_eq_true, hrange, if_true, queue_setQueue]

end

end Sys2Proof.Machine

open Sys2Proof Sys2Proof.Machine

/-- Settles O22: the poll's read, and a returned index that shows no entry or one, are the pump's reads and fetches. -/
theorem producerIndex : Obligations.ProducerIndex := by
  unfold Obligations.ProducerIndex
  intro s q r u hr hst hhold hfetched hpoll hfresh hmay hu
  subst hr
  refine ⟨fun ps hpos hdue hread hwait hroom hps => ?_, fun hread hpend => ?_, fun w ps hread hne hrange hroom hps => ?_⟩
  · have htime : pollTime s (s.queue q.toNat) = true := by
      simp [pollTime, State.now, hdue]; omega
    let s1 := s.setQueue q.toNat { s.queue q.toNat with pollHeld := true }
    have hs1 : s1 = s.setQueue q.toNat { s.queue q.toNat with pollHeld := true } := rfl
    have hq : s1.queue q.toNat = { s.queue q.toNat with pollHeld := true } := by simp [hs1]
    have hasked : PiAsked s1 (issuePi s1 q.toNat) q.toNat ps :=
      issuePi_asks (by rw [hq, hs1, qPieces_setQueue (by rfl) (by rfl)]; exact hps) (by rw [hq]; exact hroom)
    have hpump : pump s1 q.toNat = issuePi s1 q.toNat :=
      pump_reads (by rw [hq]; exact hst) (by rw [hq]; exact hhold) (by rw [hq]; exact hfetched) (by rw [hq]; exact hread)
        (by rw [mayRead_iff, hq]; exact mayRead_iff.mp hmay) (by rw [hq]; exact .inr rfl)
    have hrest := hasked.rest
    refine ⟨_, (pollDue_idle hst hhold hfetched hmay htime hwait).trans (congrArg _ hpump), ?_, ?_, ?_, ?_, ?_⟩
    · rw [hasked.queue, hq]; simp [hfresh, hpoll]
    · rw [hasked.out, hq]; rfl
    · rw [hasked.flights, hq]; rfl
    · generalize issuePi s1 q.toNat = t at hrest ⊢
      calc { t with queues := s.queues, out := s.out, flights := s.flights, pages := s.pages }
          = { ({ t with queues := s1.queues, out := s1.out, flights := s1.flights, pages := s1.pages } : State) with
              queues := s.queues } := rfl
        _ = { s1 with queues := s.queues } := by rw [hrest]
        _ = s := by cases s; rfl
    · intro k hk; rw [hasked.others k hk, hs1]; simp [hk]
  · obtain ⟨out, flights, hland⟩ := landed_eq s (.queue q.toNat .piRead)
    have hword : (BitVec.ofNat 64 (s.queue q.toNat).ci.toNat).setWidth 32 = (s.queue q.toNat).ci := by
      apply BitVec.eq_of_toNat_eq
      simp
    rw [hland] at hu
    have hq : ∀ k, u.queue k = s.queue k := fun k => by rw [hu]; rfl
    obtain ⟨t, hrun, htq, hothers, hrest⟩ := piReadReturn_in_range (w := BitVec.ofNat 64 (s.queue q.toNat).ci.toNat)
      (hu.trans hland.symm) (by rw [hu]; exact (mayRead_iff.mp hmay).1) (by rw [hq]; exact hread) (by rw [hq]; exact hst)
      (by rw [hq, hword]; simp)
    rw [hq, hword] at htq
    refine ⟨t, hrun.trans (congrArg _ (pump_of_no_want ?_)), htq, hrest, fun k hk => (hothers k hk).trans (hq k)⟩
    simp [wantsRead, htq, hfresh, hpoll, hpend]
  · obtain ⟨out, flights, hland⟩ := landed_eq s (.queue q.toNat .piRead)
    rw [hland] at hu
    have hq : ∀ k, u.queue k = s.queue k := fun k => by rw [hu]; rfl
    obtain ⟨t, hrun, htq, hothers, hrest⟩ := piReadReturn_in_range (w := w) (hu.trans hland.symm)
      (by rw [hu]; exact (mayRead_iff.mp hmay).1) (by rw [hq]; exact hread) (by rw [hq]; exact hst) (by rw [hq]; exact hrange)
    rw [hq] at htq
    have hseen : w.setWidth 32 ≠ (s.queue q.toNat).ci := fun h => hne (by rw [h]; simp)
    obtain ⟨table, rfl⟩ : ∃ table, t = { s with queues := table, out := out, flights := flights } := by
      refine ⟨t.queues, ?_⟩
      rw [hu] at hrest
      calc t = { ({ t with queues := s.queues } : State) with queues := t.queues } := rfl
        _ = _ := by rw [hrest]
    let t : State := { s with queues := table, out := out, flights := flights }
    have hpieces : qPieces t q.toNat (entryAddr (t.queue q.toNat)) 64 false = .ok ps := by
      unfold qPieces at hps ⊢
      rw [htq]; exact hps
    have hport : portRoom t (t.queue q.toNat).home = true := by rw [htq]; rw [hu] at hroom; exact hroom
    have hasked := issueFetch_asks hpieces hport
    have hpump : pump t q.toNat = issueFetch t q.toNat :=
      pump_fetches (by rw [htq]; exact hst) (by rw [htq]; exact hhold) (by rw [htq]; exact hfetched) (by rw [htq])
        (by rw [mayRead_iff, htq]; exact mayRead_iff.mp hmay) (by rw [htq]; exact hfresh) (by rw [htq]; exact hpoll)
        (by rw [htq]; exact hseen)
    have hctxs := hasked.ctxs
    have hkept := hasked.rest
    refine ⟨_, hrun.trans (congrArg _ hpump), ?_, ?_, ?_, ?_, ?_, hctxs⟩
    · rw [hasked.queue, htq]; rfl
    · rw [hasked.out, htq, hu]; rfl
    · rw [hasked.flights, htq, hu]; rfl
    · generalize issueFetch t q.toNat = t2 at hkept ⊢
      calc { t2 with queues := s.queues, out := s.out, flights := s.flights, pages := s.pages, ctxs := s.ctxs }
          = { ({ t2 with queues := t.queues, out := t.out, flights := t.flights, pages := t.pages, ctxs := t.ctxs } : State) with
              queues := s.queues, out := s.out, flights := s.flights } := rfl
        _ = { t with queues := s.queues, out := s.out, flights := s.flights } := by rw [hkept]
        _ = s := rfl
    · intro k hk; rw [hasked.others k hk, hothers k hk, hq]

end


section

/-! ## What a retirement changes (R125, R273, R343) -/

namespace Sys2Proof.Machine

/-- The job at its next packet, its waits ended (R125). -/
def retiredJob (j : Job) (stack : List Frame) : Job :=
  { j with idx := j.idx + 1, phase := .run, decoded := false, priorCounted := false, schedCounted := false, fanReady := none,
           holdSince := none, waitSince := none, stack := stack }

section
variable {s : State} {q : Nat} {j : Job} {g : List Frame → List Frame} {f : Frame} {fs : List Frame}

/-- The context's counters after the packet (R343). -/
def packetCounted (s : State) (q : Nat) : State := countPacket s (s.queue q).owner

/-- A stream that holds no buffer ends by its phase alone. -/
theorem endStream_of_no_buf (hj : s.job q = some j) (hbuf : j.hasBuf = false) (hspill : j.spillBuf = none) :
    (endStream s q).job q = some { j with phase := .drained } ∧ (∀ i, i ≠ q → (endStream s q).job i = s.job i) ∧
      { endStream s q with jobs := s.jobs } = s := by
  have hrelease : releaseBuf s q = s.setJob q (some { j with hasBuf := false, spillBuf := none }) := by
    simp [releaseBuf, hj, hbuf, hspill, zeroSpill]
  have hself : ({ j with hasBuf := false, spillBuf := none } : Job) = j := by cases j; simp_all
  unfold endStream
  rw [hrelease, hself, modJob_of_job (job_setJob_same ..)]
  exact ⟨by simp, fun i hi => by simp [hi], by cases s; rfl⟩

/-- What the retirement leaves before the scheduler takes note of it: the job, and the context's counters. -/
structure Retired (s b : State) (q : Nat) (j : Job) : Prop where
  job : b.job q = some j
  others : ∀ i, i ≠ q → b.job i = s.job i
  rest : { b with jobs := s.jobs } = packetCounted s q

/-- A packet that holds no handle: the job at what `g` leaves of its call stack. -/
theorem retireStack_eq (hj : s.job q = some j) (hheld : j.held = []) (hstack : g j.stack = f :: fs) :
    ∃ b, retireStack s q g = settle b q ∧ partQ b q = partQ s q ∧ Retired s b q (retiredJob j (f :: fs)) := by
  have hun : unholdPacket s q = s.setJob q (some { j with held := [] }) := by simp [unholdPacket, hj, hheld]
  have hjob : (countPacket (unholdPacket s q) (s.queue q).owner).job q = some { j with held := [] } := by simp [countPacket, hun]
  have hself : ({ j with held := [] } : Job) = j := by rw [← hheld]
  refine ⟨_, rfl, ?_, ?_⟩
  · rw [modJob_of_job hjob]; simp [partQ, countPacket, hun]
  · rw [modJob_of_job hjob, hun, hself]
    refine ⟨?_, fun i hi => by simp [countPacket, hi], by cases s; rfl⟩
    rw [job_setJob_same, hstack]
    rfl

/-- Where the job next stands at a packet. -/
theorem retireStack_live (hj : s.job q = some j) (hheld : j.held = []) (hstack : g j.stack = f :: fs) (hpc : f.pc < f.pkts.length) :
    ∃ b, retireStack s q g = schedUpdate b (partQ s q) ∧ Retired s b q (retiredJob j (f :: fs)) := by
  obtain ⟨b, hrun, hpart, hb⟩ := retireStack_eq hj hheld hstack
  exact ⟨b, by rw [hrun, settle_live hb.job rfl hpc, hpart], hb⟩

/-- Where an inlined stream that holds no buffer has no packet left. -/
theorem retireStack_inlined (hj : s.job q = some j) (hheld : j.held = []) (hstack : g j.stack = f :: fs)
    (hpc : f.pkts.length ≤ f.pc) (hkind : f.kind = .inlined) (hbuf : j.hasBuf = false) (hspill : j.spillBuf = none) :
    ∃ b, retireStack s q g = schedUpdate b (partQ s q) ∧ Retired s b q { retiredJob j (f :: fs) with phase := .drained } := by
  obtain ⟨b, hrun, hpart, hb⟩ := retireStack_eq hj hheld hstack
  obtain ⟨hjob, hothers, hrest⟩ := endStream_of_no_buf hb.job hbuf hspill
  refine ⟨endStream b q, by rw [hrun, settle_inlined hb.job rfl hpc hkind, hpart], hjob, fun i hi => by rw [hothers i hi, hb.others i hi], ?_⟩
  rw [← hb.rest]
  generalize endStream b q = e at hrest ⊢
  calc { e with jobs := s.jobs } = { ({ e with jobs := b.jobs } : State) with jobs := s.jobs } := rfl
    _ = { b with jobs := s.jobs } := by rw [hrest]

/-- Once the scheduler has taken note: what the partition, its contexts and the rest of the state keep. -/
theorem Retired.scheduled {b : State} {j1 : Job} (h : Retired s b q j1) :
    let c := (s.queue q).owner
    let t := schedUpdate b (partQ s q)
    (∀ i, i ≠ q → t.job i = s.job i) ∧
    (t.ctx c).packets = (s.ctx c).packets + 1 ∧ (t.ctx c).lastAdv = s.now ∧
    (∀ i, i ≠ c → { t.ctx i with eligible := (s.ctx i).eligible, deficit := (s.ctx i).deficit } = s.ctx i) ∧
    { t.ctx c with eligible := (s.ctx c).eligible, deficit := (s.ctx c).deficit, packets := (s.ctx c).packets,
                   lastAdv := (s.ctx c).lastAdv } = s.ctx c ∧
    (∀ p, p ≠ partQ s q → t.part p = s.part p) ∧
    { t.part (partQ s q) with cur := (s.part (partQ s q)).cur, sliceEnd := (s.part (partQ s q)).sliceEnd } =
      s.part (partQ s q) ∧
    (∀ p, p ≠ pgSCH → t.page p = s.page p) ∧
    { t with jobs := s.jobs, ctxs := s.ctxs, parts := s.parts, pages := s.pages } = s := by
  intro c t
  obtain ⟨hctx, hother, hpart, hpage, hrest⟩ := schedUpdate_frame b (partQ s q)
  have hb : b = { packetCounted s q with jobs := b.jobs } := by rw [← h.rest]
  have hbctx : ∀ i, b.ctx i = if i = c then { s.ctx c with packets := (s.ctx c).packets + 1, lastAdv := s.now } else s.ctx i := by
    intro i; rw [hb]; exact ctx_setCtx ..
  have hbpart : ∀ p, b.part p = s.part p := fun p => by rw [hb]; rfl
  have hbpage : ∀ p, b.page p = s.page p := fun p => by rw [hb]; rfl
  have hc := hctx c
  rw [hbctx, if_pos rfl] at hc
  refine ⟨fun i hi => (schedUpdate_job ..).trans (h.others i hi), ?_, ?_, fun i hi => ?_, ?_, fun p hp => ?_, ?_, fun p hp => ?_, ?_⟩
  · exact congrArg Context.packets hc
  · exact congrArg Context.lastAdv hc
  · have := hctx i
    rwa [hbctx, if_neg hi] at this
  · have := congrArg (fun x : Context => { x with packets := (s.ctx c).packets, lastAdv := (s.ctx c).lastAdv }) hc
    exact this
  · rw [← hbpart]; exact hother p hp
  · rw [← hbpart]; exact hpart
  · rw [← hbpage]; exact hpage p hp
  · calc { t with jobs := s.jobs, ctxs := s.ctxs, parts := s.parts, pages := s.pages }
        = { ({ t with ctxs := b.ctxs, parts := b.parts, pages := b.pages } : State) with
            jobs := s.jobs, ctxs := s.ctxs, parts := s.parts, pages := s.pages } := rfl
      _ = { b with jobs := s.jobs, ctxs := s.ctxs, parts := s.parts, pages := s.pages } := by rw [hrest]
      _ = { ({ b with jobs := s.jobs } : State) with ctxs := s.ctxs, parts := s.parts, pages := s.pages } := rfl
      _ = s := by rw [h.rest]; cases s; rfl

end

end Sys2Proof.Machine

open Sys2Proof Sys2Proof.Machine

/-- Settles O25: before the scheduler's note the job and its context's counters alone have changed, and the note is framed. -/
theorem retirement : Obligations.Retirement := by
  unfold Obligations.Retirement
  intro s q j g f fs hj hheld hstack j1 c t
  refine ⟨fun hpc => ?_, fun hpc hkind hbuf hspill => ?_, fun hcase => ?_, rfl⟩
  · obtain ⟨b, hrun, hb⟩ := retireStack_live hj hheld hstack hpc
    rw [show t = _ from hrun]
    exact (schedUpdate_job ..).trans hb.job
  · obtain ⟨b, hrun, hb⟩ := retireStack_inlined hj hheld hstack hpc hkind hbuf hspill
    rw [show t = _ from hrun]
    exact (schedUpdate_job ..).trans hb.job
  · rcases Nat.lt_or_ge f.pc f.pkts.length with hpc | hpc
    · obtain ⟨b, hrun, hb⟩ := retireStack_live hj hheld hstack hpc
      rw [show t = _ from hrun]
      exact hb.scheduled
    · obtain ⟨hkind, hbuf, hspill⟩ := hcase.resolve_left (Nat.not_lt.mpr hpc)
      obtain ⟨b, hrun, hb⟩ := retireStack_inlined hj hheld hstack hpc hkind hbuf hspill
      rw [show t = _ from hrun]
      exact hb.scheduled

end


section

/-! ## The end of a job (R110, R116, R119) -/

namespace Sys2Proof.Machine

/-- From s to t only the job of queue q has changed, to v. -/
structure JobOnly (s t : State) (q : Nat) (v : Option Job) : Prop where
  job : t.job q = v
  others : ∀ k, k ≠ q → t.job k = s.job k
  rest : { t with jobs := s.jobs } = s

section
variable {s t u : State} {q : Nat} {v w : Option Job} {j : Job}

theorem JobOnly.refl (h : s.job q = v) : JobOnly s s q v := ⟨h, fun _ _ => rfl, rfl⟩

theorem JobOnly.setJob (h : JobOnly s t q v) (w : Option Job) : JobOnly s (t.setJob q w) q w :=
  ⟨job_setJob_same .., fun k hk => by simp [hk, h.others k hk], by rw [← h.rest]; rfl⟩

theorem JobOnly.modJob (h : JobOnly s t q (some j)) (f : Job → Job) : JobOnly s (modJob t q f) q (some (f j)) := by
  rw [modJob_of_job h.job]; exact h.setJob _

theorem JobOnly.eq (h : JobOnly s t q v) : t = { s with jobs := t.jobs } := by rw [← h.rest]

/-- An access on a port with room, of a state in which one job has changed. -/
theorem JobOnly.issue (h : JobOnly s t q v) {k : Nat} (hroom : portRoom s k = true) (who : Access) (outs : List Out) :
    let t2 := Machine.issue t k who outs
    t2.job q = v ∧ t2.out = s.out ++ outs ∧ t2.flights = s.flights ++ [⟨k, who, outs, true⟩] ∧
      { t2 with jobs := s.jobs, out := s.out, flights := s.flights } = s ∧ ∀ i, i ≠ q → t2.job i = s.job i := by
  have ht := h.eq
  have hroom : portRoom t k = true := by rw [ht]; exact hroom
  intro t2
  have ht2 : t2 = emits { t with flights := t.flights ++ [⟨k, who, outs, true⟩] } outs := issue_of_room hroom ..
  rw [ht2]
  exact ⟨h.job, by rw [ht]; rfl, by rw [ht]; rfl, by rw [ht]; rfl, h.others⟩

/-- What a write sends depends on the contexts' pages alone. -/
theorem writesOf_congr (h : t.ctxs = s.ctxs) (k : Nat) (ps : List (Nat × Nat × Nat)) (bs : List Byte) :
    writesOf t k ps bs = writesOf s k ps bs := by
  induction ps generalizing bs with
  | nil => rfl
  | cons p ps ih => simp [writesOf, hostVisible, h, ih]

/-- The completion record, of a job whose entry may be written. -/
theorem writeRecord_writes {ps : List (Nat × Nat × Nat)} (hj : s.job q = some j) (hlive : s.halted = false)
    (hps : qPieces s q j.entryVa 64 true = .ok ps) :
    writeRecord s q = issue (modJob s q (fun j => { j with phase := .record })) (s.queue q).home (.queue q .recordWrite)
      (writesOf s (s.queue q).home ps (recordBytes (s.queue q) j)) := by
  simp [writeRecord, hj, hlive, hps, portQ]

/-- A job with no signal and no watch left writes its record at once. -/
theorem completeJob_of_none_deferred {m : MemView} (hj : s.job q = some j) (hdeferred : j.deferred = []) :
    completeJob s q m = writeRecord s q ∨ completeJob s q m = writeRecord (modJob s q (fun j => { j with deferred := [] })) q := by
  unfold completeJob
  rw [hj]
  dsimp only
  split
  · exact .inl (by rw [hdeferred]; rfl)
  · exact .inr rfl

theorem takeWatches_none {m : MemView} (h : s.loe.watches = []) : takeWatches s q j m = s := by
  unfold takeWatches
  simp only [h, List.filter_nil, List.foldl_nil]
  rw [← h]

/-- A job whose layers have all been taken keeps none. -/
theorem endLayers_none (hj : s.job q = some j) (h : j.layers = []) : endLayers s q = s.setJob q (some { j with layers := [] }) := by
  simp [endLayers, hj, h]

/-- A drained job with nothing open: its record's write. -/
theorem jobCompletion_writes {qb : BitVec 18} {m : MemView} {ps : List (Nat × Nat × Nat)} (hj : s.job qb.toNat = some j)
    (hlive : s.halted = false) (hphase : j.phase = .drained) (hopen : openRecs s qb.toNat = 0) (hatomics : j.atomics = 0)
    (hdeferred : j.deferred = []) (hlayers : j.layers = []) (hwatches : s.loe.watches = [])
    (hps : qPieces s qb.toNat j.entryVa 64 true = .ok ps) :
    let j1 := { j with tDone := s.timebase.toNat, phase := .record }
    ∃ b, JobOnly s b qb.toNat (some j1) ∧ exec (.jobCompletion qb m) s =
      .next (issue b (s.queue qb.toNat).home (.queue qb.toNat .recordWrite)
        (writesOf s (s.queue qb.toNat).home ps (recordBytes (s.queue qb.toNat) j1))) := by
  intro j1
  have h1 : JobOnly s (modJob s qb.toNat (fun j => { j with tDone := s.now, phase := .completing })) qb.toNat _ :=
    (JobOnly.refl hj).modJob _
  obtain ⟨a, ha, hja⟩ : ∃ a, endLayers (modJob s qb.toNat (fun j => { j with tDone := s.now, phase := .completing })) qb.toNat = a ∧
      JobOnly s a qb.toNat (some { j with tDone := s.now, phase := .completing, layers := [] }) := by
    rw [endLayers_none h1.job hlayers]; exact ⟨_, rfl, h1.setJob _⟩
  have hrun : exec (.jobCompletion qb m) s = .next (completeJob a qb.toNat m) := by
    change execJobCompletion qb m s = _
    simp only [execJobCompletion, hj, hlive, hphase, hopen, hatomics, ne_eq, not_true_eq_false, or_self, Bool.false_eq_true, if_false, ha]
    rw [takeWatches_none (by rw [hja.eq]; exact hwatches)]
  obtain ⟨b, hcomplete, hjb⟩ : ∃ b, completeJob a qb.toNat m = writeRecord b qb.toNat ∧
      JobOnly s b qb.toNat (some { j with tDone := s.now, phase := .completing, layers := [], deferred := [] }) := by
    rcases completeJob_of_none_deferred (m := m) hja.job hdeferred with h | h
    · exact ⟨a, h, by have := hja; rwa [← hdeferred]⟩
    · exact ⟨_, h, hja.modJob _⟩
  have hb := hjb.eq
  refine ⟨modJob b qb.toNat (fun j => { j with phase := .record }), ?_, ?_⟩
  · have hself : { j with tDone := s.now, phase := .record, layers := [], deferred := [] } = j1 := by
      rw [← hlayers, ← hdeferred]; rfl
    exact hself ▸ hjb.modJob _
  · rw [hrun, hcomplete, writeRecord_writes (ps := ps) hjb.job (by rw [hb]; exact hlive) (by rw [hb]; exact hps)]
    rw [writesOf_congr (s := s) (by rw [hb]), show b.queue qb.toNat = s.queue qb.toNat by rw [hb]; rfl]
    rfl

/-- Then CI's write. -/
theorem writeCi_writes {ps : List (Nat × Nat × Nat)} (hlive : s.halted = false)
    (hps : qPieces s q (idxVa (s.queue q) + 8) 8 true = .ok ps) :
    writeCi s q = issue (modJob s q (fun j => { j with phase := .ciWrite })) (s.queue q).home (.queue q .ciWrite)
      (writesOf s (s.queue q).home ps (leBytes 8 (((s.queue q).ci + 1).toNat))) := by
  simp [writeCi, hlive, hps, portQ]

/-- What the end of a job leaves: the queue free for the next one, the job gone, and the counters. -/
theorem finishJob_idle (hj : s.job q = some j) (himage : j.image = none) (hspill : j.spillImg = none)
    (hntf : (s.queue q).ntfEn = false) (hstatus : jobStatus j = ST_OK)
    (hidle : (s.queue q).hold = true ∨ ((s.queue q).piSeen = (s.queue q).ci + 1 ∧ (s.queue q).pend = false ∧
      (s.queue q).freshDue = false ∧ (s.queue q).pollHeld = false)) :
    (finishJob s q j).job q = none ∧
      (finishJob s q j).queue q = { s.queue q with ci := (s.queue q).ci + 1, completed := (s.queue q).completed + 1, fetched := false,
                                                   st := if (s.queue q).st = .disabling then .disabled else (s.queue q).st } ∧
      { finishJob s q j with jobs := s.jobs, queues := s.queues, pages := s.pages } = s ∧
      ∀ k, k ≠ q → (finishJob s q j).queue k = s.queue k ∧ (finishJob s q j).job k = s.job k := by
  have hrelease : releaseImage s q = s.setJob q (some { j with image := none, spillImg := none }) := by
    simp [releaseImage, hj, himage, hspill, zeroSpill]
  unfold finishJob
  rw [hrelease, hstatus]
  dsimp only
  rw [if_neg (by decide)]
  have hnotify : ∀ t : State, (t.queue q).ntfEn = false → notifyQueue t q j = t := fun t h => by simp [notifyQueue, h]
  rw [hnotify _ (by simp [hntf])]
  have hpump : ∀ t : State, (t.queue q).hold = true ∨ wantsRead (t.queue q) = false → pump t q = t := fun t h =>
    h.elim (fun h => pump_of_busy (.inr h)) pump_of_no_want
  rw [hpump _ (hidle.imp (fun h => by simpa using h) (fun ⟨h1, h2, h3, h4⟩ => by simp [wantsRead, h1, h2, h3, h4]))]
  exact ⟨by simp, by simp, by cases s; rfl, fun k hk => ⟨by simp [hk], by simp [hk]⟩⟩

end

end Sys2Proof.Machine

open Sys2Proof Sys2Proof.Machine

/-- Settles O24: a job's end is its record's write, then CI's write, then the queue's and the job's own change. -/
theorem jobEnd : Obligations.JobEnd := by
  unfold Obligations.JobEnd
  intro s q j r u v hr hj hlive hu hv
  subst hr
  refine ⟨fun m ps hphase hopen hatomics hdeferred hlayers hwatches hroom hps => ?_, fun ps hphase hroom hps => ?_,
    fun hphase hq himage hspill hntf hstatus hidle => ?_, fun f hf => ?_⟩
  · obtain ⟨b, hb, hrun⟩ := jobCompletion_writes (m := m) hj hlive hphase hopen hatomics hdeferred hlayers hwatches hps
    obtain ⟨h1, h2, h3, h4, h5⟩ := hb.issue hroom (.queue q.toNat .recordWrite) _
    exact ⟨_, hrun, h1, h2, h3, h4, h5⟩
  · obtain ⟨out, flights, hland⟩ := landed_eq s (.queue q.toNat .recordWrite)
    rw [hland] at hu
    have huj : u.job q.toNat = some j := by rw [hu]; exact hj
    have hps : qPieces u q.toNat (idxVa (u.queue q.toNat) + 8) 8 true = .ok ps := by rw [hu]; exact hps
    have hrun : exec (.completionRecordComplete q true) s = .next (writeCi u q.toNat) := by
      change execCompletionRecordComplete q true s = _
      have hhalted : u.halted = false := by rw [hu]; exact hlive
      simp only [execCompletionRecordComplete, hland, ← hu, huj, hhalted, hphase, ne_eq, not_true_eq_false, or_self, Bool.false_eq_true,
        if_false, true_or, if_true]
    rw [writeCi_writes (by rw [hu]; exact hlive) hps] at hrun
    obtain ⟨h1, h2, h3, h4, h5⟩ := ((JobOnly.refl huj).modJob (fun j => { j with phase := .ciWrite })).issue
      (k := (s.queue q.toNat).home) hroom (.queue q.toNat .ciWrite)
      (writesOf s (s.queue q.toNat).home ps (leBytes 8 (((s.queue q.toNat).ci + 1).toNat)))
    have hqueue : u.queue q.toNat = s.queue q.toNat := by rw [hu]; rfl
    have hwrites : ∀ k bs, writesOf u k ps bs = writesOf s k ps bs := fun k bs => writesOf_congr (by rw [hu]) k ps bs
    rw [hqueue, hwrites] at hrun
    refine ⟨_, hrun, h1, h2, h3, ?_, fun k hk => by rw [h5 k hk, hu]; rfl⟩
    generalize issue (modJob u q.toNat _) _ _ _ = t at h4 ⊢
    calc { t with jobs := s.jobs, out := s.out, flights := s.flights }
        = { ({ t with jobs := u.jobs, out := u.out, flights := u.flights } : State) with
            jobs := s.jobs, out := s.out, flights := s.flights } := rfl
      _ = { u with jobs := s.jobs, out := s.out, flights := s.flights } := by rw [h4]
      _ = s := by rw [hu]
  · obtain ⟨out, flights, hland⟩ := landed_eq s (.queue q.toNat .ciWrite)
    rw [hland] at hv
    have hvj : v.job q.toNat = some j := by rw [hv]; exact hj
    have hqueue : ∀ k, v.queue k = s.queue k := fun k => by rw [hv]; rfl
    have hrun : exec (.ciWriteComplete q true) s = .next (finishJob v q.toNat j) := by
      change execCiWriteComplete q true s = _
      have hhalted : v.halted = false := by rw [hv]; exact hlive
      simp only [execCiWriteComplete, hland, ← hv, hvj, hhalted, hphase, ne_eq, not_true_eq_false, or_self, Bool.false_eq_true,
        if_false, true_or, if_true, secQ, hq]
    obtain ⟨h1, h2, h3, h4⟩ := finishJob_idle hvj himage hspill (by rw [hqueue]; exact hntf) hstatus (by rw [hqueue]; exact hidle)
    rw [hqueue] at h2
    refine ⟨_, hrun, h1, h2, h3, fun k hk => ?_⟩
    obtain ⟨h5, h6⟩ := h4 k hk
    exact ⟨h5.trans (hqueue k), h6.trans (by rw [hv]; rfl)⟩
  · change Host.Outcome.next (retry s (.queue q.toNat .piRead)) = _
    unfold retry
    rw [hf]

end


section

/-! ## Entries, fragments, and the grants of buffers and images (R104 to R106, R110, R129, R135, R163) -/

namespace Sys2Proof.Machine

section
variable {s t u : State} {q : Nat} {j : Job} {ws : List Word}

theorem lengthLeBytes (n v : Nat) : (leBytes n v).length = n := by
  induction n generalizing v with
  | zero => rfl
  | succ n ih => simp [leBytes, ih]

theorem length_bytesOfWords (ws : List Word) : (bytesOfWords ws).length = 8 * ws.length := by
  induction ws with
  | nil => rfl
  | cons w ws ih => simp [bytesOfWords, lengthLeBytes] at ih ⊢; omega

/-- Packets that begin with a word that is not 0 are at least one. -/
theorem pktsOf_ne_nil {w : Word} (hw : w ≠ 0) (ws : List Word) : pktsOf (w :: ws) ≠ [] := by
  rw [pktsOf, List.length_cons, splitPkts, if_neg hw]
  exact fun h => List.cons_ne_nil _ _ h

/-- The packets of a well-formed inline entry: there is one. -/
theorem pktsOf_inline_ne_nil {ci : W32} (hlen : ws.length = 8) (hok : entryStatus ci ws = ST_OK) (hkind : fld (wordAt ws 0) 31 30 = 1) :
    pktsOf ((ws.drop 2).take (fld (wordAt ws 0) 29 27)) ≠ [] := by
  have hcodes : ST_ENTRY_SEQUENCE ≠ ST_OK ∧ ST_ENTRY_FORMAT ≠ ST_OK := by decide
  unfold entryStatus at hok
  simp only [hkind] at hok
  split at hok
  · exact absurd hok hcodes.1
  · rw [if_neg (by decide)] at hok
    split at hok
    · exact absurd hok hcodes.2
    · rw [if_pos trivial] at hok
      split at hok
      · exact absurd hok hcodes.2
      · rename_i hform
        split at hok
        · rename_i hwalk
          simp only [Bool.or_eq_true, beq_iff_eq, decide_eq_true_eq, not_or] at hform
          obtain ⟨⟨-, hpos⟩, hmax⟩ := hform
          have hcount : ((ws.drop 2).take (fld (wordAt ws 0) 29 27)).length ≠ 0 := by simp [hlen]; omega
          generalize (ws.drop 2).take (fld (wordAt ws 0) 29 27) = pk at hwalk hcount ⊢
          cases pk with
          | nil => exact absurd rfl hcount
          | cons w pk =>
            refine pktsOf_ne_nil (fun hw => ?_) pk
            subst hw
            simp [inlineWalk, lenOf, fld, bitsN] at hwalk
        · exact absurd hok hcodes.2

/-- An entry that comes back to a queue that reads one (R104): the queue's read has ended, and the entry is taken. -/
theorem entryReadReturn_takes {qb : BitVec 18} (hlive : s.halted = false) (hq : qb.toNat ≠ secQ)
    (hu : u = landed s (.queue qb.toNat .entryRead)) (hread : (s.queue qb.toNat).entryRead = true)
    (hhold : (s.queue qb.toNat).hold = false) (hlen : ws.length = 8) :
    exec (.entryReadReturn qb (some ws)) s =
      .next (takeEntry (u.setQueue qb.toNat { s.queue qb.toNat with entryRead := false, step := (s.queue qb.toNat).step + 1 })
        qb.toNat ws) := by
  obtain ⟨out, flights, hland⟩ := landed_eq s (.queue qb.toNat .entryRead)
  have hqueue : u.queue qb.toNat = s.queue qb.toNat := by rw [hu, hland]; rfl
  have hhalted : u.halted = false := by rw [hu, hland]; exact hlive
  change execEntryReadReturn qb (some ws) s = _
  unfold execEntryReadReturn entryReturn
  simp only [← hu, hqueue, hhalted, hread, hq, hlen, hhold, Bool.not_true, Bool.false_eq_true, or_self, if_false, if_true]

/-- The entry is taken by a queue whose context works: what is left to do depends on its kind (R105). -/
theorem takeEntry_of_ok (hctx : (s.queue q).cls = 0 → (s.ctx (s.queue q).owner).st ≠ .lost ∧
      (s.ctx (s.queue q).owner).lastStatus = ST_OK ∧ (s.ctx (s.queue q).owner).aborting = false)
    (hok : entryStatus (s.queue q).ci ws = ST_OK) :
    takeEntry s q ws =
      (let s0 := s.setJob q (some (newJob s q ws (wordAt ws 1)))
       if fld (wordAt ws 0) 31 30 = 1 then
         let pk := (ws.drop 2).take (fld (wordAt ws 0) 29 27)
         let st2 := checkBuffer (s.queue q).cls 0 0 pk
         if st2 ≠ ST_OK then malformedAtFetch (noteBad (countRefused s0 q st2) q (entryAddr (s.queue q) + 16) 0 0 pk) q st2
         else settle (modJob s0 q (fun j => { j with phase := .run, stack :=
           [{ kind := .inlined, pkts := pktsOf pk, pc := 0, blocks := [], bytes := 0, va := j.entryVa + 16 }] })) q
       else requestLine (modJob s0 q (fun j =>
         { j with fragTable := (wordAt ws 2).toNat, fragCount := fld (wordAt ws 3) 15 0 })) q) := by
  unfold takeEntry
  dsimp only
  rw [if_neg (fun h => by obtain ⟨h1, h2, -⟩ := hctx h.1; exact h.2.elim h1 (fun h => h h2)),
    if_neg (fun h => by obtain ⟨-, -, h3⟩ := hctx h.1; simp [h3] at h), if_neg (not_not_intro hok)]

/-- A line of a fragment table asked for. -/
theorem requestLine_reads {ps : List (Nat × Nat × Nat)} (hj : s.job q = some j)
    (hps : qPieces s q (j.fragTable + j.fragNext / 4 * 64) 64 false = .ok ps) (hroom : portRoom s (s.queue q).home = true) :
    (requestLine s q).job q = some { j with phase := .fragTable } ∧
      (requestLine s q).out = s.out ++ readsOf s (s.queue q).home ps ∧
      (requestLine s q).flights = s.flights ++ [⟨(s.queue q).home, .queue q .fragRead, readsOf s (s.queue q).home ps, true⟩] ∧
      (∀ k, k ≠ q → (requestLine s q).job k = s.job k) ∧ ∀ k, (requestLine s q).queue k = s.queue k := by
  unfold requestLine
  simp only [hj, hps, portQ]
  rw [issue_of_room hroom, modJob_of_job (j := j) (by exact hj)]
  exact ⟨by simp, by simp, by simp, fun k hk => by rw [job_count, job_setJob, if_neg hk]; rfl, fun _ => rfl⟩

section
variable (hctx : (s.queue q).cls = 0 → (s.ctx (s.queue q).owner).st ≠ .lost ∧
    (s.ctx (s.queue q).owner).lastStatus = ST_OK ∧ (s.ctx (s.queue q).owner).aborting = false)
  (hok : entryStatus (s.queue q).ci ws = ST_OK)
include hctx hok

/-- An inline entry's job stands at its first packet. -/
theorem takeEntry_inline {pk : List Word} (hlen : ws.length = 8) (hkind : fld (wordAt ws 0) 31 30 = 1)
    (hpk : pk = (ws.drop 2).take (fld (wordAt ws 0) 29 27)) (hcheck : checkBuffer (s.queue q).cls 0 0 pk = ST_OK) :
    ∃ t, takeEntry s q ws = schedUpdate t (partQ s q) ∧
      JobOnly s t q (some { newJob s q ws (wordAt ws 1) with phase := .run, stack :=
        [⟨.inlined, pktsOf pk, 0, [], 0, entryAddr (s.queue q) + 16⟩] }) := by
  rw [takeEntry_of_ok hctx hok]
  simp only [hkind, if_true, ← hpk, hcheck, ne_eq, not_true_eq_false, if_false]
  rw [modJob_of_job (job_setJob_same ..), settle_live (job_setJob_same ..) rfl
    (by rw [hpk]; exact List.length_pos_iff.mpr (pktsOf_inline_ne_nil hlen hok hkind))]
  exact ⟨_, rfl, ((JobOnly.refl rfl).setJob _).setJob _⟩

/-- A fragment-list entry's job has the first line of its table read. -/
theorem takeEntry_list {ps : List (Nat × Nat × Nat)} (hkind : fld (wordAt ws 0) 31 30 = 2)
    (hps : qPieces s q (wordAt ws 2).toNat 64 false = .ok ps) (hroom : portRoom s (s.queue q).home = true) :
    (takeEntry s q ws).job q = some { newJob s q ws (wordAt ws 1) with
      phase := .fragTable, fragTable := (wordAt ws 2).toNat, fragCount := fld (wordAt ws 3) 15 0 } ∧
    (takeEntry s q ws).out = s.out ++ readsOf s (s.queue q).home ps ∧
    (takeEntry s q ws).flights = s.flights ++ [⟨(s.queue q).home, .queue q .fragRead, readsOf s (s.queue q).home ps, true⟩] ∧
    (∀ k, k ≠ q → (takeEntry s q ws).job k = s.job k) ∧ ∀ k, (takeEntry s q ws).queue k = s.queue k := by
  rw [takeEntry_of_ok hctx hok]
  simp only [hkind, Nat.reduceEqDiff, if_false]
  rw [modJob_of_job (job_setJob_same ..)]
  obtain ⟨h1, h2, h3, h4, h5⟩ := requestLine_reads (ps := ps) (s := (s.setJob q (some (newJob s q ws (wordAt ws 1)))).setJob q
      (some { newJob s q ws (wordAt ws 1) with fragTable := (wordAt ws 2).toNat, fragCount := fld (wordAt ws 3) 15 0 }))
    (job_setJob_same ..) (by dsimp only [newJob]; rw [Nat.zero_div, Nat.zero_mul, Nat.add_zero]; exact hps) hroom
  exact ⟨h1, h2, h3, fun k hk => (h4 k hk).trans (by simp [hk]), h5⟩

end

/-- A fragment asked for, its buffer already the job's. -/
theorem requestFrag_reads {ps : List (Nat × Nat × Nat)} {a n crc : Nat} (hj : s.job q = some j) (hbuf : j.hasBuf = true)
    (hwait : j.waitSince = none) (hentry : fragEntry j = (a, n, crc)) (hok : fragOk (a, n, crc) = true)
    (hps : qPieces s q a n false = .ok ps) :
    requestFrag s q = modJob (issue s (s.queue q).home (.queue q .fragRead) (readsOf s (s.queue q).home ps)) q
      (fun j => { j with phase := .fragRead }) := by
  have hcharge : chargeWait s q = s := by simp [chargeWait, hj, hwait]
  unfold requestFrag
  simp only [hj, hentry, hok, hps, hbuf, hcharge, portQ, Bool.not_true, Bool.false_and, Bool.false_eq_true, if_false, if_true]

/-- A fragment that passes becomes the job's next buffer. -/
theorem takeFragment_passes {a n crc : Nat} (hj : s.job q = some j) (hentry : fragEntry j = (a, n, crc)) (hok : fragOk (a, n, crc) = true)
    (hlen : ws.length * 8 = n) (hcrc : (s.queue q).crc = false ∨ crc32c (bytesOfWords ws) = crc)
    (hcheck : checkBuffer (s.queue q).cls 0 0 ws = ST_OK) (hpkts : pktsOf ws ≠ []) :
    ∃ t, takeFragment s q j ws = schedUpdate t (partQ s q) ∧
      t.job q = some { j with phase := .run, fragNext := j.fragNext + 1, stack := [⟨.fragment, pktsOf ws, 0, [], n, a⟩] } ∧
      { t with jobs := s.jobs, pages := s.pages } = s ∧ ∀ k, k ≠ q → t.job k = s.job k := by
  have hall : (bytesOfWords ws).take n = bytesOfWords ws := List.take_of_length_le (by rw [length_bytesOfWords]; omega)
  have hpass : ((s.queue q).crc && crc32c (bytesOfWords ws) != crc) = false := by
    rcases hcrc with h | h <;> simp [h]
  unfold takeFragment
  simp only [hentry, hall, hpass, hok, hcheck, Bool.false_eq_true, if_false, Bool.not_true, ne_eq, not_true_eq_false]
  rw [modJob_of_job (j := j) (by exact hj), settle_live (job_setJob_same ..) rfl (List.length_pos_iff.mpr hpkts)]
  exact ⟨_, rfl, by simp, by cases s; rfl, fun k hk => by simp [hk]⟩

/-- The queue that has waited longest for a fragment buffer of its slice takes a free one. -/
theorem takeBuf_first {rest : List Nat} (hj : s.job q = some j) (hspill : j.spillBuf = none)
    (hwait : (s.slice (s.queue q).home).fragWait = q :: rest) (hrest : rest.all (· != q) = true)
    (hfree : 0 < (s.slice (s.queue q).home).fragFree) :
    takeBuf s q = some ((s.setSlice (s.queue q).home { s.slice (s.queue q).home with
      fragFree := (s.slice (s.queue q).home).fragFree - 1, fragWait := rest }).setJob q (some { j with hasBuf := true, spillBuf := none })) := by
  have hfilter : (q :: rest).filter (· != q) = rest := by
    rw [List.filter_cons_of_neg (by simp), List.filter_eq_self.mpr (List.all_eq_true.mp hrest)]
  have hne : (s.slice (s.queue q).home).fragFree ≠ 0 := by omega
  unfold takeBuf
  simp only [hwait, hfree, hfilter, hne, hj, hspill, notFirst, bne_self_eq_false, Bool.false_eq_true, if_false, if_true, unspill]
  rw [modJob_of_job (j := j) (by exact hj)]

/-- The queue that has waited longest for a constant image of its slice takes a free one. -/
theorem takeImg_first {rest : List Nat} (hj : s.job q = some j) (hspill : j.spillImg = none) (himage : j.image = none)
    (hwait : (s.slice (s.queue q).home).imgWait = q :: rest) (hrest : rest.all (· != q) = true)
    (hfree : 0 < (s.slice (s.queue q).home).imgFree) :
    takeImg s q = some ((s.setSlice (s.queue q).home { s.slice (s.queue q).home with
      imgFree := (s.slice (s.queue q).home).imgFree - 1, imgWait := rest }).setJob q (some { j with image := some [], spillImg := none })) := by
  have hfilter : (q :: rest).filter (· != q) = rest := by
    rw [List.filter_cons_of_neg (by simp), List.filter_eq_self.mpr (List.all_eq_true.mp hrest)]
  have hne : (s.slice (s.queue q).home).imgFree ≠ 0 := by omega
  unfold takeImg
  simp only [hwait, hfree, hfilter, hne, hj, hspill, notFirst, bne_self_eq_false, Bool.false_eq_true, if_false, if_true, unspill]
  rw [modJob_of_job (j := j) (by exact hj), himage]
  rfl

/-- A job that waits for nothing is charged nothing. -/
theorem chargeWait_of_none (h : j.waitSince = none) : chargeWait (t.setJob q (some j)) q = t.setJob q (some j) := by
  simp [chargeWait, h]

/-- The grant of a fragment buffer to a job that waits for one with its fragment read. -/
theorem grant_buf {k : BitVec 3} {rest : List Nat} (hlist : (s.slice k.toNat).fragWait = q :: rest) (hlive : s.halted = false)
    (hj : s.job q = some j) (hphase : j.phase = .bufWait true) (hwait : j.waitSince = none)
    (htake : takeBuf s q = some (t.setJob q (some { j with hasBuf := true, spillBuf := none }))) :
    exec (.fragmentBufferGrant k) s = .next ((t.setJob q (some { j with hasBuf := true, spillBuf := none })).setJob q
      (some { j with hasBuf := true, spillBuf := none, phase := .run })) := by
  change execFragmentBufferGrant k s = _
  simp only [execFragmentBufferGrant, hlist, hlive, hj, hphase, htake, Bool.false_eq_true, if_false]
  rw [chargeWait_of_none (by exact hwait), modJob_of_job (job_setJob_same ..)]

/-- The grant of a constant image. -/
theorem grant_img {k : BitVec 3} {rest : List Nat} (hlist : (s.slice k.toNat).imgWait = q :: rest) (hlive : s.halted = false)
    (hphase : j.phase = .imgWait) (hwait : j.waitSince = none)
    (htake : takeImg s q = some (t.setJob q (some { j with image := some [], spillImg := none }))) :
    exec (.constImageGrant k) s = .next ((t.setJob q (some { j with image := some [], spillImg := none })).setJob q
      (some { j with image := some [], spillImg := none, phase := .run })) := by
  change execConstImageGrant k s = _
  simp only [execConstImageGrant, hlist, hlive, htake, Bool.false_eq_true, if_false]
  rw [chargeWait_of_none (by exact hwait), modJob_of_job (job_setJob_same ..)]
  simp only [hphase]

end

end Sys2Proof.Machine

open Sys2Proof Sys2Proof.Machine

/-- Settles O23: each return is taken by the rule of its kind, and each grant goes to the head of its list. -/
theorem entriesAndBuffers : Obligations.EntriesAndBuffers := by
  unfold Obligations.EntriesAndBuffers
  refine ⟨fun s q ws r u v hr hlive hq hu hv => ?_, fun s k q rest j hlive hj hhome hwait hspillBuf hspillImg => ?_⟩
  · subst hr
    refine ⟨fun pk hread hhold hctx hlen hok hkind hpk hcheck => ?_, fun ps hread hhold hctx hlen hok hkind hroom hps => ?_,
      fun j a n crc ps hj hphase hlen hbuf hwait hentry hfok hroom hps => ?_,
      fun j a n crc hj hphase hentry hfok hlen hcrc hcheck hpkts => ?_⟩
    · obtain ⟨out, flights, hland⟩ := landed_eq s (.queue q.toNat .entryRead)
      have hrun := entryReadReturn_takes hlive hq hu hread hhold hlen
      let s1 := u.setQueue q.toNat { s.queue q.toNat with entryRead := false, step := (s.queue q.toNat).step + 1 }
      have hs1 : s1 = u.setQueue q.toNat { s.queue q.toNat with entryRead := false, step := (s.queue q.toNat).step + 1 } := rfl
      have hqueue : s1.queue q.toNat = { s.queue q.toNat with entryRead := false, step := (s.queue q.toNat).step + 1 } := by simp [hs1]
      have hpart : partQ s1 q.toNat = partQ s q.toNat := by
        unfold partQ; rw [hqueue, hs1, ctx_setQueue, hu, hland]; rfl
      obtain ⟨t, htake, ht⟩ := takeEntry_inline (s := s1) (q := q.toNat) (by rw [hqueue, hs1, hu, hland]; exact hctx)
        (by rw [hqueue]; exact hok) hlen hkind hpk (by rw [hqueue]; exact hcheck)
      refine ⟨t, _, hrun.trans (by rw [htake, hpart]), ht.job, ?_, rfl, rfl, rfl, rfl, rfl, rfl, rfl, rfl, rfl, ?_, ?_, ?_,
        fun k hk => ⟨(ht.others k hk).trans ?_, ?_⟩⟩
      · rw [ht.eq]; exact hqueue
      · rw [hs1, hu, hland]; rfl
      · rfl
      · rw [ht.eq]; rfl
      · rw [hs1, hu, hland]; rfl
      · rw [ht.eq]; change s1.queue k = _; rw [hs1, hu, hland]; simp [hk]; rfl
    · obtain ⟨out, flights, hland⟩ := landed_eq s (.queue q.toNat .entryRead)
      have hrun := entryReadReturn_takes hlive hq hu hread hhold hlen
      let s1 := u.setQueue q.toNat { s.queue q.toNat with entryRead := false, step := (s.queue q.toNat).step + 1 }
      have hs1 : s1 = u.setQueue q.toNat { s.queue q.toNat with entryRead := false, step := (s.queue q.toNat).step + 1 } := rfl
      have hqueue : s1.queue q.toNat = { s.queue q.toNat with entryRead := false, step := (s.queue q.toNat).step + 1 } := by simp [hs1]
      have hpieces : qPieces s1 q.toNat (wordAt ws 2).toNat 64 false = .ok ps := by
        unfold qPieces at hps ⊢
        rw [hqueue, hs1, hu, hland]
        exact hps
      obtain ⟨h1, h2, h3, h4, h5⟩ := takeEntry_list (by rw [hqueue, hs1, hu, hland]; exact hctx) (by rw [hqueue]; exact hok) hkind
        hpieces (by rw [hqueue]; exact hroom)
      have hout : s1.out = u.out ∧ s1.flights = u.flights := ⟨rfl, rfl⟩
      have hreads : readsOf s1 (s.queue q.toNat).home ps = readsOf s (s.queue q.toNat).home ps := by rw [hs1, hu, hland]; rfl
      rw [hqueue, hout.1, hreads] at h2
      rw [hqueue, hout.2, hreads] at h3
      refine ⟨_, _, hrun, h1, (h5 _).trans hqueue, rfl, rfl, rfl, rfl, rfl, rfl, h2, h3, fun k hk => ⟨(h4 k hk).trans ?_, (h5 k).trans ?_⟩⟩
      · rw [hs1, hu, hland]; rfl
      · rw [hs1, hu, hland]; simp [hk]; rfl
    · obtain ⟨out, flights, hland⟩ := landed_eq s (.queue q.toNat .fragRead)
      have hvj : v.job q.toNat = some j := by rw [hv, hland]; exact hj
      have hrun : exec (.fragmentReadReturn q (some ws)) s =
          .next (requestFrag (modJob v q.toNat (fun j => { j with fragLine := ws })) q.toNat) := by
        change execFragmentReadReturn q (some ws) s = _
        have hhalted : v.halted = false := by rw [hv, hland]; exact hlive
        simp only [execFragmentReadReturn, ← hv, hvj, hhalted, hphase, hlen, Bool.false_eq_true, if_false, if_true]
      have hline := (JobOnly.refl hvj).modJob (fun j => { j with fragLine := ws })
      have ht := hline.eq
      generalize modJob v q.toNat (fun j => { j with fragLine := ws }) = t at hrun hline ht
      have hqueue : t.queue q.toNat = s.queue q.toNat := by rw [ht, hv, hland]; rfl
      have hreads : readsOf t (s.queue q.toNat).home ps = readsOf s (s.queue q.toNat).home ps := by rw [ht, hv, hland]; rfl
      rw [requestFrag_reads (ps := ps) hline.job hbuf hwait hentry hfok (by rw [ht, hv, hland]; exact hps), hqueue, hreads,
        issue_of_room (by rw [ht]; exact hroom), modJob_of_job (by exact hline.job)] at hrun
      refine ⟨_, hrun, job_setJob_same .., ?_, ?_, ?_, fun k hk => ?_⟩
      · rw [ht]; rfl
      · rw [ht]; rfl
      · rw [ht]; rfl
      · rw [job_setJob, if_neg hk]; exact (hline.others k hk).trans (by rw [hv, hland]; rfl)
    · obtain ⟨out, flights, hland⟩ := landed_eq s (.queue q.toNat .fragRead)
      have hvj : v.job q.toNat = some j := by rw [hv, hland]; exact hj
      have hqueue : v.queue q.toNat = s.queue q.toNat := by rw [hv, hland]; rfl
      have hsize : ws.length = ((fragEntry j).2.1 + 7) / 8 := by rw [hentry]; dsimp only; omega
      have hrun : exec (.fragmentReadReturn q (some ws)) s = .next (takeFragment v q.toNat j ws) := by
        change execFragmentReadReturn q (some ws) s = _
        have hhalted : v.halted = false := by rw [hv, hland]; exact hlive
        simp only [execFragmentReadReturn, ← hv, hvj, hhalted, hphase, ← hsize, Bool.false_eq_true, if_false, if_true]
      obtain ⟨t, htake, htj, hrest, hothers⟩ := takeFragment_passes (a := a) (n := n) (crc := crc) hvj hentry hfok hlen
        (by rw [hqueue]; exact hcrc) (by rw [hqueue]; exact hcheck) hpkts
      have hpart : partQ v q.toNat = partQ s q.toNat := by rw [hv, hland]; rfl
      refine ⟨t, hrun.trans (by rw [htake, hpart]), htj, hrest, fun k hk => (hothers k hk).trans (by rw [hv, hland]; rfl)⟩
  · refine ⟨fun hlist hrest hfree hphase => ?_, fun hlist hrest hfree hphase himage => ?_⟩
    · have hrun : exec (.fragmentBufferGrant k) s = _ := grant_buf hlist hlive hj hphase hwait
        (takeBuf_first hj hspillBuf (by rw [hhome]; exact hlist) hrest (by rw [hhome]; exact hfree))
      have hself : { j with hasBuf := true, spillBuf := none, phase := .run } = { j with phase := .run, hasBuf := true } := by
        rw [← hspillBuf]
      rw [hself] at hrun
      refine ⟨_, hrun, job_setJob_same .., ?_, by cases s; rfl, fun i hi => by simp [hi], fun i hi => by simp [hhome, hi]⟩
      simp [hhome]
    · have hrun : exec (.constImageGrant k) s = _ := grant_img hlist hlive hphase hwait
        (takeImg_first hj hspillImg himage (by rw [hhome]; exact hlist) hrest (by rw [hhome]; exact hfree))
      have hself : { j with image := some [], spillImg := none, phase := .run } = { j with phase := .run, image := some [] } := by
        rw [← hspillImg]
      rw [hself] at hrun
      refine ⟨_, hrun, job_setJob_same .., ?_, by cases s; rfl, fun i hi => by simp [hi], fun i hi => by simp [hhome, hi]⟩
      simp [hhome]

end


section

/-! ## The block packets and the calls (R134, R136 to R139) -/

namespace Sys2Proof.Machine

section
variable {s : State} {q op : Nat} {j : Job} {ws : List Word}

/-- A packet's row, where nothing keeps the packet from running. -/
theorem AtPacket.row (h : AtPacket s q op j ws) (tok : List Word → Bool) (f : State → Job → List Word → State) :
    packetRow s q op tok f = .next (f (countDecoded s q) { j with decoded := true } ws) :=
  congrArg Host.Outcome.next (h.run tok f)

end

end Sys2Proof.Machine

open Sys2Proof Sys2Proof.Machine

/-- Settles O27: each packet's own function of the job's call stack. -/
theorem controlPackets : Obligations.ControlPackets := by
  unfold Obligations.ControlPackets
  intro s q j ws m u hu
  subst hu
  refine ⟨fun h => h.row _ _, fun v c h hv hc => ?_, fun h => h.row _ _, fun h => h.row _ _, fun n h hn => ?_,
    fun f fs body i n bs h hstack hblocks => ?_⟩
  · have hrun : exec (.ifPkt q m) s = _ := h.row _ _
    have hsrc : (if flagsOf (hdrOf ws) % 4 = 1 then .ok (dreg { j with decoded := true } (fld (wordAt ws 1) 3 0))
        else readWordOp (countDecoded s q.toNat) q.toNat (wordAt ws 1) (wordAt ws 2) m : Except Status Word) = .ok v := by
      split at hv
      · rw [hv]; exact if_pos ‹_›
      · rw [← hv]; exact if_neg ‹_›
    dsimp only at hrun
    rw [hsrc] at hrun
    dsimp only at hrun
    rw [← hc] at hrun
    refine ⟨fun h8 h9 => hrun.trans ?_, fun h8 h9 => hrun.trans ?_⟩
    · rw [h8, h9]; rfl
    · rw [h8, h9]; rfl
  · have hrun : exec (.loop q m) s = _ := h.row _ _
    have hsrc : (if flagsOf (hdrOf ws) % 4 = 0 then .ok (fld (wordAt ws 1) 31 0)
        else if flagsOf (hdrOf ws) % 4 = 1 then .ok (dreg { j with decoded := true } (fld (wordAt ws 1) 3 0)).toNat
        else (readWordOp (countDecoded s q.toNat) q.toNat (wordAt ws 1) (wordAt ws 2) m).map (·.toNat) : Except Status Nat) = .ok n := by
      split at hn
      · rw [hn]; exact if_pos ‹_›
      · split at hn
        · rw [if_neg ‹_›, hn]; exact if_pos ‹_›
        · rw [if_neg ‹_›, ← hn]; exact if_neg ‹_›
    dsimp only at hrun
    rw [hsrc] at hrun
    exact hrun
  · refine ⟨_, h.row _ _, ?_⟩
    simp only [onTop, hblocks]

/-- Settles O28: a call pushes its buffer's frame, a return drops it, and at level 0 the stream ends. -/
theorem callPackets : Obligations.CallPackets := by
  unfold Obligations.CallPackets
  intro s q j ws m u hu
  subst hu
  refine ⟨fun bs va hd h hdepth hbuf hspace hread hresolve hcrc hcheck => ?_, fun f fs h hstack hfs hkind => ?_, fun f h hstack => ?_⟩
  · refine (show exec (.callBuffer q m) s = _ from h.row _ _).trans ?_
    have hcrc' : ((s.queue q.toNat).crc && crc32c bs != fld (wordAt ws 3) 63 32) = false := by
      cases hq : (s.queue q.toNat).crc
      · rfl
      · simp [hcrc hq]
    dsimp only
    rw [if_neg (by omega), if_neg (by omega), if_pos (by exact hbuf)]
    simp only [hread]
    have hq : (count (count (countDecoded s q.toNat) (pgPKD ((countDecoded s q.toNat).queue q.toNat).home) 5) pgFET 7
        (fld (wordAt ws 3) 16 0)).queue q.toNat = s.queue q.toNat := by simp
    have hcheck' : checkBuffer (s.queue q.toNat).cls (openIfs { j with decoded := true }) (openLoops { j with decoded := true })
        (wordsOfBytes bs) = ST_OK := hcheck
    rw [hq, hcrc', hcheck']
    simp only [Bool.false_eq_true, if_false, ne_eq, not_true_eq_false, countDecoded_queue] at hresolve ⊢
    simp only [ctx_count, hresolve]
  · refine ⟨_, (show exec (.returnPkt q) s = _ from h.row _ _).trans (congrArg _ (if_neg ?_)), ?_⟩
    · rw [hstack]; cases fs with
      | nil => exact absurd rfl hfs
      | cons g gs => simp
    · simp only [hkind]
  · refine (show exec (.returnPkt q) s = _ from h.row _ _).trans (congrArg _ (if_pos ?_))
    rw [hstack]; simp

end


section

/-! ## GRAPH_RUN and GRAPH_PATCH (R211 to R214) -/

namespace Sys2Proof.Machine

section
variable {s u : State} {q op : Nat} {j : Job} {ws : List Word}

theorem AtPacket.patchTurn (h : AtPacket s q op j ws) : patchTurn s q = s := by
  simp [Machine.patchTurn, h.job, h.runs.2.1]

@[simp] theorem queue_holdPacket (s : State) (q : Nat) (h : Option Nat) (i : Nat) : (holdPacket s q h).queue i = s.queue i := by
  unfold holdPacket
  split
  · split <;> simp [holdHandle]
  · rfl

/-- GRAPH_PATCH takes hold of its object and of its patches' object (R214). -/
theorem holdPatch_of_none_held {i : Nat} {h : Option Nat} (hheld : heldOf s q = [])
    (hres : resolveHandle (s.ctx (s.queue q).owner) (fld (wordAt ws 1) 31 0) = .ok i)
    (hh : if noneOp (wordAt ws 2) (wordAt ws 3) = true then h = none
      else (resolveMref (s.ctx (s.queue q).owner) (wordAt ws 2) (wordAt ws 3) 16 false).map (·.2) = .ok h) :
    holdPatch s q ws = .ok (holdPacket (holdPacket s q (some i)) q h, i) := by
  have hkeep : ∀ t : State, holdPacket t q none = t := fun t => by unfold holdPacket; split <;> simp_all
  unfold holdPatch
  simp only [hheld, List.contains_nil, Bool.false_eq_true, if_false, hres]
  split at hh
  · rw [if_pos ‹_›, hh, hkeep]
  · rw [if_neg ‹_›]
    have hop : operandHandle (s.ctx (s.queue q).owner) [] (wordAt ws 2) (wordAt ws 3) 16 false = .ok h := hh
    rw [hop]

/-- A patch of an object that no record stores: it takes a record and its first slot. -/
theorem patchFrom_new {i : Nat} {src : List Word} {m : MemView}
    (hnone : s.graph (graphKey (s.queue q).owner i) = none)
    (hsrc : patchSource s (s.queue q).owner i (graphKey (s.queue q).owner i) (fld (wordAt ws 1) 39 32) m = .ok src)
    (hroom : graphCount s < 16384) :
    patchFrom s q i ws m = finishPatch (s.setGraph (graphKey (s.queue q).owner i) (some
      { slots := [{ GSlot.reset with st := .storing }, GSlot.reset, GSlot.reset, GSlot.reset], last := 0,
        patching := some q })) q i (graphKey (s.queue q).owner i) 0 src ws m := by
  unfold patchFrom
  simp only [hsrc, storingSlot, hnone]
  rw [if_neg (by omega)]

theorem putPieces_of_good {port : Nat} {ps : List (Nat × Nat × Nat)} (h : badPiece s ps = none) (bs : List Byte) :
    putPieces s port ps bs = some (emits s (writesOf s port ps bs)) := by
  simp [putPieces, h]

end

end Sys2Proof.Machine

open Sys2Proof Sys2Proof.Machine

/-- Settles O31: the run, the exception, the patch's record and slot, and the version it stores, by the packet's own rules. -/
theorem graphPackets : Obligations.GraphPackets := by
  unfold Obligations.GraphPackets
  intro s q j ws m u hu c
  subst hu
  refine ⟨fun fw w i r slot vs img ah h hw hexc hres hgraph hslot hdepth himg hah hvs => ?_, fun fw h hexc => ?_,
    fun i hd src s0 s1 h hheld hres hhd hs0 hfree hs1 hnone hsrc hroom => ?_,
    fun i key slot src tb s1 s2 k bs img r v ps key' => ?_⟩
  · refine (show exec (.graphRun q m fw) s = _ from h.row _ _).trans ?_
    have hqueue : (countDecoded s q.toNat).queue q.toNat = s.queue q.toNat := by simp
    simp only [hqueue, hexc, Bool.false_eq_true, if_false]
    rw [show traceInstructions (countDecoded s q.toNat) (s.queue q.toNat).home fw.proc.toNat (s.queue q.toNat).owner fw = w from hw.symm]
    simp only [show resolveHandle (w.ctx (s.queue q.toNat).owner) (fld (wordAt ws 1) 31 0) = .ok i from hres]
    simp only [show w.graph (graphKey (s.queue q.toNat).owner i) = some r from hgraph, hslot]
    rw [if_neg (by omega)]
    have hargs : (if imgArgs img = 0 then .ok []
        else if noneOp (wordAt ws 2) (wordAt ws 3) = true then .ok (List.replicate (imgArgs img) 0)
        else (readOp w q.toNat (wordAt ws 2) (wordAt ws 3) (8 * imgArgs img) m).map wordsOfBytes : Except Status (List Word)) = .ok vs := by
      split at hvs
      · rw [hvs]; exact if_pos ‹_›
      · split at hvs
        · rw [if_neg ‹_›, hvs]; exact if_pos ‹_›
        · rw [if_neg ‹_›, ← hvs]; exact if_neg ‹_›
    subst himg
    rw [hargs, hah]
  · refine (show exec (.graphRun q m fw) s = _ from h.row _ _).trans ?_
    simp only [countDecoded_queue, hexc, if_true]
    rfl
  · have hc : ((countDecoded s q.toNat).queue q.toNat).owner = c := by simp [c]
    have hnoheld : heldOf (countDecoded s q.toNat) q.toNat = [] := by
      unfold heldOf; rw [countDecoded_job h.job]; exact hheld
    have hs1q : (s1.queue q.toNat).owner = c := by rw [hs1, hs0]; change ((holdPacket _ _ _).queue _).owner = _; simp [c]
    change execGraphPatch q m s = _
    unfold execGraphPatch
    rw [h.patchTurn, h.row]
    dsimp only
    rw [holdPatch_of_none_held (h := hd) hnoheld (by rw [hc]; exact hres) (by rw [hc]; exact hhd), hc, ← hs0]
    dsimp only
    rw [hfree, if_pos rfl, ← hs1, patchFrom_new (src := src) (by rw [hs1q]; exact hnone) (by rw [hs1q]; exact hsrc) hroom, hs1q]
  · intro hd bytes n pool hquota hspace htb hs1 hpatch happly hok hgraph hv hkey hps hs2 hgood
    have hc : ((countDecoded s q.toNat).queue q.toNat).owner = c := by simp [c]
    unfold finishPatch
    dsimp only
    rw [hc, if_neg (Nat.not_lt.mpr hquota), if_neg (Nat.not_lt.mpr hspace), ← htb, ← hs1, hpatch]
    dsimp only
    rw [happly]
    dsimp only
    rw [hok, hgraph]
    simp only [Bool.not_true, Bool.false_eq_true, if_false]
    subst hps hs2 hkey hv
    split
    next hnone => exact absurd (hnone.symm.trans (putPieces_of_good hgood _)) nofun
    next s3 hsome => rw [Option.some.inj (hsome.symm.trans (putPieces_of_good hgood _))]

end


section

/-! ## Engine commands on the lanes, and the grants of slots and records (R178, R186, R187) -/

namespace Sys2Proof.Machine

section
variable {s : State} {lane : Nat}

/-- The messages of a set of hub runs, in order. -/
theorem sendRuns_out (s : State) (lane kind : Nat) (es : List Nat) (b0 : Nat) (rest : List Word) :
    (sendRuns s lane kind es b0 rest).out = s.out ++ (hubRuns es).map (fun r =>
      Out.ecp lane kind r.1 r.2.1 r.2.2 (beatWords (b0 ||| (r.2.1 <<< 128)) ++ padBeats rest)) := by
  unfold sendRuns
  induction hubRuns es generalizing s with
  | nil => simp
  | cons r runs ih =>
    rw [List.foldl_cons, ih]
    simp [sendMsg]

/-- They change nothing but what is sent and counted. -/
theorem sendRuns_rest (s : State) (lane kind : Nat) (es : List Nat) (b0 : Nat) (rest : List Word) :
    { sendRuns s lane kind es b0 rest with out := s.out, pages := s.pages } = s := by
  unfold sendRuns
  induction hubRuns es generalizing s with
  | nil => rfl
  | cons r runs ih =>
    rw [List.foldl_cons]
    have hstep : { sendMsg s lane kind r.1 r.2.1 r.2.2 b0 rest with out := s.out, pages := s.pages } = s := by cases s; rfl
    have hih := ih (sendMsg s lane kind r.1 r.2.1 r.2.2 b0 rest)
    generalize runs.foldl _ (sendMsg s lane kind r.1 r.2.1 r.2.2 b0 rest) = t at hih ⊢
    generalize sendMsg s lane kind r.1 r.2.1 r.2.2 b0 rest = a at hstep hih
    rw [← hstep, ← hih]

/-- Each target holds one more unretired command. -/
def addCmds (x : Nat × Nat) (s : State) (es : List Nat) : State :=
  es.foldl (fun t e => t.setEp e { t.ep e with cmds := (t.ep e).cmds ++ [x] }) s

theorem addCmds_ep {x : Nat × Nat} {es : List Nat} (hnodup : es.Nodup) (s : State) (e : Nat) :
    (addCmds x s es).ep e = { s.ep e with cmds := if e ∈ es then (s.ep e).cmds ++ [x] else (s.ep e).cmds } := by
  induction es generalizing s with
  | nil => rfl
  | cons a es ih =>
    obtain ⟨hnot, hrest⟩ := List.nodup_cons.mp hnodup
    unfold addCmds at ih ⊢
    rw [List.foldl_cons, ih hrest, ep_setEp]
    by_cases h : e = a
    · subst h; simp [hnot]
    · simp [h]

theorem addCmds_rest (x : Nat × Nat) (s : State) (es : List Nat) : { addCmds x s es with eps := s.eps } = s := by
  induction es generalizing s with
  | nil => rfl
  | cons a es ih =>
    have hih := ih (s.setEp a { s.ep a with cmds := (s.ep a).cmds ++ [x] })
    unfold addCmds at hih ⊢
    rw [List.foldl_cons]
    generalize es.foldl _ (s.setEp a _) = t at hih ⊢
    calc { t with eps := s.eps } = { ({ t with eps := (s.setEp a { s.ep a with cmds := (s.ep a).cmds ++ [x] }).eps } : State) with
            eps := s.eps } := rfl
      _ = _ := by rw [hih]; rfl

theorem addCmds_out (x : Nat × Nat) (s : State) (es : List Nat) : (addCmds x s es).out = s.out := by
  have hrest := congrArg State.out (addCmds_rest x s es)
  exact hrest

section
variable (s : State) (lane : Nat) (h : CmdHead) (es : List Nat) (desc consts : List Word) (segs : List (Nat × Nat × Nat))

theorem commandMsgs_out : (commandMsgs s lane h es desc consts segs).out = s.out ++ (hubRuns es).map (fun r =>
    Out.ecp lane 0 r.1 r.2.1 r.2.2
      (beatWords (cmdBeat h desc.length consts.length (segs.flatMap segWords).length ||| (r.2.1 <<< 128)) ++
        padBeats (padBeats desc ++ padBeats consts ++ padBeats (segs.flatMap segWords)))) := by
  unfold commandMsgs
  simp only [out_count]
  exact sendRuns_out ..

theorem commandMsgs_rest : { commandMsgs s lane h es desc consts segs with out := s.out, pages := s.pages } = s := by
  unfold commandMsgs
  dsimp only
  have hrest := sendRuns_rest s lane 0 es (cmdBeat h desc.length consts.length (segs.flatMap segWords).length)
    (padBeats desc ++ padBeats consts ++ padBeats (segs.flatMap segWords))
  generalize sendRuns s lane 0 es _ _ = t at hrest ⊢
  exact hrest

end

/-- A command without a dependency: its messages, and the commands its targets hold. -/
theorem sendCommand_no_dep {h : CmdHead} (hdep : h.depEp = none) (es : List Nat) (desc consts : List Word)
    (segs : List (Nat × Nat × Nat)) :
    sendCommand s lane h es desc consts segs = addCmds (h.tag, h.ctx) (commandMsgs s lane h es desc consts segs) es := by
  unfold sendCommand
  simp only [hdep]
  rfl

end

end Sys2Proof.Machine

open Sys2Proof Sys2Proof.Machine

/-- Settles O33: the command's messages are those of its hub runs, and each grant goes to the head of its list. -/
theorem engineCommands : Obligations.EngineCommands := by
  unfold Obligations.EngineCommands
  refine ⟨fun s lane h es desc consts segs hnodup hdep => ?_, fun s q j p hj hlive => ⟨fun e hfind hphase hfree => ?_,
    fun k rest r hlist hrec hphase => ?_, fun k hlist => ?_⟩⟩
  · intro t
    have ht : t = addCmds (h.tag, h.ctx) (commandMsgs s lane h es desc consts segs) es := sendCommand_no_dep hdep ..
    let b := commandMsgs s lane h es desc consts segs
    have hb : b = commandMsgs s lane h es desc consts segs := rfl
    have hbrest : { b with out := s.out, pages := s.pages } = s := commandMsgs_rest ..
    have hbep : ∀ e, b.ep e = s.ep e := fun e => by rw [← hbrest]; rfl
    have hrest := addCmds_rest (h.tag, h.ctx) b es
    refine ⟨fun e => ?_, ?_, fun e => ?_, ?_⟩
    · rw [ht, addCmds_ep hnodup, hbep]
    · rw [ht, addCmds_out]; exact commandMsgs_out ..
    · rw [ht, addCmds_ep hnodup, hbep]
    · rw [ht]
      generalize addCmds (h.tag, h.ctx) b es = a at hrest ⊢
      calc { a with eps := s.eps, out := s.out, pages := s.pages }
          = { ({ a with eps := b.eps } : State) with eps := s.eps, out := s.out, pages := s.pages } := rfl
        _ = { ({ b with out := s.out, pages := s.pages } : State) with eps := s.eps } := by rw [hrest]
        _ = s := by rw [hbrest]
  · intro need s1
    have hrun : exec (.slotGrant e) s = if need.isEmpty then
        .next (runPlan (2 * p.cmds.length + 1)
          (modJob (chargeWait { s1 with slotWait := s1.slotWait.filter (· != q) } q) q (fun j => { j with phase := .run })) q
          { p with need := need })
        else .next (modJob s1 q (fun j => { j with phase := .slotWait { p with need := need } })) := by
      change execSlotGrant e s = _
      simp only [execSlotGrant, hfind, hlive, hfree, hj, hphase, Bool.not_true, Bool.or_self, Bool.false_eq_true, if_false]
      rfl
    refine ⟨fun hneed => hrun.trans (if_neg (by simpa using hneed)), fun hneed => hrun.trans ?_⟩
    rw [if_pos (by simp [hneed]), hneed]
  · intro s1 s2
    change execLaunchRecordGrant k s = _
    simp only [execLaunchRecordGrant, hlist, hlive, hrec, hj, hphase, Bool.false_eq_true, if_false]
    rfl
  · change execLaunchRecordGrant k s = _
    simp only [execLaunchRecordGrant, hlist]

end


section

/-! ## The Fans' streams (R200 to R204) -/

namespace Sys2Proof.Machine

section
variable {s : State} {q f : Nat} {ws : List Word} {m : MemView}

@[simp] theorem fan_holdPacket (s : State) (q : Nat) (h : Option Nat) (i : Nat) : (holdPacket s q h).fan i = s.fan i := by
  unfold holdPacket
  split
  · split
    · rfl
    · rfl
  · rfl

@[simp] theorem fan_modJob (s : State) (q : Nat) (g : Job → Job) (i : Nat) : (modJob s q g).fan i = s.fan i := by
  unfold modJob
  split <;> rfl

/-- A stream goes to the slot that is free. -/
theorem placeStream_of_free {slot : Nat} (h : freeSlot (s.fan f) = some slot) (x : Stream) :
    placeStream s q f x = queueStream s q f slot x := by
  unfold placeStream
  rw [h]

/-- A stream that passes every check of R201. -/
theorem checkStream_passes {gen va : Nat} {es : List Nat} {h tb : List Byte} {hd : Option Nat} {x : Nat × Option Nat}
    {segs : List (Nat × Nat × Nat)} (hsize : es.length ≤ 4096)
    (hread : readContainer s q (wordAt ws 2) (wordAt ws 3) m = .ok (h, va, hd)) (hkey : mayLoad s (s.queue q).owner = true)
    (hheader : headerOk h true = true)
    (hwhole : resolveMref (s.ctx (s.queue q).owner) (wordAt ws 2) (wordAt ws 3) (128 + bodyBytes h) false = .ok x)
    (hroom : 16 * segCount h ≤ bodyBytes h) (htb : vRead s (s.queue q).owner va (16 * segCount h) m = .ok tb)
    (hsegs : segTable (bodyBytes h) (segCount h) tb = some segs) (hgen : hdrGen h = gen) (hpos : gen ≠ 0)
    (hlog : isSealed s (s.ctx (s.queue q).owner).part = true → logRoom s (s.ctx (s.queue q).owner).part 1 = true) :
    checkStream s q gen es ws m = .ok (hd, streamOf s q gen es h va segs) := by
  have hfull : (isSealed s (s.ctx (s.queue q).owner).part && !logRoom s (s.ctx (s.queue q).owner).part 1) = false := by
    cases hs : isSealed s (s.ctx (s.queue q).owner).part
    · rfl
    · simp [hlog hs]
  unfold checkStream
  dsimp only
  rw [if_neg (by omega), hread]
  simp only [hkey, hheader, hwhole, htb, hsegs, hfull, Bool.not_true, Bool.false_eq_true, if_false]
  rw [if_neg (by omega), if_neg (by simp [hgen, hpos])]

/-- What the emission of a stream changes. -/
theorem emitStream_effect (x : Stream) (rest : List Stream) (body : List Byte) :
    (emitStream s f x rest body).out = s.out ++ (x.segs.map (fun p => .chiRead (fanPort f) p.1 p.2.2 p.2.1 false) ++
        fanOuts f (128 * f + x.slot) (beatWords (x.generation + (128 * f + x.slot) * 2 ^ 16) :: emissions body x.segTable)) ∧
    ((emitStream s f x rest body).fan f).streams = { x with emitted := true, computed := sha384 body } :: rest ∧
    ((emitStream s f x rest body).fan f).loop = lastN 262144 ((s.fan f).loop ++ loopBytes body x.segTable) ∧
    { (emitStream s f x rest body).fan f with streams := (s.fan f).streams, loop := (s.fan f).loop,
                                              bytes := (s.fan f).bytes } = s.fan f ∧
    (∀ i, i ≠ f → (emitStream s f x rest body).fan i = s.fan i) ∧
    { emitStream s f x rest body with out := s.out, fans := s.fans, pages := s.pages } = s := by
  unfold emitStream
  refine ⟨by simp, by simp, by simp, by simp, fun i hi => by simp [hi], by cases s; rfl⟩

end

end Sys2Proof.Machine

open Sys2Proof Sys2Proof.Machine

/-- Settles O35: a stream is checked, placed, emitted and ended by the Fan's own rules. -/
theorem fanStreams : Obligations.FanStreams := by
  unfold Obligations.FanStreams
  intro s q j ws m u hu c
  subst hu
  refine ⟨fun f es h va hd x tb segs slot gen hat hf hgen hready hquiet hvalid hpart hes hne hsize hread hkey hheader hwhole hroom
    htb hsegs hgenOk hpos hlog hslot => ?_, fun f y slot hat hf hready hquiet hvalid hpart hslot => ?_,
    fun f x rest body k hstreams hemitted hup hk hport hkeys hbody => ?_, fun f x rest hstreams hemitted => ?_,
    fun f hstreams => ⟨?_, ?_⟩⟩
  · intro y
    subst hf
    refine (show exec (.fanStream q m) s = _ from hat.row _ _).trans ?_
    have hc : ((countDecoded s q.toNat).queue q.toNat).owner = c := by simp [c]
    have hcheck := checkStream_passes (q := q.toNat) (gen := gen) (es := es) hsize hread (by rw [hc]; exact hkey) hheader
      (by rw [hc]; exact hwhole) hroom (by rw [hc]; exact htb) hsegs hgenOk hpos (by rw [hc]; exact hlog)
    dsimp only
    rw [hquiet, if_neg (by simp), if_neg (by rw [hvalid, hpart]; simp), hready, hes]
    cases es with
    | nil => exact absurd rfl hne
    | cons e es =>
      dsimp only
      rw [← hgen, hcheck]
      dsimp only
      rw [hslot, if_neg (by simp), placeStream_of_free (by simpa using hslot)]
  · subst hf
    refine (show exec (.fanStream q m) s = _ from hat.row _ _).trans ?_
    dsimp only
    rw [hquiet, if_neg (by simp), if_neg (by rw [hvalid, hpart]; simp), hready]
    exact congrArg _ (placeStream_of_free hslot y)
  · subst hk
    have hrun : exec (.fanStreamEmit f m) s = .next (emitStream s f.toNat x rest body) := by
      change execFanStreamEmit f m s = _
      have hno : x.segs.any (fun g => keyStopped s g.2.1) = false := by
        rw [List.any_eq_false]; intro g hg; simp [hkeys g hg]
      simp only [execFanStreamEmit, hstreams, hemitted, hup, fanPort, hport, hno, hbody, Bool.not_true, Bool.or_self,
        Bool.false_eq_true, if_false]
    exact ⟨_, hrun, emitStream_effect x rest body⟩
  · change execFanStreamComplete f s = _
    simp only [execFanStreamComplete, hstreams, hemitted, if_true]
    rfl
  · change execFanStreamComplete f s = _
    simp only [execFanStreamComplete, hstreams]
  · change execFanStreamEmit f m s = _
    simp only [execFanStreamEmit, hstreams]

/-- Settles O36: the call starts its routine, waits its turn, or halts the block, and its end sets D15 and the result. -/
theorem callRoutine : Obligations.CallRoutine := by
  unfold Obligations.CallRoutine
  intro s q j ws m u h hu c k id n
  subst hu
  refine ⟨fun fw w i va hd bs hidle hfirst hw hexc hres hread => ?_, fun fw i hidle hfirst hexc => ?_, fun fw hwait => ?_,
    fun v st => rfl, fun v hpkt => ⟨fun hbit => ?_, fun hbit => ?_⟩⟩
  · intro s1 s2
    refine (show exec (.callRoutine q m fw) s = _ from h.row _ _).trans ?_
    have hw' : traceInstructions (countDecoded (routineTurn s q.toNat) q.toNat)
        ((countDecoded (routineTurn s q.toNat) q.toNat).queue q.toNat).home i
        ((countDecoded (routineTurn s q.toNat) q.toNat).queue q.toNat).owner fw = w := hw.symm
    dsimp only
    rw [show idleProc _ _ q.toNat = some i from hidle]
    dsimp only
    rw [hfirst, hw', hexc, show resolveMref _ _ _ _ _ = .ok (va, hd) from hres]
    dsimp only
    rw [show vRead w _ va _ m = .ok bs from hread]
    rfl
  · refine (show exec (.callRoutine q m fw) s = _ from h.row _ _).trans ?_
    dsimp only
    rw [show idleProc _ _ q.toNat = some i from hidle]
    dsimp only
    rw [hfirst, hexc]
    rfl
  · refine (show exec (.callRoutine q m fw) s = _ from h.row _ _).trans ?_
    dsimp only
    split
    · rfl
    · rename_i i hidle
      have hlast := hwait.resolve_left (by rw [show idleProc _ k q.toNat = some i from hidle]; simp)
      rw [hlast]
      rfl
  · simp [setRdst, hpkt, hbit]
  · simp [setRdst, hpkt, hbit]

end


section

/-! ## The resident routines (R241 to R253, R359) -/

namespace Sys2Proof.Machine

theorem ok_bind {α β : Type} (a : α) (f : α → Except Status β) : (Except.ok a >>= f) = f a := rfl

theorem bind_of_ok {α β : Type} {x : Except Status α} {a : α} (h : x = .ok a) (f : α → Except Status β) : (x >>= f) = f a := by
  rw [h, ok_bind]

theorem need_of_true {b : Bool} (h : b = true) : need b = .ok () := by rw [h]; rfl

section
variable {s t : State} {q id : Nat} {j : Job} {p : List Byte} {f : List Byte → Except Status Done} {v : Word}

section
variable (hj : s.job q = some j) (hlive : s.halted = false) (hup : sliceUp s (s.queue q).home = true)
include hj hlive hup

/-- The row of the routine a job runs (R226). -/
theorem routineRow_runs (hbusy : recordBusy s q = false) (hphase : j.phase = .routine id p) :
    routineRow s q id f = match f p with
      | .ok d => .next (match d.failed with
        | none => endRoutine d.st q d.result d.d15
        | some e => failRoutine d.st q e)
      | .error e => .next (failRoutine s q e) := by
  unfold routineRow
  simp only [hj, hphase, hlive, hup, hbusy, ne_eq, decide_not, decide_true, Bool.not_true, Bool.or_self, Bool.false_eq_true, if_false] <;> rfl

/-- One that finishes. -/
theorem routineRow_ok (hbusy : recordBusy s q = false) (hphase : j.phase = .routine id p) (hf : f p = .ok ⟨t, v, ST_OK, none⟩) :
    routineRow s q id f = .next (endRoutine t q v ST_OK) := by
  rw [routineRow_runs hj hlive hup hbusy hphase, hf]

/-- A routine that ALLOC or FREE of the object unit is. -/
theorem runsRoutine_of_phase (hphase : j.phase = .routine id p) : runsRoutine s q id = some p := by
  unfold runsRoutine
  simp only [hj, hphase, hlive, hup, decide_true, Bool.not_false, Bool.and_self, if_true]

end

/-! ### One output, or two, that memory takes -/

theorem putOutputs_one {va : Nat} {bs : List Byte} (h : wr s q va bs = .ok t) : putOutputs s q [(va, bs)] = (t, none) := by
  simp only [putOutputs, h]

theorem putOutputs_two {u : State} {va wa : Nat} {bs cs : List Byte} (h : wr s q va bs = .ok t) (h2 : wr t q wa cs = .ok u) :
    putOutputs s q [(va, bs), (wa, cs)] = (u, none) := by
  simp only [putOutputs, h, h2]

theorem putCommit_one {va : Nat} {bs : List Byte} (h : wr s q va bs = .ok t) : putCommit s q [(va, bs)] none = (t, none) := by
  simp only [putCommit, h]

theorem putCommit_two {u : State} {va wa : Nat} {bs cs : List Byte} (h : wr s q va bs = .ok t) (h2 : wr t q wa cs = .ok u) :
    putCommit s q [(va, bs), (wa, cs)] none = (u, none) := by
  simp only [putCommit, h, h2]

end

end Sys2Proof.Machine

open Sys2Proof Sys2Proof.Machine

/-- Settles O37: the parameters pass, the operands resolve, and the results that the table names are written. -/
theorem routines : Obligations.Routines := by
  unfold Obligations.Routines
  refine ⟨?_, ?_⟩
  · intro s q j p m hj hlive hup hbusy ok
    refine ⟨fun va sva len h r a hist hphase heven hform hpst hpsrc hva hsva hh hlen hhdr hva2 hr ha => ?_,
      fun n code sva dva bs t xs hphase hn hcode hmode hform hp1 hp2 hsva hdva hbs hxs ht => ?_,
      fun n ne k code mode lva ava cva bs r t1 t hphase hn hne hk hcode hmode hform hp1 hp2 hp3 hlva hava hcva hbs hr ht1 ht => ?_,
      fun n tva x y tb es dva sva t v hphase hn hform hp1 hp2 hp3 htva hx hy htb hall hes hdva hsva hrun => ?_,
      fun n fva sva fs r u t hphase hn hclear hform hp1 hp2 hfva hsva hfs hr hu ht => ?_,
      fun ns l dva tva ova ds ts as t hphase hns hl hmode hform hp1 hp2 hp3 hdva htva hova hds hts has ht => ?_,
      fun e hphase herr => ?_⟩
    · have hform1 : (reserved0 p [(71, 1)] && decide (pf p 70 1 < 32)) = true := by
        simp only [Bool.and_eq_true] at hform ⊢; exact hform.1.1.1
      have hform2 : within (pf p 69 1) 3 7 = true := by
        simp only [Bool.and_eq_true] at hform ⊢; exact hform.1.1.2
      have hform3 : (absent (pm p 32) && absent (pm p 48)) = true := by
        simp only [Bool.and_eq_true] at hform ⊢; exact ⟨hform.1.2, hform.2⟩
      have hrun : scaleUpdate s q.toNat m p =
          scaleTensor s q.toNat va ((fmtOf (pf p 69 1)).getD fp32) ((pf p 70 1).testBit 4) r (leNat a) := by
        subst hlen
        unfold scaleUpdate
        simp only [need_of_true hform1, need_of_true hform2, need_of_true hform3, need_of_true hhdr, heven, if_true, hpst, hpsrc, hva,
          hsva, hh, hva2, hr, ha, ok_bind]
      refine ⟨fun t hinf ht => ?_, fun top sc t1 t hfin hhist htop hbad hnan hsc ht1 ht => ?_⟩
      · refine routineRow_ok hj hlive hup hbusy hphase (hrun.trans ?_)
        unfold scaleTensor
        simp only [hinf, Bool.not_false, if_true, putCommit_one ht]
      · refine routineRow_ok hj hlive hup hbusy hphase (hrun.trans ?_)
        have hclean : (badAmax ((pf p 70 1).testBit 4) top || (pf r 6 1 == 0 &&
            ((hist.take (min (pf r 4 2 + 1) (pf r 0 2))).map val32).any (· == .nan))) = false := by
          rw [hbad, Bool.false_or]
          by_cases hzero : pf r 6 1 = 0
          · rw [hnan hzero, Bool.and_false]
          · simp [hzero]
        unfold scaleTensor
        simp only [hfin, Bool.not_true, Bool.false_eq_true, if_false, ← hhist, ← htop, hclean, ← hsc, putCommit_two ht1 ht]
    · refine routineRow_ok hj hlive hup hbusy hphase ?_
      subst hn hcode hxs
      have hneed : (reserved0 p [(38, 10)] && within (pf p 32 4) 1 (2 ^ 28) && (within (pf p 36 1) 0 7 || within (pf p 36 1) 9 12) &&
          decide (0 ≤ 1)) = true := by rw [hform]; rfl
      unfold amaxReduce
      simp only [need_of_true hneed, hp1, hp2, ok_bind, hsva, hmode, if_true, Nat.mul_one, hdva, hbs, List.flatMap_cons,
        List.flatMap_nil, List.append_nil, ht]
    · refine routineRow_ok hj hlive hup hbusy hphase ?_
      subst hn hne hk hcode hmode
      unfold topkRoute
      simp only [need_of_true hform, hp1, hp2, hp3, ok_bind, hlva, hava, hcva, hbs, ← hr, putOutputs_two ht1 ht]
    · refine routineRow_ok hj hlive hup hbusy hphase ?_
      subst hn hes
      unfold shapeEval
      simp only [need_of_true hform, need_of_true hall, hp1, hp2, hp3, ok_bind, htva, hx, hy, htb, hdva, hsva, hrun]
    · refine routineRow_ok hj hlive hup hbusy hphase ?_
      subst hn
      have hneed : (reserved0 p [(37, 11)] && within (pf p 32 4) 1 65536 && decide (0 ≤ 1)) = true := by rw [hform]; rfl
      have hread : ((0 : Nat) == 1) = false := rfl
      unfold lossScaleCheck
      simp only [need_of_true hneed, hread, hclear, hp1, hp2, ok_bind, hfva, hsva, hfs, hr, ← hu, Nat.zero_ne_one, if_false, putOutputs,
        putCommit_one ht]
    · refine routineRow_ok hj hlive hup hbusy hphase ?_
      subst hns hl has
      have hform1 : (reserved0 p [(68, 4)] && within (pf p 64 2) 1 4096 && within (pf p 66 1) 1 32 && decide (0 ≤ 1)) = true := by
        simp only [Bool.and_eq_true] at hform ⊢; exact ⟨hform.1, rfl⟩
      have hform2 : absent (pm p 32) = true := by
        simp only [Bool.and_eq_true] at hform; exact hform.2
      unfold specAccept
      simp only [need_of_true hform1, need_of_true hform2, hmode, if_true, hp1, hp2, hp3, ok_bind, hdva, htva, hova, hds, hts, ht]
    · refine (routineRow_runs hj hlive hup hbusy hphase).trans ?_
      rw [herr]
  · intro s q j p m hj hlive hup hbusy ok
    refine ⟨fun n w sva dva bs t hphase hn hw hform hp1 hp2 hsva hdva hbs ht => ?_,
      fun n b type sva bva bs old r t hphase hn hb htype hform hp1 hp2 hsva hbva hbs hold hr ht => ?_,
      fun n kva sva ks ps t hphase hn hdesc habsent hform hp1 hp2 hkva hsva hks hps ht => ?_, fun d hphase hd => ?_,
      fun n sva dva bs t hphase hn hform hp1 hp2 hsva hdva hbs ht => ?_,
      fun n sva dva bs t hphase hn hform hrec hseal hp1 hp2 hsva hdva hbs ht => ?_,
      fun n sva dva bs t hphase hn hform hp1 hp2 hsva hdva hbs ht => ?_,
      fun rva t h va hphase hform habsent hfixed hattr hrva halloc => ?_, fun t i hphase hform hfree habort => ?_⟩
    · refine routineRow_ok hj hlive hup hbusy hphase ?_
      subst hn hw
      unfold prefixSum
      simp only [need_of_true hform, hp1, hp2, ok_bind, hsva, hdva, hbs, ht]
    · refine routineRow_ok hj hlive hup hbusy hphase ?_
      subst hn hb htype hr
      unfold histogramR
      simp only [need_of_true hform, hp1, hp2, ok_bind, hsva, hbva, hbs]
      by_cases haccum : pf p 41 1 = 1
      · rw [if_pos haccum] at hold
        simp only [if_pos haccum, hold, ok_bind]
        exact bind_of_ok ht _
      · rw [if_neg haccum] at hold
        simp only [if_neg haccum, ← hold]
        exact bind_of_ok ht _
    · refine routineRow_ok hj hlive hup hbusy hphase ?_
      subst hn hps
      have hform1 : (reserved0 p [(54, 10)] && within (pf p 48 4) 1 65536 && decide (pf p 52 1 ≤ 2) && decide (0 ≤ 1)) = true := by
        rw [hform]; rfl
      have hform2 : (true || mrefFixed (pm p 16)) = true := rfl
      unfold sortSmall
      simp only [need_of_true hform1, need_of_true hform2, habsent, hdesc, if_true, hp1, hp2, ok_bind, hkva, hsva, hks, Nat.zero_ne_one,
        if_false, putOutputs_one ht]
    · refine (routineRow_runs hj hlive hup hbusy hphase).trans ?_
      rw [hd] <;> rfl
    · refine routineRow_ok hj hlive hup hbusy hphase ?_
      subst hn
      unfold copySmall
      simp only [need_of_true hform, hp1, hp2, ok_bind, hsva, hdva, hbs, ht]
    · refine routineRow_ok hj hlive hup hbusy hphase ?_
      subst hn
      have hneed : (reserved0 p [(41, 7)] && within (pf p 32 8) 1 (2 ^ 36) && decide (pf p 40 1 ≤ 1)) = true := by
        rw [hform, decide_eq_true hrec]; rfl
      have hlogs : (pf p 40 1 == 1 && isSealed s (partQ s q.toNat)) = false := by
        by_cases hone : pf p 40 1 = 1
        · simp [hseal hone]
        · simp [hone]
      unfold hashMeasure
      simp only [need_of_true hneed, hlogs, hp1, hp2, ok_bind, hsva, hdva, hbs, Bool.false_and, Bool.false_eq_true, if_false,
        putOutputs_one ht]
    · refine routineRow_ok hj hlive hup hbusy hphase ?_
      subst hn
      unfold watchDump
      simp only [need_of_true hform, hp1, hp2, ok_bind, hsva, hdva, hbs, hj, dumpOrDrop, ht]
    · change execRoutineAlloc q s = _
      have hbad : (!(reserved0 p [(17, 15)]) || absent (pm p 32) || !(mrefFixed (pm p 32)) || decide (8 ≤ pf p 16 1)) = false := by
        rw [hform, habsent, hfixed, decide_eq_false (by omega)]; rfl
      unfold execRoutineAlloc
      simp only [runsRoutine_of_phase hj hlive hup hphase, hbad, Bool.false_eq_true, if_false, hrva, halloc]
    · change execRoutineFree q s = _
      unfold execRoutineFree
      simp only [runsRoutine_of_phase hj hlive hup hphase, hform, Bool.not_true, Bool.false_eq_true, if_false, hfree, habort,
        Bool.false_and]

end


section

/-! ## Waits at fences, and the atomics and messages behind them (R149 to R168) -/

namespace Sys2Proof.Machine

section
variable {s s1 t : State} {q kind : Nat} {f : Fence} {target v : Word} {m : MemView} {ws : List Word}

/-- A wait packet whose fence resolves retires at a trivial target and starts its wait at any other (R157). -/
theorem waitPacket_of_resolved
    (h : resolveFence s (s.queue q).owner (wordAt ws 1) (some (kind != 0)) (kind == 2) m = .ok (s1, f)) :
    waitPacket s q kind ws m =
      if trivialWait kind (wordAt ws 2) then retire s1 q else startWait s1 q kind f (wordAt ws 2) := by
  unfold waitPacket; rw [h]

theorem not_trivialWait (h : target ≠ 0 ∨ kind = 2) : trivialWait kind target = false := by
  unfold trivialWait
  rcases h with h | h
  · rw [beq_false_of_ne h]; rfl
  · rw [h]; simp

section
variable {w : Waiter} {s0 : State} {l : Nat}
variable (hs0 : s0 = modJob s1 q (fun j => { j with phase := .fence }))
  (hw : w = { st := .idle, kind := kind, target := target, fence := f, line := 0, since := s1.now, busy := none, seen := 0 })
include hs0

/-- A wait at a fence whose cached value satisfies it ends on the fast path (R157). -/
theorem startWait_fast (hhome : f.home = dieId s1) (hline : findLine s1 f = some l) (hhit : lineHit (s1.line l) f kind target = true)
    (hkind : kind ≠ 2) : startWait s1 q kind f target = wakeQueue s0 q 2 := by
  have hwsh : s0.wsh = s1.wsh := by rw [hs0, modJob_wsh]
  have hfound : findLine s0 f = some l := (findLine_congr (by rw [hwsh]) f).trans hline
  have hsame : lineHit (s0.line l) f kind target = true := by
    rw [← hhit]; unfold State.line; rw [hwsh]
  unfold startWait
  simp only [hhome, ne_eq, not_true_eq_false, if_false, ← hs0, hfound, hsame]
  simp [hkind]

include hw

/-- A wait at a fence of this die that no cached value satisfies is armed where a line can hold its waiter (R158). -/
theorem startWait_armed (hhome : f.home = dieId s1)
    (hmiss : ∀ x, findLine s1 f = some x → lineHit (s1.line x) f kind target = false) (hline : takeLine s0 f = some (l, t)) :
    startWait s1 q kind f target = armWait s0 q w := by
  have hwsh : s0.wsh = s1.wsh := by rw [hs0, modJob_wsh]
  unfold startWait
  simp only [hhome, ne_eq, not_true_eq_false, if_false, ← hs0, ← hw, findLine_congr (s := s1) (t := s0) (by rw [hwsh]) f]
  cases hfound : findLine s1 f with
  | none => simp only [hline]
  | some x =>
    have hsame : lineHit (s0.line x) f kind target = false := by
      rw [← hmiss x hfound]; unfold State.line; rw [hwsh]
    simp only [hsame, Bool.false_and, Bool.false_eq_true, if_false]

/-- A wait at a fence of another die is watched there (R159). -/
theorem startWait_remote (hhome : f.home ≠ dieId s1) : startWait s1 q kind f target = startRemote s0 q w := by
  unfold startWait
  simp only [hhome, ne_eq, not_false_eq_true, if_true, ← hs0, ← hw]

end

theorem evaluate_of_uncached {own : Option LineWaiter} {exact : Bool} (h : findLine t f = none) :
    evaluate (cacheFence t f v) f v exact own = t := by
  simp only [cacheFence, evaluate, h]

end

end Sys2Proof.Machine

open Sys2Proof Sys2Proof.Machine

/-- Settles O38: each of the three packets is `waitPacket` at its packet, and a fence that resolves takes one of its four ways. -/
theorem waitPackets : Obligations.WaitPackets := by
  unfold Obligations.WaitPackets
  intro s q j ws m u kind i hu hpacket s1 f hres target s0 w
  have hrow : exec i s = .next (waitPacket u q.toNat kind ws m) := by
    subst hu
    rcases hpacket with ⟨rfl, rfl, hat⟩ | ⟨rfl, rfl, hat, hflag⟩ | ⟨rfl, rfl, hat, hflag⟩
    · exact hat.row _ _
    · exact (show exec (.waitCount q m) s = _ from hat.row _ _).trans (by rw [hflag]; rfl)
    · exact (show exec (.waitCount q m) s = _ from hat.row _ _).trans (by rw [hflag]; rfl)
  have howner : (u.queue q.toNat).owner = (s.queue q.toNat).owner := by rw [hu, countDecoded_queue]
  rw [hrow, waitPacket_of_resolved (by rw [howner]; exact hres)]
  refine ⟨fun hzero hkind => ?_, fun l hzero hhome hline hhit hkind => ?_, fun l t hwaits hhome hmiss hline => ?_,
    fun l t hwaits hhome hline => ?_⟩
  · rw [if_pos (by simpa [trivialWait] using ⟨hzero, hkind⟩)]
  · rw [if_neg (by simpa using not_trivialWait (.inl hzero)), startWait_fast rfl hhome hline hhit hkind]
  · rw [if_neg (by simpa using not_trivialWait hwaits), startWait_armed (s0 := s0) (w := w) rfl rfl hhome hmiss hline]
    unfold armWait
    simp only [show w.fence = f from rfl, hline]
  · rw [if_neg (by simpa using not_trivialWait hwaits), startWait_remote (s0 := s0) (w := w) rfl rfl hhome]
    unfold startRemote
    simp only [show w.fence = f from rfl, hline]

namespace Sys2Proof.Machine

section
variable {s d s1 t : State} {n : Nat} {a : Atomic} {m : MemView} {old : Word} {w : LineWaiter} {path : ConsumePath}

/-- The answer of a signal that its packet did not defer is judged, and the fence's next atomic may go (R149, R150). -/
theorem fenceAtomicComplete_of_signal (hat : atomicAt s n = some a) (huse : a.use = .signal) (hnow : a.deferred = false)
    (hd : d = dropAtomic (landed s (.atomic a.fence.pa)) n)
    (hs1 : s1 = match a.job with | some q => modJob d q (fun j => { j with atomics := j.atomics - 1 }) | none => d) :
    exec (.fenceAtomicComplete n (some old) m) s = .next (nextAtomic (judgeSignal s1 a old) a.fence.pa) := by
  change execFenceAtomicComplete n (some old) m s = _
  subst hs1 hd
  unfold execFenceAtomicComplete
  simp only [hat, huse, hnow, Bool.false_eq_true, if_false]
  cases a.job <;> rfl

/-- The answer of a consuming wait is judged, and the fence's next atomic may go (R162). -/
theorem consumeAddReturn_of_consume (hat : atomicAt s n = some a) (huse : a.use = .consume w path)
    (hd : d = dropAtomic (landed s (.atomic a.fence.pa)) n) :
    exec (.consumeAddReturn n (some old)) s = .next (nextAtomic (judgeConsume d a w path old) a.fence.pa) := by
  change execConsumeAddReturn n (some old) s = _
  subst hd
  unfold execConsumeAddReturn
  simp only [hat, huse]

theorem judgeSignal_max (hadd : a.add = false) (hcold : findLine t a.fence = none) :
    judgeSignal t a old =
      if a.operand.toNat < old.toNat ∧ a.fence.checked then
        signalFault (count t pgWSH (if a.operand.toNat < old.toNat then 1 else 0)) a ST_FENCE_REGRESS
      else count t pgWSH (if a.operand.toNat < old.toNat then 1 else 0) := by
  have hcold' (k : Nat) : findLine (count t pgWSH k) a.fence = none := hcold
  simp only [judgeSignal, hadd, Bool.false_eq_true, if_false, evaluate_of_uncached (hcold' _)]

theorem judgeSignal_add (hadd : a.add = true) (hcold : findLine t a.fence = none) :
    judgeSignal t a old =
      if old.toInt + a.operand.toInt < 0 then signalFault (compensate t a) a ST_FENCE_UNDERFLOW
      else if (a.fence.ceiling : Int) < old.toInt + a.operand.toInt then signalFault (compensate t a) a ST_FENCE_OVERFLOW
      else count t pgWSH 0 := by
  have hcold' : findLine (count t pgWSH 0) a.fence = none := hcold
  simp only [judgeSignal, hadd, if_true, evaluate_of_uncached hcold']

theorem signalFault_here {st : Status} (h : a.remote = none) :
    signalFault t a st = loseContext t a.ctx st (a.job.map (fun q => (q, a.pidx))) := by
  simp only [signalFault, h]

end

end Sys2Proof.Machine

/-- Settles O40: the answer drops its atomic and is judged; over an uncached fence nothing else sees its value. -/
theorem atomicReturns : Obligations.AtomicReturns := by
  unfold Obligations.AtomicReturns
  intro s n a m d
  refine ⟨fun hnone old => ⟨?_, ?_⟩, fun hat hline hnow hd => ?_⟩
  · change execFenceAtomicComplete n old m s = _
    unfold execFenceAtomicComplete; rw [hnone]
  · change execConsumeAddReturn n old s = _
    unfold execConsumeAddReturn; rw [hnone]
  · have hdline : findLine d a.fence = none := by
      obtain ⟨out, flights, hland⟩ := landed_eq s (.atomic a.fence.pa)
      rw [hd, hland]; exact hline
    have hdhalted : d.halted = s.halted := by
      obtain ⟨out, flights, hland⟩ := landed_eq s (.atomic a.fence.pa)
      rw [hd, hland]; rfl
    refine ⟨fun old s1 huse hhere hs1 => ?_, fun old q path t huse hstands hlive hlow hhigh ht htline => ?_,
      fun old q path huse hpath hlow => ?_, fun old q t huse hlow ht hstands => ?_⟩
    · have hcold : findLine s1 a.fence = none := by
        rw [← hdline, hs1]
        split
        · exact findLine_congr (by rw [modJob_wsh]) _
        · rfl
      rw [fenceAtomicComplete_of_signal hat huse hnow hd hs1]
      refine ⟨fun hmax hle => ?_, fun hmax hlt hplain => ?_, fun hmax hlt hcheck => ?_, fun hadd hlow hhigh => ?_,
        fun hadd hlow hhigh => ?_, fun hadd hlow => ?_⟩
      · rw [judgeSignal_max hmax hcold, if_neg (fun h => absurd h.1 (by omega)), if_neg (by omega)]
      · rw [judgeSignal_max hmax hcold, if_neg (by simp [hplain]), if_pos hlt]
      · rw [judgeSignal_max hmax hcold, if_pos ⟨hlt, hcheck⟩, if_pos hlt, signalFault_here hhere]
      · rw [judgeSignal_add hadd hcold, if_neg (by omega), if_neg (by omega)]
      · rw [judgeSignal_add hadd hcold, if_neg (by omega), if_pos hhigh, signalFault_here hhere]
      · rw [judgeSignal_add hadd hcold, if_pos hlow, signalFault_here hhere]
    · have hwakes : noWake d (.queue q) = false := by simp [noWake, hdhalted, hlive]
      have hcold : findLine (t.setWaiter q Waiter.reset) a.fence = none := htline
      rw [consumeAddReturn_of_consume hat huse hd]
      unfold judgeConsume
      simp only [hstands, hwakes, Bool.not_false, Bool.and_self, if_true, ← ht, evaluate_of_uncached hcold,
        if_neg (show ¬ old.toInt < (-a.operand).toInt by omega),
        if_neg (show ¬ (ceilingOf a.fence.ceiling : Int) < old.toInt + a.operand.toInt by omega)]
    · rw [consumeAddReturn_of_consume hat huse hd]
      unfold judgeConsume
      simp only [if_pos hlow, consumeLowered]
      rcases hpath with rfl | rfl <;> simp
    · rw [consumeAddReturn_of_consume hat huse hd]
      unfold judgeConsume
      simp only [if_pos hlow, consumeLowered, hstands, ← ht, Bool.not_true, Bool.false_eq_true, if_false]

namespace Sys2Proof.Machine

section
variable {s : State} {e : BitVec 14} {id : BitVec 24} {v : Word} {m : MemView}

/-- A count or a signal on the sync channel (R155). -/
theorem exec_syncChannel (counting : Bool) :
    exec (if counting = true then .syncAdd e id v m else .syncSignal e id v m) s =
      .next (syncSignal s e.toNat id.toNat counting v m) := by
  cases counting <;> rfl

theorem syncSignal_of_no_ctx {counting : Bool} {e id : Nat} (h : epCtx s e = none) :
    syncSignal s e id counting v m = setErr s pgECP 2 e := by
  unfold syncSignal; rw [h]

theorem syncSignal_of_ctx {counting : Bool} {e id c : Nat} (h : epCtx s e = some c) :
    syncSignal s e id counting v m = signalOf s c id counting v (lastEp e) m := by
  unfold syncSignal; rw [h]

/-- An atomic no job waits for, on a fence of this die that no line caches, is recorded and leaves on the port of its address
(R43, R149). -/
theorem signal_uncached {f : Fence} {c : Nat} {last : W32} (hhome : f.home = dieId s) (hline : findLine s f = none)
    (hkey : keyStopped s f.key = false) (hfree : f.counting = true → orderHeld s f.pa = false) :
    signal s f v c last none false none =
      issue { s with wsh := { s.wsh with atomics := s.wsh.atomics ++
          [{ sigAtomic f v c last none false none none with issued := true }] } }
        (portSpine f.pa) (.atomic f.pa) [.chiAtomic (portSpine f.pa) f.pa f.key f.counting v] := by
  have hadd := addAtomic_of_no_job (s := s) (a := sigAtomic f v c last none false none none) rfl rfl hfree
  have hcold : findLine (addAtomic s (sigAtomic f v c last none false none none)) f = none := by
    rw [hadd]; exact (findLine_congr (by rw [issue_wsh]) f).trans hline
  unfold signal
  rw [if_neg (by simp [hhome])]
  simp only [hkey, Bool.false_eq_true, if_false]
  rw [performSignal_of_uncached hcold, hadd]
  simp only [portSpine_eq]
  rfl

end

end Sys2Proof.Machine

/-- Settles O42: the sync channel's operation is `syncSignal`, by whether the endpoint works for a context. -/
theorem engineSignals : Obligations.EngineSignals := by
  unfold Obligations.EngineSignals
  intro s e id v m
  refine ⟨fun hnone => ⟨?_, ?_⟩, fun c s1 f counting hctx hres hhome hline hkey hfree => ?_, fun op c x hop hctx hx => ?_,
    fun c s1 f hcached hres => ?_, fun op hop hnone => ?_⟩
  · exact congrArg Host.Outcome.next (syncSignal_of_no_ctx hnone)
  · exact congrArg Host.Outcome.next (syncSignal_of_no_ctx hnone)
  · have hkind : f.counting = counting := (resolveFence_spec hres).2 counting rfl
    rw [exec_syncChannel, syncSignal_of_ctx hctx, signalOf_resolved hres,
      signal_uncached hhome hline hkey (fun hc => hfree (hkind ▸ hc))]
  · change execReservedSyncOp e id op v s = _
    unfold execReservedSyncOp
    rw [if_neg (by omega), hctx, hx]
  · unfold syncWordAddr
    rw [if_pos hcached, hres]
  · change execReservedSyncOp e id op v s = _
    unfold execReservedSyncOp
    rw [if_neg (by omega), hnone]

namespace Sys2Proof.Machine

section
variable {s t : State} {x : RemoteWatch} {l : Nat}

theorem issue_watches (s : State) (k : Nat) (who : Access) (outs : List Out) :
    (issue s k who outs).wsh.watches = s.wsh.watches := by rw [issue_wsh]

theorem heldReads_watches (rs : List HeldRead) (s : State) : (rs.foldl HeldRead.go s).wsh.watches = s.wsh.watches := by
  induction rs generalizing s with
  | nil => rfl
  | cons r rs ih => exact (ih (r.go s)).trans (issue_watches _ _ _ _)

theorem releaseReads_watches (s : State) (pa : Nat) : (releaseReads s pa).wsh.watches = s.wsh.watches := by
  unfold releaseReads
  split
  · rfl
  · exact heldReads_watches _ _

theorem nextAtomic_watches (s : State) (pa : Nat) : (nextAtomic s pa).wsh.watches = s.wsh.watches := by
  unfold nextAtomic issueAtomic
  split
  · rfl
  · split
    · exact releaseReads_watches s pa
    · split
      · rfl
      · exact issue_watches _ _ _ _

/-- What an unwatch leaves of the watches (R159). -/
theorem dropWatch_watches (s : State) (x : RemoteWatch) :
    (dropWatch s x).wsh.watches = s.wsh.watches.filter (fun y => !(y.die == x.die && y.queue == x.queue)) := by
  unfold dropWatch
  simp only [dropReads, nextAtomic_watches]
  split <;> rfl

/-- A watch of an uncached fence is taken and armed (R159). -/
theorem takeWatch_uncached (h : findLine s x.fence = none) :
    takeWatch s x = armWatch { s with wsh := { s.wsh with watches := s.wsh.watches ++ [x] } } x := by
  unfold takeWatch; rw [h]

theorem armWatch_of_line (h : takeLine s x.fence = some (l, t)) :
    armWatch s x = readFence (linkWaiter (putWatch t { x with line := some l }) l (.watch x.die x.queue))
      (.watch x.die x.queue) x.fence := by
  unfold armWatch; rw [h]

end

end Sys2Proof.Machine

/-- Settles O44: each message in form is its row's effect on the state with the message counted. -/
theorem fenceMessages : Obligations.FenceMessages := by
  unfold Obligations.FenceMessages
  intro s die beat u b hu hb
  subst hu hb
  refine ⟨fun h => ?_, fun h => ⟨fun hfull => ?_, fun l t x w hroom hx hw hline hline' => ?_⟩,
    fun h => ⟨fun hnone => ?_, fun x hx => ⟨?_, dropWatch_watches _ _⟩⟩, fun q w h hq hw hst hpa hhome => ⟨fun hbusy => ?_, fun hidle hlive => ?_⟩,
    fun h => congrArg Host.Outcome.next (h.run _), fun hnot => ?_⟩
  · exact congrArg Host.Outcome.next (h.run _)
  · refine (congrArg Host.Outcome.next (h.run _)).trans ?_
    exact congrArg Host.Outcome.next (if_pos hfull)
  · refine (congrArg Host.Outcome.next (h.run _)).trans ?_
    rw [if_neg (by exact Nat.not_le.2 hroom), show (count s pgPER 1).now = s.now from rfl, ← hx, takeWatch_uncached (by exact hline), armWatch_of_line hline', hw, hx]
  · refine (congrArg Host.Outcome.next (h.run _)).trans ?_
    have hnone' : watchOf (count s pgPER 1) die.toNat (bitsN beat.toNat 33 16) = none := hnone
    rw [hnone']
  · refine (congrArg Host.Outcome.next (h.run _)).trans ?_
    have hx' : watchOf (count s pgPER 1) die.toNat (bitsN beat.toNat 33 16) = some x := hx
    rw [hx']
  · refine (congrArg Host.Outcome.next (h.run _)).trans ?_
    have hw' : (count s pgPER 1).waiter (bitsN beat.toNat 33 16) = w := by rw [hw, hq]; rfl
    simp only [hw', hst, hpa, hhome, hbusy, beq_self_eq_true, Bool.and_self, if_true, hq]
    rfl
  · refine (congrArg Host.Outcome.next (h.run _)).trans ?_
    have hw' : (count s pgPER 1).waiter (bitsN beat.toNat 33 16) = w := by rw [hw, hq]; rfl
    have hlive' : (count s pgPER 1).halted = false := hlive
    simp only [hw', hst, hpa, hhome, hidle, hlive', beq_self_eq_true, Bool.and_self, if_true, hq, Bool.and_false, Bool.false_eq_true,
      if_false]
  · change execUnlistedPeerMessage die beat s = _
    unfold execUnlistedPeerMessage
    rw [if_neg (by simpa using hnot)]

end


section

/-! ## Returned reads of fences, the wait-for snapshot, and writes that memory refuses (R45, R156 to R161, R170, R341) -/

namespace Sys2Proof.Machine

/-- The first entry that meets a test keeps its key when its value is replaced by one that meets the test too. -/
theorem find_tput {α : Type} {P : α → Bool} {i : Nat} {x : α} (hx : P x = true) :
    ∀ {t : Table α}, (t.find? (fun e => P e.2)).map (·.1) = some i → ((tput t i x).find? (fun e => P e.2)).map (·.1) = some i
  | [], h => by simp at h
  | (k, v) :: t, h => by
    unfold tput
    split
    · simp [hx]
    · split
      · simp [hx]
      · rename_i hk
        cases hv : P v with
        | true => simp [hv] at h; exact absurd h hk
        | false => simp only [List.find?_cons, hv] at h ⊢; exact find_tput hx h

section
variable {s u : State} {l : Nat} {f : Fence} {x : Line}

/-- The line of a fence stays its line when it is written for the same fence. -/
theorem findLine_setLine (h : findLine s f = some l) (hused : x.used = true) (hpa : x.pa = lineAddr f.pa) (hhome : x.home = f.home) :
    findLine (s.setLine l x) f = some l := by
  have hne : x ≠ Line.reset := by intro he; rw [he] at hused; exact absurd hused (by decide)
  unfold findLine State.setLine tset at *
  simp only [if_neg hne]
  exact find_tput (P := fun y : Line => y.used && y.pa == lineAddr f.pa && y.home == f.home) (by simp [hused, hpa, hhome]) h

end

section
variable {s t : State} {q : Nat} {v : Word} {f : Fence} {l : Nat} {own : Option LineWaiter} {exact : Bool}

/-- A value that does not satisfy the only waiter on its line wakes nobody. -/
theorem evaluate_of_unsatisfied (hline : findLine s f = some l) (honly : (s.line l).waiters = [.queue q])
    (hst : (s.waiter q).st = .armed) (hfence : (s.waiter q).fence = f)
    (hmiss : satisfies (s.waiter q).kind v (s.waiter q).target = false) : evaluate s f v exact own = s := by
  have hinfo : waiterInfo s (.queue q) = some ((s.waiter q).kind, (s.waiter q).target, f) := by
    simp only [waiterInfo, hst, or_true, if_true, hfence]
  have hnone (free : Bool) : evalWaiters (wordOf f.pa) exact free own [.queue q] s v = (s, false) := by
    simp only [evalWaiters, hinfo, hmiss, ne_eq, not_true_eq_false, if_false, Bool.false_eq_true, and_false, ite_self]
  simp only [evaluate, hline, honly, hnone, Bool.false_eq_true, if_false]

theorem landed_waiter (s : State) (who : Access) (q : Nat) : (landed s who).waiter q = s.waiter q := by
  obtain ⟨out, flights, h⟩ := landed_eq s who
  rw [h]; rfl

theorem landed_line (s : State) (who : Access) (l : Nat) : (landed s who).line l = s.line l := by
  obtain ⟨out, flights, h⟩ := landed_eq s who
  rw [h]; rfl

theorem landed_halted (s : State) (who : Access) : (landed s who).halted = s.halted := by
  obtain ⟨out, flights, h⟩ := landed_eq s who
  rw [h]; rfl

theorem landed_findLine (s : State) (who : Access) (f : Fence) : findLine (landed s who) f = findLine s f := by
  obtain ⟨out, flights, h⟩ := landed_eq s who
  rw [h]; rfl

theorem landed_watchOf (s : State) (who : Access) (d q : Nat) : watchOf (landed s who) d q = watchOf s d q := by
  obtain ⟨out, flights, h⟩ := landed_eq s who
  rw [h]; rfl

end

/-- The flight of the read that returns to a waiter. -/
def waiterFlight (s : State) (w : LineWaiter) : Option Flight :=
  s.flights.find? (fun f => f.sent && (f.who == .waiter w false || f.who == .waiter w true))

section
variable {s u : State} {q : BitVec 18} {f : Flight}

/-- A read for a queue's waiter that still waits returns to it. -/
theorem recheck_queue (r : Option Word) (h : waiterFlight s (.queue q.toNat) = some f)
    (hwho : f.who = .waiter (.queue q.toNat) false) :
    exec (.fenceRecheckReturn q none r) s = .next (queueRead (landed s f.who) q.toNat r) := by
  change execFenceRecheckReturn q none r s = _
  unfold waiterFlight at h
  unfold execFenceRecheckReturn
  simp only [h]
  rw [if_neg (by rw [hwho]; simp)]

theorem recheck_watch (d : BitVec 16) (r : Option Word) (h : waiterFlight s (.watch d.toNat q.toNat) = some f)
    (hwho : f.who = .waiter (.watch d.toNat q.toNat) false) :
    exec (.fenceRecheckReturn q (some d) r) s = .next (watchReturn (landed s f.who) d.toNat q.toNat r) := by
  change execFenceRecheckReturn q (some d) r s = _
  unfold waiterFlight at h
  unfold execFenceRecheckReturn
  simp only [h]
  rw [if_neg (by rw [hwho]; simp)]

/-- A read whose waiter has gone returns to nobody. -/
theorem recheck_dropped (r : Option Word) (h : waiterFlight s (.queue q.toNat) = some f)
    (hwho : f.who = .waiter (.queue q.toNat) true) :
    exec (.fenceRecheckReturn q none r) s = .next (landed s f.who) := by
  change execFenceRecheckReturn q none r s = _
  unfold waiterFlight at h
  unfold execFenceRecheckReturn
  simp only [h]
  rw [if_pos hwho]

theorem recheck_of_none (r : Option Word) (h : waiterFlight s (.queue q.toNat) = none) :
    exec (.fenceRecheckReturn q none r) s = .next s := by
  change execFenceRecheckReturn q none r s = _
  unfold waiterFlight at h
  unfold execFenceRecheckReturn
  simp only [h]

end

section
variable {u : State} {q l : Nat} {w : Waiter} {v : Word}

theorem queueRead_arming (hlive : u.halted = false) (hw : u.waiter q = w) (hst : w.st = .arming) :
    queueRead u q (some v) =
      (let t := (cacheWord u w.line (wordOf w.fence.pa) v).setWaiter q { w with st := .armed, seen := v }
       evaluate (if w.kind ≠ 2 ∧ satisfies w.kind v w.target then wakeQueue t q 2 else t) w.fence v true (some (.queue q))) := by
  unfold queueRead readWait
  simp only [hlive, Bool.false_eq_true, if_false, hw, hst, if_true]

theorem queueRead_unlinked (hlive : u.halted = false) (hw : u.waiter q = w) (hst : w.st = .unlinked)
    (hmet : satisfies w.kind v w.target = true) (hkind : w.kind ≠ 2) :
    queueRead u q (some v) = wakeQueue (u.setWaiter q { w with seen := v }) q 2 := by
  have hkind' : (w.kind ≠ 2) = True := eq_true hkind
  unfold queueRead readUnlinked
  simp only [hlive, Bool.false_eq_true, if_false, hw, hst, hmet, if_true, hkind', reduceCtorEq]

/-- The recheck of an arming waiter alone on its line, by a value that does not satisfy it, leaves it armed. -/
theorem queueRead_arms (hlive : u.halted = false) (hw : u.waiter q = w) (hst : w.st = .arming)
    (hline : findLine u w.fence = some w.line) (hused : (u.line w.line).used = true)
    (hpa : (u.line w.line).pa = lineAddr w.fence.pa) (hhome : (u.line w.line).home = w.fence.home)
    (honly : (u.line w.line).waiters = [.queue q]) (hmiss : satisfies w.kind v w.target = false) :
    queueRead u q (some v) = (cacheWord u w.line (wordOf w.fence.pa) v).setWaiter q { w with st := .armed, seen := v } := by
  rw [queueRead_arming hlive hw hst]
  simp only [hmiss, Bool.false_eq_true, and_false, if_false]
  have hfound : findLine ((cacheWord u w.line (wordOf w.fence.pa) v).setWaiter q { w with st := .armed, seen := v }) w.fence =
      some w.line := findLine_setLine hline hused hpa hhome
  refine evaluate_of_unsatisfied (q := q) hfound ?_ ?_ ?_ ?_
  · simpa [cacheWord] using honly
  · simp
  · simp
  · simpa using hmiss

end

/-- Raising an interrupt touches the page and the notifications alone. -/
theorem raiseIrq_eq (s : State) (p : Nat) (bits : W32) :
    ∃ pages ntf, raiseIrq s p bits = { s with pages := pages, ntfQueue := ntf } := by
  unfold raiseIrq presentIrq presentNtf
  simp only
  split
  · split
    · split
      · exact ⟨_, _, rfl⟩
      · exact ⟨_, _, rfl⟩
    · exact ⟨_, _, rfl⟩
  · exact ⟨_, _, rfl⟩

/-- An error touches its page and the notifications alone. -/
theorem setErr_eq (s : State) (p bit addr : Nat) : ∃ pages ntf, setErr s p bit addr = { s with pages := pages, ntfQueue := ntf } := by
  unfold setErr
  simp only
  split
  · exact ⟨_, _, rfl⟩
  · obtain ⟨pages, ntf, h⟩ := raiseIrq_eq (s.setPage p { s.page p with
      errStatus := (s.page p).errStatus ||| BitVec.ofNat 32 (2 ^ bit), errAddr := BitVec.ofNat 64 addr }) p (BitVec.ofNat 32 (2 ^ bit))
    exact ⟨pages, ntf, h.trans rfl⟩

section
variable {s : State}

/-- The return of a whole line that was not asked for again meanwhile (R156). -/
theorem lineReread_returns {l : BitVec 16} {ws : List Word} (hfly : inFlight s (.line l.toNat) = true)
    (hagain : (s.line l.toNat).again = false) (hlen : ws.length = 8) :
    exec (.lineRereadReturn l (some ws)) s =
      (let s2 := (landed s (.line l.toNat)).setLine l.toNat { s.line l.toNat with reread := false, again := false }
       .next (evalWords l.toNat ws 0 (noteWords (s2.setLine l.toNat
          { s2.line l.toNat with value := some (wordAt ws (s.line l.toNat).word) }) ws (s.line l.toNat).waiters))) := by
  change execLineRereadReturn l (some ws) s = _
  unfold execLineRereadReturn
  simp only [hfly, Bool.not_true, Bool.false_eq_true, if_false, landed_line, hlen, if_true, hagain]

/-- A read of a line that no atomic is on leaves on the port of its address (R43). -/
theorem readFence_leaves {w : LineWaiter} {f : Fence} (h : lineBusy s f.pa = false) :
    readFence s w f = issue s (portSpine f.pa) (.waiter w false)
      [.chiRead (portSpine f.pa) f.pa 8 f.key (hostVisible s f.pa)] := by
  unfold readFence issueRead
  simp only [h, Bool.false_eq_true, if_false]
  rfl

theorem badPiece_one (s : State) (pa k n : Nat) : badPiece s [(pa, k, n)] = if writeFails s pa n then some pa else none := by
  unfold badPiece
  cases h : writeFails s pa n <;> simp [h]

theorem putOrDrop_good {page : Nat} {ps : List (Nat × Nat × Nat)} (h : badPiece s ps = none) (bs : List Byte) :
    putOrDrop s page ps bs = emits s (writesOf s 8 ps bs) := by
  unfold putOrDrop; rw [h]

theorem putOrDrop_bad {page a : Nat} {ps : List (Nat × Nat × Nat)} (h : badPiece s ps = some a) (bs : List Byte) :
    putOrDrop s page ps bs = setErr s page 29 a := by
  unfold putOrDrop; rw [h]

/-- A snapshot that ends: its bytes go where memory takes them (R170). -/
theorem wfgDone_of_running (h : s.wsh.wfgRunning = true) :
    exec .wfgDone s =
      (let t := putOrDrop s pgWSH [(s.wsh.wfgBase.toNat, 0, (wfgBytes s).length)] (wfgBytes s)
       .next { t with wsh := { t.wsh with wfgRunning := false, wfgDone := true } }) := by
  change execWfgDone s = _
  unfold execWfgDone
  simp only [h, Bool.not_true, Bool.false_eq_true, if_false]

end

end Sys2Proof.Machine

open Sys2Proof Sys2Proof.Machine

/-- Settles O41: a read goes to the waiter it was made for, by that waiter's state; a snapshot's write is its only outside effect. -/
theorem fenceReads : Obligations.FenceReads := by
  unfold Obligations.FenceReads
  refine ⟨fun s q v => ⟨fun w l u u1 hread hwho hu hw hlive => ⟨fun hst hl => ⟨fun hline hused hpa hhome honly hmiss _ => ?_,
      fun hmet hkind => ?_⟩, fun hst hmet hkind => ?_, ?_⟩,
    fun d x l u u1 hread hwho hu hx hl => ?_, fun hnone r => recheck_of_none r hnone, fun u1 hread hwho r => recheck_dropped r hread hwho,
    fun l ws u s2 hfly hu hagain hlen hs2 => ?_, fun l hnone r => ?_, fun w hw hst hhome hfree hflights hheld hconsume => ?_,
    fun hst => ?_, fun t hst hbusy hdue => ?_⟩, fun s => ⟨fun hrun hgood => ?_, fun hrun => ?_⟩⟩
  · subst hl hu
    rw [recheck_queue _ hread hwho]
    refine congrArg Host.Outcome.next (queueRead_arms ?_ ?_ hst ?_ ?_ ?_ ?_ ?_ hmiss)
    · rw [landed_halted]; exact hlive
    · rw [landed_waiter]; exact hw
    · rw [landed_findLine]; exact hline
    all_goals rw [landed_line]; assumption
  · subst hl hu
    rw [recheck_queue _ hread hwho,
      queueRead_arming ((landed_halted s _).trans hlive) ((landed_waiter s _ _).trans hw) hst]
    simp only [if_pos (And.intro hkind hmet)]
  · subst hu
    rw [recheck_queue _ hread hwho,
      queueRead_unlinked ((landed_halted s _).trans hlive) ((landed_waiter s _ _).trans hw) hst hmet hkind]
  · subst hu
    rw [recheck_queue _ hread hwho]
    unfold queueRead
    rw [landed_halted, hlive]
    rfl
  · subst hu
    have hx' : watchOf (landed s u1.who) d.toNat q.toNat = some x := (landed_watchOf s _ _ _).trans hx
    have hkey : x.die = d.toNat ∧ x.queue = q.toNat := by
      have := List.find?_some hx
      simpa using this
    rw [recheck_watch d _ hread hwho]
    unfold watchReturn watchRead
    simp only [hx', hl, hkey]
  · subst hu hs2
    exact lineReread_returns hfly hagain hlen
  · change execLineRereadReturn l r s = _
    unfold execLineRereadReturn
    rw [if_pos (by simp [hnone])]
  · change execUnlinkedReread q none s = _
    unfold execUnlinkedReread
    simp only [hw, hst, hhome, hflights, hheld, hconsume, ne_eq, not_true_eq_false, Bool.or_self, Bool.false_eq_true, or_self, if_false,
      readFence_leaves hfree]
  · change execUnlinkedReread q none s = _
    unfold execUnlinkedReread
    simp only [if_pos (show (s.waiter q.toNat).st ≠ .unlinked ∨ _ from .inl hst)]
  · change execRemoteWatchRetry q s = _
    unfold execRemoteWatchRetry
    simp only [hbusy, if_pos (And.intro hst hdue)]
  · rw [wfgDone_of_running hrun, putOrDrop_good (by rw [badPiece_one, hgood]; rfl)]
    rfl
  · change execWfgDone s = _
    unfold execWfgDone
    rw [hrun]
    rfl

namespace Sys2Proof.Machine

section
variable {s t : State} {c va a port : Nat} {bs : List Byte}

/-- A write whose range passes and whose lines memory refuses (R45, R341). -/
theorem vWrite_refused (hrange : checkRange (s.ctx c) va bs.length true = ST_OK)
    (hbad : badPiece s (pieces (s.ctx c) va bs.length) = some a) : vWrite s port c va bs = .error ST_MEMORY_ERROR := by
  unfold vWrite putPieces
  simp only [hrange, ne_eq, not_true_eq_false, if_false, hbad]

theorem length_padBytes (n : Nat) (bs : List Byte) : (padBytes n bs).length = n := by
  simp [padBytes, zeroBytes]; omega

theorem writeOp_refused {q : Nat} {x y : Word} {h : Option Nat} (hc : c = (s.queue q).owner)
    (hres : resolveMref (s.ctx c) x y bs.length true = .ok (va, h)) (hrange : checkRange (s.ctx c) va bs.length true = ST_OK)
    (hbad : badPiece s (pieces (s.ctx c) va bs.length) = some a) : writeOp s q x y bs = .error ST_MEMORY_ERROR := by
  subst hc
  unfold writeOp
  simp only [hres, vWrite_refused hrange hbad]

end

end Sys2Proof.Machine

/-- Settles O58: the refused write is an error with the address of the piece that memory refuses. -/
theorem writeErrors : Obligations.WriteErrors := by
  unfold Obligations.WriteErrors
  intro s a
  refine ⟨fun q j ws u c va h hu hc hat hflag hres hrange hbad => ?_,
    fun cb c l seq va x u hc hx hpace hst hl hseq hva hu hrange hbad => ?_, fun hrun hbad => ?_⟩
  · subst hu
    have hown : c = ((countDecoded s q.toNat).queue q.toNat).owner := by rw [countDecoded_queue, hc]
    have hlen : (leBytes 8 (countDecoded s q.toNat).now).length = 8 := lengthLeBytes _ _
    refine (show exec (.timestamp q) s = _ from hat.row _ _).trans ?_
    rw [if_neg (by omega), writeOp_refused hown (by rw [hlen]; exact hres) (by rw [hlen]; exact hrange) (by rw [hlen]; exact hbad)]
  · subst hc
    have hoff : (!(x.pace.getLsbD 0) || x.st != .active) = false := by rw [hpace, hst]; rfl
    change execPacingWindowWrite cb l s = _
    unfold execPacingWindowWrite writePace
    rw [if_pos hl]
    simp only [← hx, hoff, Bool.false_eq_true, if_false, ← hseq, ← hu, ← hva]
    rw [vWrite_refused (by rw [length_padBytes]; exact hrange) (by rw [length_padBytes]; exact hbad)]
    simp only [if_true, badWriteAddr, hbad, Option.getD_some]
  · rw [wfgDone_of_running hrun, putOrDrop_bad (by rw [badPiece_one, hbad]; rfl)]
    obtain ⟨pages, ntf, herr⟩ := setErr_eq s pgWSH 29 s.wsh.wfgBase.toNat
    rw [herr]

end


section

/-! ## Upstream requests of endpoints (R193) and the drains of keys (R288 to R292) -/

namespace Sys2Proof.Machine

theorem hubRunsFrom_one (es : List Nat) (h : Nat) (hne : hubMask es h ≠ 0) : hubRunsFrom es [h] = [(h, 0, hubMask es h)] := by
  simp only [hubRunsFrom, if_neg hne]

/-- One endpoint is one run of one hub (R177). -/
theorem hubRuns_one {e : Nat} (h : e < 2 ^ 14) : hubRuns [e] = [(e / 32, 0, 2 ^ (e % 32))] := by
  have hmask : hubMask [e] (e / 32) = 2 ^ (e % 32) := by simp [hubMask, maskOf]
  have hlo : min 511 (e / 32) = e / 32 := by omega
  have hrange : (List.range (e / 32 + 1 - e / 32)).map (e / 32 + ·) = [e / 32] := by
    rw [Nat.add_sub_cancel_left]; simp
  unfold hubRuns
  simp only [List.map_cons, List.map_nil, List.foldl_cons, List.foldl_nil, hlo, Nat.zero_max, hrange]
  rw [hubRunsFrom_one _ _ (by rw [hmask]; exact Nat.ne_of_gt (Nat.two_pow_pos _)), hmask]

section
variable {s : State} {e c b0 b1 op : Nat} {f : State → Nat → Nat → State}

/-- An upstream request while the spine sleeps wakes it and is held (R15). -/
theorem upstreamEvent_asleep {k : UpKind} (h : s.bsn.spineAwake = false) :
    upstreamEvent s k e b0 b1 = wakeSpine { s with bsn := { s.bsn with held := s.bsn.held ++ [.upstream k e b0 b1] } } :=
  spineEvent_asleep h _ _

theorem upstreamEvent_awake {k : UpKind} (h : s.bsn.spineAwake = true) : upstreamEvent s k e b0 b1 = upstreamIn s k e b0 b1 :=
  spineEvent_awake h _ _

theorem upstream_of_no_ctx (h : epCtx s e = none) : upstream s e b0 b1 op f = setErr s pgECP 2 e := by
  unfold upstream; rw [h]

theorem upstream_of_full (h : epCtx s e = some c) (hfull : 4 ≤ (s.ep e).upstream) :
    upstream s e b0 b1 op f = refuseUp s e (bitsN b0 31 16) := by
  unfold upstream; rw [h]; exact if_pos (.inl hfull)

theorem upstream_served (h : epCtx s e = some c) (hroom : (s.ep e).upstream < 4) (hform : upFormat b0 b1 op = true) :
    upstream s e b0 b1 op f = f (s.setEp e { s.ep e with upstream := (s.ep e).upstream + 1 }) c (bitsN b0 31 16) := by
  unfold upstream; rw [h]; exact if_neg (by simp [hform]; omega)

end

end Sys2Proof.Machine

open Sys2Proof Sys2Proof.Machine

/-- Settles O49: a request is one `spineEvent`; awake, it is discarded, refused or served by its endpoint's state. -/
theorem upstreamRequests : Obligations.UpstreamRequests := by
  unfold Obligations.UpstreamRequests
  intro s e b0 b1 tag s1 hold
  refine ⟨fun hasleep => ⟨?_, ?_, ?_⟩, fun hawake => ⟨fun hnone => ⟨?_, ?_⟩, fun c hc hfull => ?_,
    fun c t h va hc hroom hform hst halloc => ?_, fun c t i hc hroom hform hst hfree habort => ?_, fun c hc h1 h2 => ?_⟩,
    fun t block => ?_⟩
  · exact congrArg Host.Outcome.next (upstreamEvent_asleep hasleep)
  · exact congrArg Host.Outcome.next (upstreamEvent_asleep hasleep)
  · exact congrArg Host.Outcome.next (upstreamEvent_asleep hasleep)
  · exact congrArg Host.Outcome.next ((upstreamEvent_awake hawake).trans (by unfold upstreamIn upAlloc; exact upstream_of_no_ctx hnone))
  · exact congrArg Host.Outcome.next ((upstreamEvent_awake hawake).trans (by unfold upstreamIn upFree; exact upstream_of_no_ctx hnone))
  · exact congrArg Host.Outcome.next ((upstreamEvent_awake hawake).trans (by unfold upstreamIn upAlloc; exact upstream_of_full hc hfull))
  · refine congrArg Host.Outcome.next ((upstreamEvent_awake hawake).trans ?_)
    unfold upstreamIn upAlloc
    simp only [upstream_served hc hroom hform, serveAlloc, show upDenied (s1.ctx c) = none by simp [upDenied, hst], show s.setEp e.toNat _ = s1 from rfl, halloc]
    rfl
  · refine congrArg Host.Outcome.next ((upstreamEvent_awake hawake).trans ?_)
    unfold upstreamIn upFree
    simp only [upstream_served hc hroom hform, show upDenied (s1.ctx c) = none by simp [upDenied, hst], show s.setEp e.toNat _ = s1 from rfl, hfree, habort,
      Bool.false_and, Bool.false_eq_true, if_false]
    rfl
  · refine congrArg Host.Outcome.next ((upstreamEvent_awake hawake).trans ?_)
    simp only [upstreamIn, upOther, h1, h2, hc, Bool.false_eq_true, or_self, if_false]
    rfl
  · unfold answerUp sendRunsSpine
    rw [hubRuns_one e.isLt]
    rfl

namespace Sys2Proof.Machine

section
variable (s : State)

theorem setErr_swb (p bit addr : Nat) : (setErr s p bit addr).swb = s.swb := by
  obtain ⟨pages, ntf, h⟩ := setErr_eq s p bit addr
  rw [h]

theorem rewriteCap_swb : (rewriteCap s).swb = s.swb := by
  unfold rewriteCap writeCap
  split
  · rfl
  · dsimp only
    split
    · exact setErr_swb _ _ _ _
    · rfl

theorem setUnit_swb (k : UnitKind) (u : Nat) (r : UnitRec) : (setUnit s k u r).swb = s.swb := by
  cases k <;> rfl

/-- A unit that becomes SUSPECT changes no reset in progress. -/
theorem setSuspect_swb (k : UnitKind) (u cause : Nat) (restage : Bool) : (setSuspect s k u cause restage).swb = s.swb := by
  unfold setSuspect setUnitState
  dsimp only
  split
  · rw [setUnit_swb, swb_count, rewriteCap_swb, setUnit_swb]
  · rfl

end

section
variable {s : State} {k d : Nat}

/-- An acknowledgement of a drain that waits for it. -/
theorem keyAck_of_waiting (hst : (s.slot k).st = .draining) (hreq : (s.slot k).requested = true) (hd : d ∈ (s.slot k).destWait) :
    keyAck s k d =
      (let rest := (s.slot k).destWait.filter (· != d)
       if rest.isEmpty then zeroSlot (s.setSlot k { s.slot k with destWait := rest }) k
       else s.setSlot k { s.slot k with destWait := rest }) :=
  if_pos ⟨hst, hreq, by simpa using hd⟩

/-- An answer of another die that a drain waits for is waited for no longer (R290). -/
theorem execKeyDrained_next {src : PeerSrc} {beat : BitVec 256}
    (h : PeerMessage s src.die beat 0x41 (0xFF + mask 47 34 + mask 127 116)) (hkey : k = bitsN beat.toNat 127 116)
    (hst : (s.slot k).st = .draining) (hreq : (s.slot k).requested = false)
    (hmem : (src.die.toNat, src.link.toNat, src.chan.toNat) ∈ (s.slot k).dieWait) :
    exec (.keyDrained src beat) s =
      (let rest := (s.slot k).dieWait.erase (src.die.toNat, src.link.toNat, src.chan.toNat)
       let s1 := (count s pgPER 1).setSlot k { s.slot k with dieWait := rest }
       .next (if rest.isEmpty then drainRequest s1 k else s1)) := by
  subst hkey
  refine (congrArg Host.Outcome.next (h.run _)).trans ?_
  exact congrArg Host.Outcome.next (if_pos ⟨hst, by simp [slot_count, hreq], by simpa [slot_count] using hmem⟩)

end

end Sys2Proof.Machine

/-- Settles O55: each step of a drain looks at its slot's state, and takes off it what has answered. -/
theorem keyDrains : Obligations.KeyDrains := by
  unfold Obligations.KeyDrains
  intro s kb k x hk hx
  subst hk hx
  refine ⟨fun d hst hreq hd => ⟨fun hmore => ?_, fun hlast => ?_, fun hchan => ?_, fun hhub hidle => ?_⟩, fun d hnot => ⟨?_, ?_⟩,
    fun die beat c h hc hkey => ?_, fun src beat r h hkey hst hreq hr hmem => ⟨fun hlast => ?_, fun hmore => ?_⟩,
    fun hst hreq hwait => ?_, fun hst hnone => ?_, fun j hst hj hphase => ?_, fun hst => ?_⟩
  · refine congrArg Host.Outcome.next ((keyAck_of_waiting hst hreq hd).trans (if_neg (by simpa using hmore)))
  · refine congrArg Host.Outcome.next ((keyAck_of_waiting hst hreq hd).trans ?_)
    simp only [hlast, List.isEmpty_nil, if_true]
  · change execDrainAckTimeout kb d s = _
    unfold execDrainAckTimeout
    simp only [if_pos (show (s.slot kb.toNat).st = .draining ∧ (s.slot kb.toNat).requested = true ∧
      (s.slot kb.toNat).destWait.contains d.toNat = true from ⟨hst, hreq, by simpa using hd⟩), if_pos hchan]
  · have hfree (t : State) (ht : t.swb = s.swb) : t.swb.resetOps.any (fun o => o.id == keyOp d.toNat) = false := by
      rw [ht]; simpa using hidle
    have hswb (t : State) : (setSuspect (setErr t pgNTC 2 kb.toNat) .hub (d.toNat - 512) (classOf ST_KEY_REVOKED) false).swb = t.swb :=
      (setSuspect_swb _ _ _ _ _).trans (setErr_swb _ _ _ _)
    change execDrainAckTimeout kb d s = _
    unfold execDrainAckTimeout
    simp only [if_pos (show (s.slot kb.toNat).st = .draining ∧ (s.slot kb.toNat).requested = true ∧
      (s.slot kb.toNat).destWait.contains d.toNat = true from ⟨hst, hreq, by simpa using hd⟩), if_neg (Nat.not_lt.2 hhub)]
    exact congrArg Host.Outcome.next (if_neg (by rw [hfree _ (by rw [hswb]; rfl)]; decide))
  · exact congrArg Host.Outcome.next (if_neg (by simpa using hnot))
  · change execDrainAckTimeout kb d s = _
    unfold execDrainAckTimeout
    simp only [if_neg (show ¬ ((s.slot kb.toNat).st = .draining ∧ (s.slot kb.toNat).requested = true ∧
      (s.slot kb.toNat).destWait.contains d.toNat = true) by simpa using hnot)]
  · rw [hkey, hc]
    exact congrArg Host.Outcome.next (h.run _)
  · subst hr
    rw [execKeyDrained_next h hkey hst hreq hmem]
    simp only [hlast, List.isEmpty_nil, if_true]
  · subst hr
    rw [execKeyDrained_next h hkey hst hreq hmem]
    simp only [List.isEmpty_eq_false_iff.2 hmore, Bool.false_eq_true, if_false]
  · change execRemoteDrainTimeout kb s = _
    unfold execRemoteDrainTimeout
    simp only [if_pos (show (s.slot kb.toNat).st = .draining ∧ (!(s.slot kb.toNat).requested) = true ∧ (s.slot kb.toNat).dieWait ≠ []
      from ⟨hst, by simp [hreq], hwait⟩)]
  · change execKeySlotRelease kb s = _
    unfold execKeySlotRelease
    simp only [hst]
    have hjob : (s.setSlot kb.toNat KeySlot.reset).job secQ = s.job secQ := rfl
    rw [hjob]
    split
    · rename_i j hj
      rw [if_neg (hnone j hj)]
    · rfl
  · change execKeySlotRelease kb s = _
    unfold execKeySlotRelease
    have hjob : (s.setSlot kb.toNat KeySlot.reset).job secQ = some j := hj
    simp only [hst, hjob, hphase, if_true]
  · change execKeySlotRelease kb s = _
    unfold execKeySlotRelease
    dsimp only
    split
    · rename_i hz; exact absurd hz hst
    · rfl

end


section

/-! ## The security queue's packets (R296 to R299, R304) and firmware (R365, R382, R383) -/

namespace Sys2Proof.Machine

/-- Counting a decoded packet touches the jobs and the pages alone. -/
theorem countDecoded_eq (s : State) (q : Nat) : ∃ jobs pages, countDecoded s q = { s with jobs := jobs, pages := pages } := by
  unfold countDecoded
  split
  · split
    · exact ⟨_, _, rfl⟩
    · exact ⟨_, _, rfl⟩
  · exact ⟨_, _, rfl⟩

section
variable {s : State} {q k c p : Nat} {y : KeyPayload}

theorem writeFails_countDecoded (pa n : Nat) : writeFails (countDecoded s q) pa n = writeFails s pa n := by
  obtain ⟨jobs, pages, h⟩ := countDecoded_eq s q
  rw [h]; rfl

/-- A key that is installed is the slot's (R297). -/
theorem installKey_slot : ((installKey s k p c y).slot k).st = .active ∧ ((installKey s k p c y).slot k).key = y.key := by
  simp [installKey]

end

section
variable {s u : State} {q : BitVec 18} {j : Job} {ws : List Word} {r : SecReq} {k c : Nat}
variable (hat : AtPacket s q.toNat 0xC0 j ws) (hr : s.ntc.running = some r) (hu : u = countDecoded s q.toNat)
  (hk : k = fld (wordAt ws 1) 11 0) (hc : c = fld (wordAt ws 1) 29 16)
  (hin : inNotch (fld (wordAt ws 2) 51 0) (fld (wordAt ws 3) 15 0) = true)
include hat hr hu hk hc hin

/-- KEY_INSTALL at its packet, with its blob in the Notch (R297). -/
theorem keyInstall_row :
    exec (.keyInstall q) s = .next (
      if k < 2 ∨ (s.slot k).st ≠ .free then refuseInstall u q.toNat k ST_KEY_SLOT
      else if fld (wordAt ws 3) 15 0 ≠ 224 then refuseInstall u q.toNat k ST_KEY_UNWRAP
      else match unwrap u r.blob with
        | none => refuseInstall u q.toNat k ST_KEY_UNWRAP
        | some y =>
          if installStatus u r.partition c y ≠ ST_OK then refuseInstall u q.toNat k (installStatus u r.partition c y)
          else retire (installKey u k r.partition c y) q.toNat) := by
  subst hu hk hc
  refine (show exec (.keyInstall q) s = _ from hat.row _ _).trans ?_
  simp only [countDecoded_ntc, hr, hin, Bool.not_true, Bool.false_eq_true, if_false, countDecoded_slot] <;> rfl

end

end Sys2Proof.Machine

open Sys2Proof Sys2Proof.Machine

/-- Settles O54: each packet at the front of the security queue takes the branch its operands and the slot or partition choose. -/
theorem securityPackets : Obligations.SecurityPackets := by
  unfold Obligations.SecurityPackets
  intro s q j ws u hu
  have hslot (k : Nat) : u.slot k = s.slot k := by rw [hu, countDecoded_slot]
  have hntc : u.ntc = s.ntc := by rw [hu, countDecoded_ntc]
  refine ⟨fun r y k c hat hr hk hc hin => ⟨fun hlow => ?_, fun hhigh hfree hlen => ⟨fun hnone => ?_, fun hsome hok => ⟨?_, installKey_slot⟩⟩⟩,
    fun k hat hk hhigh hfree => ?_, fun r p o hat hr ho hp => ⟨fun hopened => ?_, fun hclosed hreal hopen hempty hroom => ?_⟩,
    fun r hat hr hlen hin hgood => ?_⟩
  · rw [keyInstall_row hat hr hu hk hc hin, if_pos (.inl hlow)]
  · rw [keyInstall_row hat hr hu hk hc hin, if_neg (by simp [hfree]; omega), if_neg (by simp [hlen]), hnone]
  · rw [keyInstall_row hat hr hu hk hc hin, if_neg (by simp [hfree]; omega), if_neg (by simp [hlen]), hsome]
    simp only [hok, ne_eq, not_true_eq_false, if_false]
  · refine (show exec (.keyRevoke q) s = _ from hat.row _ _).trans ?_
    simp only [← hk, ← hu, hslot]
    rw [if_neg (by simp [hfree]; omega)]
  · refine (show exec (.sealPartition q) s = _ from hat.row _ _).trans ?_
    have ho' : requesterOf u r.sid = some o := by rw [← ho]; unfold requesterOf; rw [hntc]
    simp only [← hu, ← hp, hntc, hr, ho', hopened, or_true, if_true]
  · refine (show exec (.sealPartition q) s = _ from hat.row _ _).trans ?_
    have ho' : requesterOf u r.sid = some o := by rw [← ho]; unfold requesterOf; rw [hntc]
    simp only [← hu, ← hp, hntc, hr, ho', hclosed, hreal, hopen, hempty, hroom, Bool.false_eq_true, or_self, if_false, Bool.not_true]
  · refine (show exec (.measureReport q) s = _ from hat.row _ _).trans ?_
    have hgood' : badPiece u [(fld (wordAt ws 1) 51 0, 1, r.length)] = none := by
      rw [badPiece_one, hu, writeFails_countDecoded, hgood]; rfl
    simp only [← hu, ← hr]
    rw [if_neg (by simp [hin]; omega)]
    simp only [putPieces_of_good hgood', portQ, show (u.queue q.toNat).home = (s.queue q.toNat).home by rw [hu, countDecoded_queue]]

namespace Sys2Proof.Machine

section
variable {s : State} {im : List Byte}

/-- An image of the right form is copied to the spill region (R382). -/
theorem spillImage_of_ok (h : fwImageOk s im = true) :
    spillImage s im =
      emits s (writesOf s 8 [(s.swb.settings.regions.getD 2 0 + 67108864, 1, imgBytes im + 96)] (im.take (imgBytes im + 96))) := by
  unfold fwImageOk at h
  exact if_pos (by simp at h ⊢; exact ⟨h.1.1, h.1.2⟩)

/-- A part at its turn takes the image (R383). -/
theorem fwSliceActivate_turn {part : Fin 9} {rest : List Nat} (htodo : s.swb.fwTodo = part.val :: rest) (hslice : part.val < 8)
    (hlive : s.halted = false) (hup : sliceUp s part.val = true) (hawake : s.bsn.spineAwake = true)
    (hstands : s.jobs.all (fun e => (s.queue e.1).home != part.val ||
      (match e.2 with | some j => betweenPackets j | none => true)) = true) :
    exec (.fwSliceActivate part) s =
      (let s1 := loadSlice s part.val s.swb.fwNext
       let s2 := rewriteCap { s1 with swb := { s1.swb with fwTodo := rest, fwNew := s1.swb.fwNew ++ [part.val] } }
       .next (nextPart (pumpSlice (s2.setSlice part.val { s2.slice part.val with paused := false }) part.val))) := by
  have hspine : decide (part.val = 8) = false := decide_eq_false (by omega)
  change execFwSliceActivate part s = _
  unfold execFwSliceActivate
  simp only [htodo, hlive, hup, hawake, hslice, hspine, Bool.false_or, ne_eq, not_true_eq_false, Bool.false_eq_true, Bool.not_true,
    and_false, or_false, false_or, if_true]
  exact if_neg (fun h => Bool.noConfusion (hstands.symm.trans ((Bool.not_eq_true' _).mp h)))

end

end Sys2Proof.Machine

/-- Settles O56: the activation goes part by part, and a store ends with its sectors counted or with ERROR. -/
theorem firmware : Obligations.Firmware := by
  unfold Obligations.Firmware
  intro s q j ws im u hu
  have hswb : u.swb = s.swb := by rw [hu, countDecoded_swb]
  have hslice (k : Nat) : u.slice k = s.slice k := by rw [hu, countDecoded_slice]
  refine ⟨fun hat => ⟨fun hactive => ?_, fun hidle hparts hbad => ?_, fun k hidle hk hslice8 hdigest hok hroom => ?_⟩,
    fun k rest htodo hk hlive hup hawake hstands => fwSliceActivate_turn htodo hk hlive hup hawake hstands,
    fun hdone k => ?_, fun m hbusy => ⟨fun bs hread => ?_, ?_⟩⟩
  · refine (show exec (.fwActivate q im) s = _ from hat.row _ _).trans ?_
    simp only [← hu, hswb, hactive, if_true]
  · refine (show exec (.fwActivate q im) s = _ from hat.row _ _).trans ?_
    simp only [← hu, hswb, hidle, Option.isSome_none, Bool.false_eq_true, if_false, List.isEmpty_eq_false_iff.2 hparts, hbad,
      Bool.not_false, if_true]
  · have hparts : fwParts ws ≠ [] := List.ne_nil_of_mem hk
    have hnew : (fwParts ws).all (fun k => if k = 8 then s.swb.spineDigest == imgDigest im else (s.slice k).fwDigest == imgDigest im) =
        false := by
      rw [List.all_eq_false]
      exact ⟨k, hk, by rw [if_neg (by omega)]; simpa using hdigest⟩
    have hlogs : (sealedParts u).all (fun p => logRoom u p (fwParts ws).length) = true := List.all_eq_true.2 hroom
    refine (show exec (.fwActivate q im) s = _ from hat.row _ _).trans ?_
    simp only [← hu, hswb, hslice, hidle, Option.isSome_none, Bool.false_eq_true, if_false, List.isEmpty_eq_false_iff.2 hparts, hok,
      Bool.not_true, hnew, hlogs, spillImage_of_ok hok]
  · change execFwSliceActivate k s = _
    unfold execFwSliceActivate
    rw [hdone]
  · change execSpiStoreDone true m s = _
    unfold execSpiStoreDone
    simp only [hbusy, Bool.not_true, Bool.false_eq_true, if_false, hread]
  · change execSpiStoreDone false m s = _
    unfold execSpiStoreDone
    simp only [hbusy, Bool.not_true, Bool.false_eq_true, if_false]

end


section

/-! ## Objects and their memory (R77 to R93, R131) -/

namespace Sys2Proof.Machine

section
variable {s t u v : State} {q : Nat} {ws : List Word}

/-- An allocation's result block is written and its status is D15 (R80). -/
theorem allocPacket_done {h va : Nat}
    (halloc : allocObject s (s.queue q).owner (fld (wordAt ws 1) 47 0) (wordAt ws 2).toNat (flagsOf (hdrOf ws) % 8) = .done t h va)
    (hwrite : writeOp t q (wordAt ws 3) (wordAt ws 4) (resultBlock h ST_OK va) = .ok v) :
    allocPacket s q ws = retireWith v q (fun j => { j with d15 := 0 }) := by
  unfold allocPacket
  simp only [halloc, hwrite]
  rfl

theorem allocPacket_fail {st : Status}
    (halloc : allocObject s (s.queue q).owner (fld (wordAt ws 1) 47 0) (wordAt ws 2).toNat (flagsOf (hdrOf ws) % 8) = .fail st)
    (hwrite : writeOp (count s pgOBJ 1) q (wordAt ws 3) (wordAt ws 4) (resultBlock 0 st 0) = .ok v) :
    allocPacket s q ws = retireWith v q (fun j => { j with d15 := BitVec.ofNat 64 st.toNat }) := by
  unfold allocPacket
  simp only [halloc, hwrite]

theorem allocPacket_wait
    (halloc : allocObject s (s.queue q).owner (fld (wordAt ws 1) 47 0) (wordAt ws 2).toNat (flagsOf (hdrOf ws) % 8) = .wait) :
    allocPacket s q ws =
      modJob { s with allocWait := s.allocWait ++ [.queue q] } q (fun j => { j with phase := .allocWait }) := by
  unfold allocPacket
  simp only [halloc]

/-- A job that waits for zeroing runs its allocation again (R81). -/
theorem resumePacket_alloc {j : Job} (hj : s.job q = some j) (hphase : j.phase = .allocWait) (hpkt : curPkt j = some ws)
    (hop : opOf (hdrOf ws) = 0x50) :
    resumePacket s q = allocPacket (modJob s q (fun j => { j with phase := .run })) q ws := by
  unfold resumePacket
  simp only [hj, hphase, hpkt, hop, if_true]

end

end Sys2Proof.Machine

open Sys2Proof Sys2Proof.Machine

/-- Settles O45: each packet's outcome is the outcome of its allocation, its release or its write. -/
theorem objectPackets : Obligations.ObjectPackets := by
  unfold Obligations.ObjectPackets
  intro s q j ws u hu c alloc
  have hown : (u.queue q.toNat).owner = c := by rw [hu, countDecoded_queue]
  refine ⟨fun t h va v hat halloc hwrite => ?_, fun st v hat halloc hwrite => ?_, fun hat halloc => ?_, fun t i hat hfree habort => ?_,
    fun e hat hfree => ?_, fun n bs v hat hn hlo hhi hseen hbs hwrite => ?_, fun n hc => ?_, fun n hc hnone => ?_, fun hnone => ?_,
    fun rest hlive hwait hj hphase hpkt hop => ?_⟩
  · refine (show exec (.alloc q) s = _ from hat.row _ _).trans ?_
    rw [← hu]
    exact congrArg Host.Outcome.next (allocPacket_done (by rw [hown]; exact halloc) hwrite)
  · refine (show exec (.alloc q) s = _ from hat.row _ _).trans ?_
    rw [← hu]
    exact congrArg Host.Outcome.next (allocPacket_fail (by rw [hown]; exact halloc) hwrite)
  · refine (show exec (.alloc q) s = _ from hat.row _ _).trans ?_
    rw [← hu]
    exact congrArg Host.Outcome.next (allocPacket_wait (by rw [hown]; exact halloc))
  · refine (show exec (.free q) s = _ from hat.row _ _).trans ?_
    simp only [← hu, hown, hfree, habort, Bool.false_and, Bool.false_eq_true, if_false]
  · refine (show exec (.free q) s = _ from hat.row _ _).trans ?_
    simp only [← hu, hown, hfree]
  · have hsee : sectionSeen c n = true := by
      by_cases hc : c = 0
      · simp [sectionSeen, hc, hlo, hhi]
      · simp [sectionSeen, hlo, hhi, hseen hc]
    refine (show exec (.query q) s = _ from hat.row _ _).trans ?_
    simp only [← hu, hown, ← hn, hsee, ← hbs, hwrite, if_neg (show ¬ (n = 0 ∨ 9 < n) by omega), Bool.not_true, Bool.false_eq_true,
      if_false]
  · unfold querySection; rw [if_neg hc]
  · unfold querySection; rw [if_pos hc, hnone]
  · change execAllocResume s = _
    unfold execAllocResume; rw [hnone]
  · change execAllocResume s = _
    unfold execAllocResume
    simp only [hwait, hlive, Bool.false_eq_true, if_false]
    rw [resumePacket_alloc (s := { s with allocWait := [] }) hj hphase hpkt hop]

namespace Sys2Proof.Machine

section
variable {s t : State}

@[simp] theorem putPool_ctx (s : State) (p : Nat) (pool : Pool) (i : Nat) : (putPool s p pool).ctx i = s.ctx i := by
  unfold putPool
  suffices h : ∀ (l : List (Nat × Nat × List Nat)) (t : State),
      (l.foldl (fun t e => t.setChan e.2.1 { t.chan e.2.1 with free := e.2.2 }) t).ctx i = t.ctx i by
    rw [h, ctx_setPart]
  intro l
  induction l with
  | nil => intro t; rfl
  | cons e l ih => intro t; rw [List.foldl_cons, ih, ctx_setChan]

theorem handleAt_setHandle (c : Context) (i : Nat) (h : Handle) : handleAt (setHandle c i h) i = h := by
  simp [handleAt, setHandle]

/-- The context a successful allocation of `n` granules at `page` leaves: the entry, the charge and nothing else of its bounds. -/
structure Allocated (x y : Context) (n size attr page i : Nat) : Prop where
  entry : handleAt y i = { handleAt x i with live := true, base := page * 65536, size := size, attr := attr, holders := 0 }
  charged : x.used + n ≤ y.used
  bounded : y.used ≤ y.quota
  quota : y.quota = x.quota

/-- What a successful allocation is (R77, R80). -/
theorem allocObject_done {c size hint attr h va : Nat} (e : allocObject s c size hint attr = .done t h va) :
    ∃ page i, size ≠ 0 ∧ va = page * 65536 ∧ h = (handleAt (s.ctx c) i).gen * 2 ^ 24 + i ∧
      Allocated (s.ctx c) (t.ctx c) (ceilDiv size 65536) size attr page i ∧ ∀ d, d ≠ c → t.ctx d = s.ctx d := by
  unfold allocObject at e
  dsimp only at e
  split at e
  · cases e
  rename_i hsize
  split at e
  · cases e
  rename_i page _
  split at e
  · cases e
  rename_i i _
  split at e
  · cases e
  rename_i hquota
  split at e
  · split at e <;> cases e
  injection e with ht hh hva
  subst ht hh hva
  refine ⟨page, i, fun h => hsize (.inl h), rfl, rfl, ⟨?_, ?_, ?_, ?_⟩, fun d hd => ?_⟩
  · simp [handleAt_setHandle]
  · simp only [ctx_count, putPool_ctx, ctx_setCtx, if_true, setHandle]; omega
  · simp only [ctx_count, putPool_ctx, ctx_setCtx, if_true, setHandle]; exact Nat.not_lt.1 hquota
  · simp [setHandle]
  · simp [hd]

end

end Sys2Proof.Machine

/-- Settles O46, from the shape of a successful allocation. -/
theorem allocatedObject : Obligations.AllocatedObject := by
  unfold Obligations.AllocatedObject
  intro s t c size hint attr h va e
  obtain ⟨page, i, hsize, rfl, rfl, ⟨hentry, hcharged, hbounded, hquota⟩, hothers⟩ := allocObject_done e
  have hgranule : 0 < ceilDiv size 65536 := by unfold ceilDiv; omega
  exact ⟨⟨i, rfl, hentry⟩, by omega, by omega, hbounded, hquota, by omega, hothers⟩

end


section

/-! ## The lives of contexts (R68, R69, R85 to R87) and of queues (R101, R145) -/

namespace Sys2Proof.Machine

section
variable {s u : State} {q c p : Nat} {ws : List Word}

/-- A partition that is not sealed logs nothing (R304). -/
theorem appendLog_of_unsealed {type aux layer operator bytes : Nat} {digest : List Byte} (h : isSealed s p = false) :
    appendLog s p type c aux layer operator bytes digest = s :=
  if_pos (by simpa [isSealed, Option.isNone_iff_eq_none] using h)

/-- The context that CONTEXT_CREATE makes of its packet and of the granules of its tables (R68). -/
def createdContext (s : State) (ws : List Word) (gs : List Nat) : Context :=
  let w := wordAt ws 1
  let t := ctxTables (fld w 27 24) (fld w 36 32) (fld w 44 40)
  let syncG := (gs.drop (t.1 + t.2.1)).take t.2.2
  { freshContext s with
    st := .active, abortMode := bitAt w 14, part := fld w 23 16, vaBits := fld w 27 24, syncBits := fld w 36 32,
    handleBits := fld w 44 40, quota := fld (wordAt ws 2) 25 0, used := t.1 + t.2.1 + t.2.2 + 2, root := gs.getD 0 0,
    htab := gs.getD t.1 0, tables := gs,
    pages := putPages [] ((List.range syncG.length).map (fun i =>
      (1 + i, { gran := syncG.getD i 0, write := true, sync := false, hostVis := false, large := false, key := 1, home := dieId s }))),
    l1 := [0], l2 := [0] }

/-- A free context of an unsealed partition whose tables its quota and the pool hold is created. -/
theorem createPacket_creates {t : Nat × Nat × Nat} {n : Nat} {pool : Pool} (hc : c = fld (wordAt ws 1) 13 0)
    (hp : p = fld (wordAt ws 1) 23 16) (hreal : c ≠ 0) (hfree : (u.ctx c).st = .free) (hpart : p ≠ 255)
    (ht : t = ctxTables (fld (wordAt ws 1) 27 24) (fld (wordAt ws 1) 36 32) (fld (wordAt ws 1) 44 40))
    (hn : n = t.1 + t.2.1 + t.2.2 + 2) (hquota : n ≤ fld (wordAt ws 2) 25 0) (hpool : pool = poolFrom u p (rotation u p))
    (hroom : n ≤ poolFree pool) (hopen : isSealed u p = false) :
    createPacket u q ws = retire (count (putPool ((clearTenant u c).setCtx c (createdContext u ws (takeTables n pool).1)) p
      (takeTables n pool).2) pgOBJ 4) q := by
  unfold createPacket
  simp only [← ht, ← hn, ← hc, ← hp, ← hpool, hreal, hfree, hpart, hopen, if_neg (Nat.not_lt.2 hquota), if_neg (Nat.not_lt.2 hroom),
    appendLog_of_unsealed hopen, ne_eq, not_true_eq_false, if_false, Bool.false_and, Bool.false_eq_true]
  unfold createdContext
  simp only [← ht, ← hn, ← hp]

/-- With no other die's abort to answer, the end of a context's work answers nothing (R86). -/
theorem answerAborts_of_none (h : s.per.abortFrom.filter (fun a => a.2 == c) = []) : answerAborts s c = s := by
  have hkeep : s.per.abortFrom.filter (fun a => a.2 != c) = s.per.abortFrom := by
    rw [List.filter_eq_self]
    intro a ha
    have := List.filter_eq_nil_iff.1 h a ha
    simpa using this
  unfold answerAborts
  simp only [h, hkeep, List.isEmpty_nil, if_true, List.foldl_nil]
  split <;> rfl

end

end Sys2Proof.Machine

open Sys2Proof Sys2Proof.Machine

/-- Settles O47: each step of a context's life tests its state and its work, and takes the next state. -/
theorem contextLives : Obligations.ContextLives := by
  unfold Obligations.ContextLives
  intro s q j ws u hu
  refine ⟨fun c p t n r pool hat hc hp hreal hfree hpart ht hn hquota hpool hroom hopen hr => ?_,
    fun c hat hc hreal hst hflow hforce => ?_, fun c hat hc hnone => ?_, fun c hnobody hwork hst hidle hpeers => ?_,
    fun c hst hclear htags hslots => ?_, fun c hst => ?_, fun die beat c h hc hst => ?_, fun die beat c h hc => ?_⟩
  · refine ⟨createdContext u ws r.1, rfl, hp.symm, rfl, ?_, rfl, rfl, rfl, rfl, rfl, rfl, rfl, rfl, rfl, ?_⟩
    · rw [hn, ht]; rfl
    · refine (show exec (.contextCreate q) s = _ from hat.row _ _).trans ?_
      rw [← hu, hr]
      exact congrArg Host.Outcome.next (createPacket_creates hc hp hreal hfree hpart ht hn hquota hpool hroom hopen)
  · refine (show exec (.contextDestroy q) s = _ from hat.row _ _).trans ?_
    simp only [← hu, ← hc, hreal, hst, hflow, hforce, reduceCtorEq, or_self, if_false, Bool.false_eq_true, Nat.zero_ne_one, decide_false]
  · refine (show exec (.contextDestroy q) s = _ from hat.row _ _).trans ?_
    simp only [← hu, ← hc, if_pos hnone]
  · have hqueues : queuesIdle s c.toNat = true := by
      have := hwork; unfold workDone at this; simp only [Bool.and_eq_true] at this; exact this.1
    change execTeardownComplete c s = _
    unfold execTeardownComplete
    simp only [answerAborts_of_none hnobody, hst, hidle, hqueues, hpeers, and_self, if_true]
  · change execContextRemovalComplete c s = _
    unfold execContextRemovalComplete
    simp only [hst, hclear, htags, hslots, and_self, if_true]
  · exact if_neg (fun h => hst h.1)
  · refine (congrArg Host.Outcome.next (h.run _)).trans ?_
    have hactive : ((count s pgPER 1).ctx c).st = .active := hst
    simp only [← hc]
    exact congrArg (fun x => Host.Outcome.next (answerAborts (abortWork (disableQueues x c) c) c)) (if_neg (by
      intro hf; exact absurd (hactive.symm.trans hf) (by decide)))
  · refine (congrArg Host.Outcome.next (h.run _)).trans ?_
    simp only [← hc, ctx_count]

namespace Sys2Proof.Machine

section
variable {s t u : State} {q : BitVec 18} {j : Job} {ws : List Word}

theorem AtPacket.pktFlag (h : AtPacket s q.toNat 0x82 j ws) (i : Nat) : pktFlag s q.toNat i = (flagsOf (hdrOf ws)).testBit i := by
  unfold Machine.pktFlag
  simp only [h.job, h.pkt]

theorem testBit_zero_of_even {n : Nat} (h : n % 2 = 0) : n.testBit 0 = false := by simp [h]

/-- QUEUE_CREATE at its packet (R101). -/
theorem queueCreate_row (hat : AtPacket s q.toNat 0x82 j ws) (hflag : flagsOf (hdrOf ws) % 2 = 0) (hu : u = countDecoded s q.toNat)
    (ok : Bool) :
    exec (.queueCreate q ok) s = .next (
      let f := qFields (wordAt ws 1)
      let ring := (wordAt ws 2).toNat
      let idx := (wordAt ws 3).toNat
      let st := createStatus u f ring idx
      if st ≠ ST_OK then refuseQueue u q.toNat st
      else match vWrite u (homeFor u f.home) f.owner (idx + 8) (zeroBytes 8) with
        | .error _ => refuseQueue u q.toNat ST_MEMORY_ERROR
        | .ok s1 =>
          if !ok then refuseQueue s1 q.toNat ST_MEMORY_ERROR
          else
            let s2 := count (s1.setQueue f.queue (queueRecord f (homeFor u f.home) ring idx)) pgSTP 0
            retire (if (flagsOf (hdrOf ws)).testBit 1 then queueEnable s2 f.queue else s2) q.toNat) := by
  subst hu
  change execQueueCreate q ok s = _
  unfold execQueueCreate
  rw [if_neg (by rw [hat.pktFlag, testBit_zero_of_even hflag]; decide)]
  exact hat.row _ _

/-- The release of a queue at its packet (R145). -/
theorem queueRelease_row (hat : AtPacket s q.toNat 0x82 j ws) (hflag : flagsOf (hdrOf ws) = 1) (hu : u = countDecoded s q.toNat) :
    exec (.queueRelease q) s = .next (
      let n := fld (wordAt ws 1) 17 0
      let r := u.queue n
      if n = 0 ∨ n = secQ ∨ r.st = .enabled ∨ r.st = .disabling then refuseQueue u q.toNat ST_QUEUE_BUSY
      else if fld (wordAt ws 1) 63 18 ≠ 0 ∨ wordAt ws 2 ≠ 0 ∨ wordAt ws 3 ≠ 0 ∨ (flagsOf (hdrOf ws)).testBit 1 then
        refuseQueue u q.toNat ST_QUEUE_PARAM
      else if r.st = .free then retire u q.toNat
      else retire (count ({ u with loe := { u.loe with watches := u.loe.watches.filter (fun w => w.q != n) } }.setQueue n Queue.reset)
                    pgSTP 1) q.toNat) := by
  subst hu
  change execQueueRelease q s = _
  unfold execQueueRelease
  rw [if_neg (by rw [hat.pktFlag, hflag]; decide)]
  exact hat.row _ _

end

end Sys2Proof.Machine

/-- Settles O48: the creation's checks, its write of CI, its record; the release's checks. -/
theorem queuePackets : Obligations.QueuePackets := by
  unfold Obligations.QueuePackets
  intro s q j ws u hu f n
  refine ⟨fun home t hat hflag hst hhome hwrite => ⟨?_, ?_⟩, fun home t hat hflag hst hhome hwrite => ?_,
    fun st ok hat hflag hst hbad => ?_, fun hat hflag hn hsec h1 h2 h3 hdis => ?_, fun hat hflag hbusy => ?_⟩
  · subst hhome
    rw [queueCreate_row hat (by rw [hflag]) hu]
    simp only [show qFields (wordAt ws 1) = f from rfl, hst, hwrite, hflag, ne_eq, not_true_eq_false, if_false, Bool.not_true,
      Bool.false_eq_true, Nat.zero_testBit]
  · subst hhome
    rw [queueCreate_row hat (by rw [hflag]) hu]
    simp only [show qFields (wordAt ws 1) = f from rfl, hst, hwrite, ne_eq, not_true_eq_false, if_false, Bool.not_false, if_true]
  · subst hhome
    rw [queueCreate_row hat (by rw [hflag]) hu]
    simp only [show qFields (wordAt ws 1) = f from rfl, hst, hwrite, hflag, ne_eq, not_true_eq_false, if_false, Bool.not_true,
      Bool.false_eq_true, show Nat.testBit 2 1 = true from rfl, if_true]
  · rw [queueCreate_row hat hflag hu]
    simp only [show qFields (wordAt ws 1) = f from rfl, hst, if_pos hbad]
  · rw [queueRelease_row hat hflag hu]
    simp only [show fld (wordAt ws 1) 17 0 = n from rfl, hdis, h1, h2, h3, hflag, show Nat.testBit 1 1 = false from rfl, reduceCtorEq,
      ne_eq, not_true_eq_false, Bool.false_eq_true, or_self, or_false, if_false]
    rw [if_neg (fun h => h.elim hn hsec)]
  · rw [queueRelease_row hat hflag hu]
    simp only [show fld (wordAt ws 1) 17 0 = n from rfl]
    exact congrArg Host.Outcome.next (if_pos (hbusy.imp_right (Or.imp_right Or.inl)))

end


section

/-! ## The packets that bind, swap and share (R258, R259, R263, R273, R275) -/

namespace Sys2Proof.Machine

section
variable {s x : State} {q : BitVec 18} {j : Job} {ws : List Word} {m : MemView} {un : Bool}

/-- BIND and UNBIND at their packet, once a swap or an earlier binding no longer holds them. -/
theorem exec_bind_at (h : if un = true then AtPacket (bindTurn s q.toNat) q.toNat 0x84 j ws
    else AtPacket (bindTurn s q.toNat) q.toNat 0x83 j ws) :
    exec (if un = true then .unbind q m else .bind q m) s =
      .next (bindPacket (countDecoded (bindTurn s q.toNat) q.toNat) q.toNat ws un m) := by
  cases un
  · exact AtPacket.row h _ _
  · exact AtPacket.row h _ _

section
variable {v : State} {n p kind q : Nat} {h : Option Nat}
variable (hp : p = fld (wordAt ws 1) 7 0) (hkind : kind = fld (wordAt ws 1) 9 8) (hn : n = 8 * fld (wordAt ws 1) 31 16)
include hp

theorem bindPacket_no_partition (hnone : p = 255) : bindPacket v q ws un m = opStatus (count v pgSCH 1) q ST_PARTITION_INVALID := by
  unfold bindPacket
  simp only [← hp, hnone, if_true]

include hn

theorem bindPacket_waits (hreal : p ≠ 255)
    (hop : operandHandle (v.ctx (v.queue q).owner) (heldOf v q) (wordAt ws 2) (wordAt ws 3) n false = .ok h)
    (hbusy : bindBusy v p = true) :
    bindPacket v q ws un m = modJob (holdPacket v q h) q (fun j => { j with phase := .swapWait p }) := by
  unfold bindPacket
  simp only [← hp, ← hn, hreal, hop, hbusy, if_false, if_true]

include hkind

/-- A binding list that is read is checked, and applied where it passes (R258). -/
theorem bindPacket_reads {bs : List Byte} (hreal : p ≠ 255)
    (hop : operandHandle (v.ctx (v.queue q).owner) (heldOf v q) (wordAt ws 2) (wordAt ws 3) n false = .ok h)
    (hidle : bindBusy v p = false) (hread : readKept v q (heldOf v q) (wordAt ws 2) (wordAt ws 3) n m = .ok bs)
    (hx : x = holdPacket v q h) :
    bindPacket v q ws un m =
      (let es := (wordsOfBytes bs).map (bindEntry kind un)
       let us := (es.filterMap id).map (·.unit)
       if bindChecks x p kind un es ≠ ST_OK then opStatus (count x pgSCH 1) q (bindChecks x p kind un es)
       else if un && kind == 3 then
         migSettle (modJob (x.setPart p { x.part p with
             migrating := some q, migNow := us,
             migChans := (x.part p).migChans ++ us.filter (fun c => !(x.part p).migChans.contains c) })
           q (fun j => { j with phase := .bindWait p })) p
       else applyBind x q p kind un (es.filterMap id)) := by
  unfold bindPacket
  simp only [← hp, ← hn, ← hkind, hreal, hop, hidle, hread, ← hx, if_false, Bool.false_eq_true]

end

/-- EPOCH_SWAP over a staged generation (R263). -/
theorem epochSwap_row {u : State} {n : Members} {g : W32} (hat : AtPacket s q.toNat 0x85 j ws) (hu : u = countDecoded s q.toNat)
    (hst : (u.part (fld (wordAt ws 1) 7 0)).staged = some (n, g)) :
    exec (.epochSwap q) s = .next (
      let p := fld (wordAt ws 1) 7 0
      if g.toNat ≠ fld (wordAt ws 1) 63 32 ∨ (u.part p).swap.isSome then opStatus (count u pgSCH 3) q.toNat ST_EPOCH_GENERATION
      else if !(gridValid u (u.part p) n) then opStatus (count u pgSCH 3) q.toNat ST_EPOCH_INVALID
      else if isSealed u p && !(logRoom u p 1) then opStatus (count u pgSCH 3) q.toNat ST_MEASURE_FULL
      else modJob (u.setPart p { u.part p with swap := some (q.toNat, g) }) q.toNat (fun j => { j with phase := .swapWait p })) := by
  subst hu
  refine (show exec (.epochSwap q) s = _ from hat.row _ _).trans ?_
  simp only [hst]

end

end Sys2Proof.Machine

open Sys2Proof Sys2Proof.Machine

/-- Settles O50: each packet of Table 5.18 runs its checks in order and makes its one change. -/
theorem partitionPackets : Obligations.PartitionPackets := by
  unfold Obligations.PartitionPackets
  intro s q j ws m u hu w p
  refine ⟨fun un b kind hb hkind hat => ?_, fun hat n g hst => ⟨fun hgen hswap hvalid hlog => ?_, fun hbad => ?_⟩,
    fun c hat hc => ⟨fun hst hweight => ?_, fun hst hweight => ?_⟩, fun ms g hat hms hg hbound => ⟨fun hfits => ?_, fun c hc hover => ?_⟩⟩
  · subst hb
    intro i v held n
    have hrow : exec i s = .next (bindPacket v q.toNat ws un m) := exec_bind_at hat
    rw [hrow]
    refine ⟨fun hnone => congrArg Host.Outcome.next (bindPacket_no_partition rfl hnone), fun h hreal hop =>
      ⟨fun hbusy => congrArg Host.Outcome.next (bindPacket_waits rfl rfl hreal hop hbusy), fun bs x hidle hread hx => ?_⟩⟩
    rw [bindPacket_reads rfl hkind rfl hreal hop hidle hread hx]
    refine ⟨fun hbad => ?_, fun hok hkind3 => ?_, fun hok hun hkind3 => ?_⟩
    · exact congrArg Host.Outcome.next (if_pos hbad)
    · rw [if_neg (by rw [hok]; decide), if_neg (by cases un <;> simp; exact hkind3 rfl)]
    · rw [if_neg (by rw [hok]; decide), if_pos (by rw [hun, hkind3]; rfl)]
  · have hlog' : (isSealed u p && !(logRoom u p 1)) = false := by
      cases hs : isSealed u p
      · rfl
      · rw [hlog hs]; rfl
    rw [epochSwap_row hat hu hst]
    simp only [show wordAt ws 1 = w from rfl, show fld w 7 0 = p from rfl, hgen, hswap, hvalid, hlog', ne_eq,
      not_true_eq_false, Option.isSome_none, Bool.false_eq_true, or_self, if_false, Bool.not_true]
  · rw [epochSwap_row hat hu hst]
    simp only [show wordAt ws 1 = w from rfl, show fld w 7 0 = p from rfl, if_pos hbad]
  · refine (show exec (.setShares q) s = _ from hat.row _ _).trans ?_
    simp only [← hu, show wordAt ws 1 = w from rfl, ← hc, hst, true_or, not_true_eq_false, if_false, if_neg hweight]
  · refine (show exec (.setShares q) s = _ from hat.row _ _).trans ?_
    simp only [← hu, show wordAt ws 1 = w from rfl, ← hc, hst, true_or, not_true_eq_false, if_false, hweight, if_true]
  · have hall : ms.all (fun c => ((u.part p).active.chans.map (·.2)).contains c) = true := by simpa using hbound
    have hover : ms.any (fun c => decide ((u.chan c).gbps * 9 / 10 < g)) = false := by simpa using hfits
    refine (show exec (.regulatorSet q) s = _ from hat.row _ _).trans ?_
    simp only [← hu, show wordAt ws 1 = w from rfl, show fld w 7 0 = p from rfl, ← hms, ← hg, hall, hover, Bool.not_true,
      Bool.false_eq_true, if_false]
  · have hall : ms.all (fun c => ((u.part p).active.chans.map (·.2)).contains c) = true := by simpa using hbound
    have hover : ms.any (fun c => decide ((u.chan c).gbps * 9 / 10 < g)) = true := by simpa using ⟨c, hc, hover⟩
    refine (show exec (.regulatorSet q) s = _ from hat.row _ _).trans ?_
    simp only [← hu, show wordAt ws 1 = w from rfl, show fld w 7 0 = p from rfl, ← hms, ← hg, hall, hover, Bool.not_true,
      Bool.false_eq_true, if_false, if_true]

end


section

/-! ## Swaps, migrations and pacing (R189, R264 to R272), and the regulation of bandwidth (R275, R277) -/

namespace Sys2Proof.Machine

/-- The capability table's rewrite touches its own fields, what leaves the block, and an error's page and notification. -/
theorem rewriteCap_eq (s : State) :
    ∃ out pages ntf gen tab, rewriteCap s = { s with out := out, pages := pages, ntfQueue := ntf, captblGen := gen, capTab := tab } := by
  unfold rewriteCap writeCap
  split
  · exact ⟨_, _, _, _, _, rfl⟩
  · dsimp only
    split
    · rename_i a _
      obtain ⟨pages, ntf, h⟩ := setErr_eq { s with
        captblGen := BitVec.ofNat 32 (s.captblGen.toNat + 1 + s.captblGen.toNat % 2 + 1), capTab := capSections s } pgOBJ 29
        s.captbl.toNat
      exact ⟨_, pages, ntf, _, _, h⟩
    · exact ⟨_, _, _, _, _, rfl⟩

section
variable {s : State} {e cause : Nat} {restage : Bool}

theorem rewriteCap_ep (i : Nat) : (rewriteCap s).ep i = s.ep i := by
  obtain ⟨out, pages, ntf, gen, tab, h⟩ := rewriteCap_eq s
  rw [h]; rfl

theorem rewriteCap_part (i : Nat) : (rewriteCap s).part i = s.part i := by
  obtain ⟨out, pages, ntf, gen, tab, h⟩ := rewriteCap_eq s
  rw [h]; rfl

theorem setUnit_part (k : UnitKind) (u i : Nat) (r : UnitRec) : (setUnit s k u r).part i = s.part i := by cases k <;> rfl

theorem setSuspect_part (k : UnitKind) (u i : Nat) : (setSuspect s k u cause restage).part i = s.part i := by
  unfold setSuspect setUnitState
  dsimp only
  split
  · rw [setUnit_part, part_count, rewriteCap_part, setUnit_part]
  · rfl

/-- A healthy endpoint that becomes SUSPECT is SUSPECT. -/
theorem setSuspect_of_healthy (h : (s.ep e).unit.st = .healthy) : ((setSuspect s .endpoint e cause restage).ep e).unit.st = .suspect := by
  have hunit : (unitOf s .endpoint e).st = .healthy := h
  unfold setSuspect setUnitState
  simp only [hunit]
  simp [setUnit, unitOf, rewriteCap_ep]

/-- What a table write that fails leaves of its partition and of its endpoint. -/
theorem tableFault_stage (p : Nat) : (tableFault s p 1 e).part p = { s.part p with ackFault := true } ∧
    ((s.ep e).unit.st = .healthy → ((tableFault s p 1 e).ep e).unit.st = .suspect) := by
  unfold tableFault
  constructor
  · simp only [if_true, part_setPart]
    split
    · rw [part_count, setSuspect_part]
    · rw [setSuspect_part]
  · intro h
    simp only [h, if_true, ep_setPart, ep_count]
    exact setSuspect_of_healthy h

end

end Sys2Proof.Machine

open Sys2Proof Sys2Proof.Machine

/-- Settles O51: each event is guarded by its partition's state, and does its one step there. -/
theorem swapsAndMigrations : Obligations.SwapsAndMigrations := by
  unfold Obligations.SwapsAndMigrations
  intro s pb cb p c hp hc
  subst hp hc
  refine ⟨fun v n g hswap hstaged hlate hlive hbounds hquiet => ?_, fun hnone => ⟨?_, ?_⟩,
    fun v h hswap hlate hquiet hheld hsome hall => ?_, fun hnone => ?_, fun q hmig hpart hst hquiet => ?_, fun l => ?_,
    fun l t hon hst hl hwrite => ?_, fun v hcur hlive hmany => ?_, fun hfew => ?_, fun e => rfl, fun e => tableFault_stage _⟩
  · change execEpochSwapTakeEffect pb s = _
    have hall : (partJobs s pb.toNat).all (fun j => atBoundary j.2) = true := List.all_eq_true.2 hbounds
    unfold execEpochSwapTakeEffect
    simp only [hswap, hstaged, hlate, hlive, hall, hquiet, Bool.not_true, Bool.or_self, Bool.false_eq_true, if_false]
  · change execEpochSwapTakeEffect pb s = _
    unfold execEpochSwapTakeEffect
    simp only [hnone]
  · change execSwapDeferral pb s = _
    unfold execSwapDeferral
    simp only [hnone, Option.isNone_none, Bool.true_or, if_true]
  · have hjobs : (partJobs s pb.toNat).all (fun j => heldBySwap s pb.toNat j.2 || j.2.phase == .fence) = true := by
      simpa [List.all_eq_true] using hall
    change execSwapDeferral pb s = _
    unfold execSwapDeferral
    simp only [hswap, hlate, hquiet, ← hheld, List.isEmpty_eq_false_iff.2 hsome, hjobs, Option.isNone_some, Option.isSome_none,
      Bool.not_true, Bool.or_self, Bool.false_eq_true, if_false]
  · change execChannelMigration pb cb s = _
    unfold execChannelMigration
    simp only [hnone, Option.isNone_none, if_true]
  · change execChannelMigration pb cb s = _
    unfold execChannelMigration
    simp only [hmig, hpart, hst, hquiet, Option.isNone_some, Bool.false_eq_true, if_false, ne_eq, not_true_eq_false, true_or,
      Bool.not_true] <;> rfl
  · change execPacingWindowWrite cb l s = _
    unfold execPacingWindowWrite
    split <;> rfl
  · change execPacingWindowWrite cb l s = _
    unfold execPacingWindowWrite writePace
    have hoff : (!((s.ctx cb.toNat).pace.getLsbD 0) || (s.ctx cb.toNat).st != .active) = false := by rw [hon, hst]; rfl
    rw [if_pos hl]
    simp only [hoff, Bool.false_eq_true, if_false, hwrite]
  · change execSliceEnd pb s = _
    unfold execSliceEnd
    rw [if_pos (by simp [hcur, hmany, hlive])]
  · change execSliceEnd pb s = _
    unfold execSliceEnd
    rw [if_neg (by simp; omega)]

namespace Sys2Proof.Machine

theorem foldl_min_pos {b : Nat} (hb : 1 ≤ b) : ∀ {l : List Nat}, (∀ x ∈ l, 1 ≤ x) → 1 ≤ l.foldl min b
  | [], _ => hb
  | x :: l, h => foldl_min_pos (b := min b x) (by have := h x (by simp); omega) (fun y hy => h y (by simp [hy]))

/-- A table filled in order holds what it was filled with. -/
theorem tget_foldl_tset {d : Nat} (g : Nat → Nat) (t : Table Nat) (n i : Nat) :
    tget d ((List.range n).foldl (fun l m => tset d l m (g m)) t) i = if i < n then g i else tget d t i := by
  induction n with
  | zero => simp
  | succ n ih =>
    rw [List.range_succ, List.foldl_append]
    simp only [List.foldl_cons, List.foldl_nil, tget_tset, ih]
    by_cases h : i = n
    · subst h; simp
    · simp only [h, if_false]
      by_cases h2 : i < n
      · rw [if_pos h2, if_pos (by omega)]
      · rw [if_neg h2, if_neg (by omega)]

section
variable {s t : State} {lims : List (Nat × Nat)} {act : List Nat}

theorem one_le_partLimit (p : Nat) : 1 ≤ partLimit s act p := by
  unfold partLimit
  dsimp only
  split <;> omega

theorem one_le_chanLimit : 1 ≤ chanLimit s := by
  unfold chanLimit
  dsimp only
  split
  · exact Nat.le_refl 1
  · omega

/-- The limit of a partition among limits that are never 0 is never 0. -/
theorem one_le_limit_found (h : ∀ l ∈ lims, 1 ≤ l.2) (p : Nat) :
    1 ≤ (match lims.find? (fun l => l.1 == p) with | some l => l.2 | none => 1) := by
  split
  · rename_i l hl; exact h l (List.mem_of_find?_eq_some hl)
  · exact Nat.le_refl 1

theorem one_le_masterLimit (h : ∀ l ∈ lims, 1 ≤ l.2) (m : Nat) : 1 ≤ masterLimit s lims m := by
  unfold masterLimit
  dsimp only
  split
  · exact one_le_limit_found h _
  · split
    · exact one_le_chanLimit
    · refine foldl_min_pos (by decide) (fun x hx => ?_)
      obtain ⟨p, -, rfl⟩ := List.mem_map.1 hx
      exact one_le_limit_found h p
  · omega
  · decide

/-- Sending a limit touches the limits and the counters alone. -/
theorem sendLimit_eq (s : State) (lims : List (Nat × Nat)) (m : Nat) :
    ∃ pages, sendLimit s lims m = { s with limits := tset 16 s.limits m (masterLimit s lims m), pages := pages } := by
  unfold sendLimit
  dsimp only
  split <;> exact ⟨_, rfl⟩

/-- The limits of a list of masters are those of the state the list was sent in. -/
theorem sendLimits_eq (s : State) (lims : List (Nat × Nat)) (l : List Nat) (limits : Table Nat) (pages : Table Page) :
    ∃ pages', l.foldl (fun t m => sendLimit t lims m) { s with limits := limits, pages := pages } =
      { s with limits := l.foldl (fun t m => tset 16 t m (masterLimit s lims m)) limits, pages := pages' } := by
  induction l generalizing limits pages with
  | nil => exact ⟨_, rfl⟩
  | cons m l ih =>
    obtain ⟨pages1, h⟩ := sendLimit_eq { s with limits := limits, pages := pages } lims m
    obtain ⟨pages2, h2⟩ := ih (tset 16 limits m (masterLimit s lims m)) pages1
    exact ⟨pages2, by rw [List.foldl_cons, h]; exact h2⟩

theorem leavePort_of_all_sent (k n : Nat) : ∀ {fs : List Flight}, fs.all (·.sent) = true → leavePort k n fs = (fs, [])
  | [], _ => rfl
  | f :: fs, h => by
    simp only [List.all_cons, Bool.and_eq_true] at h
    simp [leavePort, h.1, leavePort_of_all_sent k n h.2]

/-- A port whose accesses have all left releases nothing. -/
theorem releasePort_of_all_sent (h : s.flights.all (·.sent) = true) (k : Nat) : releasePort s k = s := by
  unfold releasePort
  rw [leavePort_of_all_sent k _ h]
  simp [emits]

theorem releasePorts_of_all_sent (h : s.flights.all (·.sent) = true) (l : List Nat) : l.foldl releasePort s = s := by
  induction l with
  | nil => rfl
  | cons k l ih => rw [List.foldl_cons, releasePort_of_all_sent h, ih]

theorem throttles_out (l : List Nat) (s : State) :
    (l.foldl throttle s).out = s.out ∧ (l.foldl throttle s).flights = s.flights := by
  induction l generalizing s with
  | nil => exact ⟨rfl, rfl⟩
  | cons m l ih =>
    have hone : (throttle s m).out = s.out ∧ (throttle s m).flights = s.flights := by
      unfold throttle
      dsimp only
      constructor <;> split <;> split <;> rfl
    rw [List.foldl_cons]
    exact ⟨(ih _).1.trans hone.1, (ih _).2.trans hone.2⟩

end

end Sys2Proof.Machine

/-- Settles O52: a report is one channel's, and an interval sends every master the limit of the state after its throttling. -/
theorem bandwidthRegulation : Obligations.BandwidthRegulation := by
  unfold Obligations.BandwidthRegulation
  intro s c v
  refine ⟨rfl, rfl, rfl, rfl, ⟨_, rfl, ?_, ?_, fun i hi => ?_⟩, fun act => ⟨fun hasleep => ?_, fun hawake hsent => ?_⟩⟩
  · simp [occOf]
  · cases s; rfl
  · simp [hi]
  · change execCreditInterval act s = _
    unfold execCreditInterval
    rw [hasleep]; rfl
  · intro s1 lims
    obtain ⟨hout, hflights⟩ := throttles_out (liveChans s) (count s pgBWR 0)
    obtain ⟨pages, hlimits⟩ := sendLimits_eq s1 lims (List.range 524) s1.limits s1.pages
    have hpos : ∀ l ∈ lims, 1 ≤ l.2 := by
      intro l hl
      obtain ⟨p, -, rfl⟩ := List.mem_map.1 hl
      exact one_le_partLimit p
    refine ⟨emits { s1 with limits := (List.range 524).foldl (fun t m => tset 16 t m (masterLimit s1 lims m)) s1.limits, pages := pages }
      (creditBeats s1 lims), ?_, ?_, fun m hm => ⟨?_, one_le_masterLimit hpos m⟩⟩
    · change execCreditInterval act s = _
      unfold execCreditInterval
      rw [hawake]
      refine congrArg Host.Outcome.next ?_
      rw [show (List.range 524).foldl (fun t m => sendLimit t lims m) s1 = _ from hlimits]
      exact releasePorts_of_all_sent (by exact hflights ▸ hsent) _
    · simp only [emits, creditBeats]
      rw [show s1.out = s.out from hout]
    · have hlim (l : Table Nat) (o : List Out) : (emits { s1 with limits := l, pages := pages } o).limits = l := rfl
      rw [hlim, tget_foldl_tset, if_pos hm]

end


section

/-! ## The twin (R61, R112, R385 to R387) -/

namespace Sys2Proof.Machine

section
variable {s : State} {die : BitVec 16} {beat : BitVec 256} {type defined : Nat}

/-- A message in form that comes from the twin runs its row on the state with the message counted. -/
theorem PeerMessage.fromTwin (h : PeerMessage s die beat type defined) (htwin : hasTwin s = true) (hdie : die.toNat = twinDie s)
    (f : Nat → State → State) :
    peerIn s die.toNat beat type defined (fun s b => Machine.fromTwin s die.toNat (f b)) = f beat.toNat (count s pgPER 1) := by
  have hhere : (hasTwin (count s pgPER 1) && die.toNat == twinDie (count s pgPER 1)) = true := by
    rw [show hasTwin (count s pgPER 1) = true from htwin, show twinDie (count s pgPER 1) = die.toNat from hdie.symm]
    simp
  exact (h.run _).trans (if_pos hhere)

/-- A doorbell of an owner for an enabled queue of an active context rings it (R109). -/
theorem doorbell_rings {q cls c : Nat} (howner : doorbellOwner s q cls c = true) (hst : (s.queue q).st = .enabled)
    (hctx : (s.ctx (s.queue q).owner).st = .active) : doorbell s q cls c = (ringDoorbell s q, true) := by
  unfold doorbell
  simp only [howner, hst, hctx, Bool.not_true, Bool.false_eq_true, if_false, ne_eq, not_true_eq_false, reduceCtorEq, or_self]

/-- A doorbell for a partner that does not run and whose queues are not handed back is held (R386). -/
theorem twinDoorbell_held {q cls c : Nat} (h : s.per.twin = .waiting) :
    twinDoorbell s q cls c = count { s with per := { s.per with hold := tset false s.per.hold q true } } pgPER 3 := by
  unfold twinDoorbell
  rw [h]; rfl

end

end Sys2Proof.Machine

open Sys2Proof Sys2Proof.Machine

/-- Settles O60: a message of the twin by its type and the pairing's state; the heartbeat by the pairing's state. -/
theorem twin : Obligations.Twin := by
  unfold Obligations.Twin
  intro s die beat u b hu hb
  subst hu hb
  refine ⟨fun htwin hdie => ⟨fun v h hv => ⟨fun hwait hready => ?_, fun hpaired hstops => ?_, fun hpaired hready => ?_⟩,
      fun h q c hq hc => ⟨fun hready howner hst hctx => ?_, fun hstops hwait => ?_⟩, fun n h hn hgood => ?_, fun h hdone => ?_,
      fun h hwait => ?_⟩, rfl, fun habsent => ?_, fun hpresent => ?_, fun hseen hdone hpair => ?_, fun hunseen => ?_⟩
  · refine (congrArg Host.Outcome.next (h.fromTwin htwin hdie _)).trans ?_
    have htw : (count s pgPER 1).per.twin = .waiting := hwait
    subst hv
    simp only [htw, hready, if_true]
  · refine (congrArg Host.Outcome.next (h.fromTwin htwin hdie _)).trans ?_
    have htw : (count s pgPER 1).per.twin = .paired := hpaired
    subst hv
    simp only [htw, if_pos hstops]
  · refine (congrArg Host.Outcome.next (h.fromTwin htwin hdie _)).trans ?_
    have htw : (count s pgPER 1).per.twin = .paired := hpaired
    subst hv
    simp only [htw, hready, show ¬ (1 = 2 ∨ 1 = 3) by decide, if_false]
  · refine (congrArg Host.Outcome.next (h.fromTwin htwin hdie _)).trans ?_
    have hstate : (count s pgPER 1).per.twinState = 1 := hready
    simp only [hstate, ← hq, ← hc, show ¬ (1 = 2 ∨ 1 = 3) by decide, if_false]
    rw [doorbell_rings howner hst hctx]
  · refine (congrArg Host.Outcome.next (h.fromTwin htwin hdie _)).trans ?_
    subst hq hc
    exact congrArg Host.Outcome.next ((if_pos (by exact .inl hstops)).trans (twinDoorbell_held hwait))
  · refine (congrArg Host.Outcome.next (h.fromTwin htwin hdie _)).trans ?_
    have hnone : badPiece (count s pgPER 1) [(s.swb.settings.regions.getD 1 0 + 4096 + 4 * s.swb.handbackBuf, 0, 4 * n)] = none := by
      rw [badPiece_one, show writeFails (count s pgPER 1) _ _ = false from hgood]; rfl
    simp only [← hn, show (count s pgPER 1).swb = s.swb from rfl]
    rw [putOrDrop_good hnone]
    rfl
  · refine (congrArg Host.Outcome.next (h.fromTwin htwin hdie _)).trans ?_
    exact congrArg Host.Outcome.next (if_neg (by exact ne_true_of_eq_false hdone))
  · refine (congrArg Host.Outcome.next (h.fromTwin htwin hdie _)).trans ?_
    exact congrArg Host.Outcome.next (if_pos (by exact hwait))
  · exact congrArg Host.Outcome.next (if_pos habsent)
  · exact congrArg Host.Outcome.next (if_neg hpresent)
  · change execHeartbeatLost s = _
    have hswb (t : State) (a : Nat) : (count (setErr t pgPER 3 a) pgPER 6).swb = t.swb := setErr_swb _ _ _ _
    unfold execHeartbeatLost
    simp only [hseen, Bool.not_true, Bool.false_eq_true, if_false, if_pos hpair]
    exact congrArg Host.Outcome.next (if_neg (by rw [hswb]; exact ne_true_of_eq_false hdone))
  · change execHeartbeatLost s = _
    unfold execHeartbeatLost
    rw [hunseen]; rfl

end


section

/-! ## Self-tests, resets and retraining of unitRecs (R373 to R381, R392) -/

namespace Sys2Proof.Machine

/-- What the records of the units are read from. -/
def unitRecs (s : State) : Table Endpoint × Table Hub × Table Channel := (s.eps, s.hubs, s.chans)

section
variable {s t : State} {k : UnitKind} {n : Nat}

theorem unitOf_congr (h : unitRecs t = unitRecs s) : unitOf t k n = unitOf s k n := by
  simp only [unitRecs, Prod.mk.injEq] at h
  obtain ⟨heps, hhubs, hchans⟩ := h
  unfold unitOf State.ep State.hub State.chan
  rw [heps, hhubs, hchans]

@[simp] theorem unitRecs_count (p i c : Nat) : unitRecs (count s p i c) = unitRecs s := rfl

@[simp] theorem unitRecs_sendRuns (lane kind : Nat) (es : List Nat) (b0 : Nat) (rest : List Word) :
    unitRecs (sendRuns s lane kind es b0 rest) = unitRecs s :=
  sendRuns_keeps unitRecs (fun _ _ _ _ _ _ _ _ => rfl) ..

@[simp] theorem unitRecs_sendData (lane : Nat) (es : List Nat) (i : Nat) (bs : List Byte) (off : Nat) (s : State) :
    unitRecs (sendData lane es i bs off s) = unitRecs s := by
  induction i generalizing bs off s with
  | zero => rfl
  | succ i ih =>
    cases bs with
    | nil => rfl
    | cons b bs => exact (ih _ _ _).trans (unitRecs_sendRuns _ _ _ _ _)

@[simp] theorem unitRecs_commandMsgs (lane : Nat) (h : CmdHead) (es : List Nat) (desc consts : List Word) (segs : List (Nat × Nat × Nat)) :
    unitRecs (commandMsgs s lane h es desc consts segs) = unitRecs s := by
  have h' := commandMsgs_rest (s := s) (lane := lane) (h := h) (es := es) (desc := desc) (consts := consts) (segs := segs)
  have hrecs := congrArg unitRecs h'
  exact hrecs

/-- What every step of a fold keeps, the fold keeps. -/
theorem foldl_keeps {α β : Type} (g : State → β) {f : State → α → State} (hf : ∀ t x, g (f t x) = g t) (l : List α) (s : State) :
    g (l.foldl f s) = g s := by
  induction l generalizing s with
  | nil => rfl
  | cons x l ih => exact (ih _).trans (hf _ _)

@[simp] theorem unitRecs_karMessages (cold : Bool) (e : Nat) : unitRecs (karMessages s cold e) = unitRecs s := by
  unfold karMessages
  dsimp only
  refine (foldl_keeps unitRecs (fun t _ => unitRecs_commandMsgs _ _ _ _ _ _) _ _).trans ?_
  split
  · simp [karLoad]
  · rfl

@[simp] theorem unitRecs_issueMsg (r : Nat) (m : BlockMsg) : unitRecs (issueMsg s r m) = unitRecs s := by
  unfold issueMsg
  dsimp only
  split <;> rfl

theorem unitRecs_pumpMsgs (ms : List BlockMsg) (s : State) : unitRecs (pumpMsgs ms s) = unitRecs s := by
  induction ms generalizing s with
  | nil => rfl
  | cons m ms ih =>
    unfold pumpMsgs
    split
    · exact (ih _).trans (unitRecs_issueMsg _ _)
    · exact ih _

@[simp] theorem unitRecs_sendTagged (kind : Nat) (es : List Nat) (b0 : Nat) (rest : List Word) (second : Bool) (purpose : Purpose)
    (ctx : Nat) : unitRecs (sendTagged s kind es b0 rest second purpose ctx) = unitRecs s := unitRecs_pumpMsgs _ _

@[simp] theorem unitRecs_runClear : unitRecs (runClear s k n) = unitRecs s := by
  cases k <;> simp [runClear]

@[simp] theorem unitRecs_setErr (p bit addr : Nat) : unitRecs (setErr s p bit addr) = unitRecs s := by
  obtain ⟨pages, ntf, h⟩ := setErr_eq s p bit addr
  rw [h]; rfl

@[simp] theorem unitRecs_rewriteCap : unitRecs (rewriteCap s) = unitRecs s := by
  obtain ⟨out, pages, ntf, gen, tab, h⟩ := rewriteCap_eq s
  rw [h]; rfl

@[simp] theorem unitRecs_appendDefect (clear : Bool) (u stage cause : Nat) : unitRecs (appendDefect s clear k u stage cause) = unitRecs s := by
  unfold appendDefect
  split
  · exact unitRecs_setErr _ _ _
  · rfl

theorem unitOf_setUnit (r : UnitRec) : unitOf (setUnit s k n r) k n = r := by
  cases k <;> simp [unitOf, setUnit]

theorem unitOf_setUnitState (st : UnitState) (cause : Nat) : (unitOf (setUnitState s k n st cause) k n).st = st := by
  unfold setUnitState
  rw [unitOf_congr unitRecs_rewriteCap, unitOf_setUnit]

/-- A unit in service that turns out bad is a DEFECT. -/
theorem unitOf_setDefect (h : (unitOf s k n).st = .suspect) (cause : Nat) : (unitOf (setDefect s k n cause) k n).st = .defect := by
  unfold setDefect
  simp only [h, or_true, if_true]
  rw [unitOf_congr (s := setUnitState s k n .defect cause) (by simp), unitOf_setUnitState]

/-- What a run leaves of a SUSPECT unit (R378). -/
theorem unitOf_applyRun (r : RunResult) (h : (unitOf s k n).st = .suspect) :
    (unitOf (applyRun s k n r) k n).st = if runPasses s false k n r then .healthy else .defect := by
  unfold applyRun
  dsimp only
  have hkept : unitRecs (if r = .timeout then setErr (runClear ((unitEps s k n).foldl (fun t e => karMessages t false e)
      (count s pgSWB 0)) k n) pgSWB 2 (unitId s k n) else runClear ((unitEps s k n).foldl (fun t e => karMessages t false e)
      (count s pgSWB 0)) k n) = unitRecs s := by
    have hfold := foldl_keeps unitRecs (f := fun t e => karMessages t false e) (fun _ _ => unitRecs_karMessages _ _) (unitEps s k n)
      (count s pgSWB 0)
    split <;> simp [hfold]
  generalize (if r = .timeout then setErr _ pgSWB 2 (unitId s k n) else _) = t at hkept ⊢
  have hst : (unitOf t k n).st = .suspect := by rw [unitOf_congr hkept, h]
  have hset : (unitOf (count (setUnit t k n { unitOf t k n with karPending := false, restage := false }) pgSWB 1) k n).st = .suspect := by
    rw [unitOf_congr (unitRecs_count _ _ _), unitOf_setUnit]
    exact hst
  cases hpass : runPasses s false k n r
  · simp only [Bool.false_eq_true, if_false]
    exact unitOf_setDefect hset _
  · simp only [if_true, hst]
    exact unitOf_setUnitState _ _

end

section
variable {s : State} {q op : Nat} {j : Job} {ws : List Word} {wait : List Word → Bool} {f : State → Job → List Word → State}

/-- A packet that may wait for its unit, where it need not. -/
theorem AtPacket.waitRow (h : AtPacket s q op j ws) (hfree : wait ws = false) :
    Machine.waitRow s q op wait f = .next (f (countDecoded s q) { j with decoded := true } ws) := by
  have hat : standsAt s q op = some ws := by
    obtain ⟨_, hphase, _⟩ := h.runs
    simp [standsAt, h.job, h.pkt, hphase, h.opcode, h.pred]
  unfold Machine.waitRow
  simp only [hat, hfree, Bool.false_eq_true, if_false]
  exact h.row _ _

theorem unitParts_countDecoded (k : UnitKind) (n : Nat) : unitParts (countDecoded s q) k n = unitParts s k n := by
  obtain ⟨jobs, pages, h⟩ := countDecoded_eq s q
  rw [h]; cases k <;> rfl

theorem unitOf_countDecoded (k : UnitKind) (n : Nat) : unitOf (countDecoded s q) k n = unitOf s k n := by
  obtain ⟨jobs, pages, h⟩ := countDecoded_eq s q
  rw [h]; cases k <;> rfl

theorem testUnit_countDecoded : testUnit (countDecoded s q) ws = testUnit s ws := by
  obtain ⟨jobs, pages, h⟩ := countDecoded_eq s q
  rw [h]; rfl

theorem retrainUnit_countDecoded : retrainUnit (countDecoded s q) ws = retrainUnit s ws := by
  obtain ⟨jobs, pages, h⟩ := countDecoded_eq s q
  rw [h]; rfl

theorem pauseOk_countDecoded : pauseOk (countDecoded s q) = pauseOk s := by
  obtain ⟨jobs, pages, h⟩ := countDecoded_eq s q
  rw [h]; rfl

end

section
variable {s u : State} {q : BitVec 18} {j : Job} {ws : List Word} {k : UnitKind} {n : Nat}

/-- SELFTEST at its packet, of a unit that is free (R377). -/
theorem selftest_row {r : RunResult} (hat : AtPacket s q.toNat 0x88 j ws) (hu : u = countDecoded s q.toNat)
    (hunit : (k, n) = testUnit s ws) (hidle : activating s = false) (hbusy : unitBusy s k n = false)
    (hpending : (unitOf s k n).karPending = false) :
    exec (.selftest q r) s = .next (
      if (unitOf s k n).st = .fused then opStatus u q.toNat ST_UNIT_STATE
      else if unitParts s k n = [] then endTest (applyRun u k n r) q.toNat (runPasses u false k n r)
      else if (unitParts s k n).all (pauseOk s) then
        modJob (setUnit u k n { unitOf u k n with karPending := true }) q.toNat (fun j => { j with phase := .unitWait k n })
      else opStatus u q.toNat ST_UNIT_BOUND) := by
  subst hu
  refine (show exec (.selftest q r) s = _ from hat.waitRow (by simp [← hunit, hidle, hbusy, hpending])).trans ?_
  simp only [testUnit_countDecoded, ← hunit, unitParts_countDecoded, unitOf_countDecoded, pauseOk_countDecoded]

/-- RETRAIN at its packet, of a unit that is free (R380). -/
theorem retrain_row (hat : AtPacket s q.toNat 0x8A j ws) (hu : u = countDecoded s q.toNat) (hfree : retrainWaits s q.toNat ws = false)
    (hunit : (k, n) = retrainUnit s ws) :
    exec (.retrain q) s = .next (
      if (unitOf s k n).st = .fused then opStatus u q.toNat ST_UNIT_STATE
      else
        let s1 := modJob u q.toNat (fun j => { j with phase := .unitWait k n })
        match k with
        | .channel => startRetrain s1 n q.toNat
        | _ => issueLinkRetrain s1 q.toNat (fld (wordAt ws 1) 22 16) n) := by
  subst hu
  refine (show exec (.retrain q) s = _ from hat.waitRow hfree).trans ?_
  simp only [retrainUnit_countDecoded, ← hunit, unitOf_countDecoded] <;> cases k <;> rfl

section
variable {m st id : Nat} {x : Channel}

theorem endRetrain_of_none {ok : Bool} (h : (s.chan m).retrainBy = none) : endRetrain s m ok = s := by
  unfold endRetrain
  simp only [h]

/-- A report of a channel that is being retrained moves the retraining on (R381). -/
theorem stateReport_retraining (hx : x = s.chan m) (hby : x.retrainBy = some id) :
    stateReport s m st =
      (let s1 := s.setChan m { x with state := st }
       if st = 3 then endRetrain s1 m false
       else if st = 2 ∧ !x.retrainSent then
         emit (s1.setChan m { x with state := st, retrainSent := true, retrainAt := s.now }) (.bwrCtl m 1)
       else if st = 1 ∧ x.retrainSent then endRetrain s1 m true
       else s1) := by
  subst hx
  unfold stateReport
  simp only [chan_setChan, if_true, hby]

end

/-- A pending run is made where its unit's partitions stand (R378). -/
theorem boundaryRun_made {k : UnitKind} {n : BitVec 14} {v : Nat} (hv : v = unitKey s k n.toNat) (hlive : s.halted = false)
    (hpending : (unitOf s k v).karPending = true) (hbusy : unitBusy s k v = false) (hstands : ∀ p ∈ unitParts s k v, stands s p = true)
    (r : RunResult) :
    exec (.boundaryKnownAnswerRun k n r) s = .next (runUnit s k v r) ∧
      exec (.knownAnswerRunTimeout k n) s = .next (runUnit s k v .timeout) := by
  subst hv
  have hgo : (s.halted || !(unitOf s k (unitKey s k n.toNat)).karPending || unitBusy s k (unitKey s k n.toNat) ||
      !((unitParts s k (unitKey s k n.toNat)).all (stands s))) = false := by
    rw [hlive, hpending, hbusy, List.all_eq_true.2 hstands]; rfl
  constructor
  · change execBoundaryKnownAnswerRun k n r s = _
    unfold execBoundaryKnownAnswerRun
    simp only [hgo, Bool.false_eq_true, if_false]
  · change execKnownAnswerRunTimeout k n s = _
    unfold execKnownAnswerRunTimeout
    simp only [hgo, Bool.false_eq_true, if_false]

end

end Sys2Proof.Machine

open Sys2Proof Sys2Proof.Machine

/-- Settles O53: the packets by their unit's state and partitions, a run by what it answered, a channel's report by its retraining. -/
theorem unitsInService : Obligations.UnitsInService := by
  unfold Obligations.UnitsInService
  refine ⟨fun s q j ws r u hu => ⟨fun k n hat hunit hidle hbusy hpending => ⟨fun hfused => ?_, fun hlive hnone => ?_,
      fun hlive hsome hpause => ?_, fun hlive hsome hpause => ?_⟩,
    fun k n v hv hlive hpending hbusy hstands => boundaryRun_made hv hlive hpending hbusy hstands r,
    fun k n hst => ⟨fun hpass => ?_, fun hpass => ?_⟩, fun n os => rfl, fun n b => rfl, fun k n => ?_, fun hat hfree =>
      ⟨fun hlevel => ?_, fun hlevel => ?_⟩, fun e => ⟨fun hnone => ?_, fun hsome => ?_⟩⟩,
    fun s q j ws u c hu => ⟨fun hat hfree k n hunit => ⟨fun hfused => ?_, fun hlive hk => ?_, fun hlive hk => ?_⟩,
      fun id x hx hby => ⟨fun hsent => ?_, fun hsent => ?_, ?_, rfl⟩, fun hnone => ?_⟩⟩
  · rw [selftest_row hat hu hunit hidle hbusy hpending, if_pos hfused]
  · rw [selftest_row hat hu hunit hidle hbusy hpending, if_neg hlive, if_pos hnone]
  · rw [selftest_row hat hu hunit hidle hbusy hpending, if_neg hlive, if_neg hsome, if_pos hpause]
  · rw [selftest_row hat hu hunit hidle hbusy hpending, if_neg hlive, if_neg hsome, if_neg (by rw [hpause]; decide)]
  · rw [unitOf_applyRun r hst, hpass]; rfl
  · rw [unitOf_applyRun r hst, hpass]; rfl
  · cases k <;> rfl
  · subst hu
    exact (show exec (.unitReset q) s = _ from hat.waitRow hfree).trans (congrArg Host.Outcome.next (if_pos hlevel))
  · subst hu
    exact (show exec (.unitReset q) s = _ from hat.waitRow hfree).trans (congrArg Host.Outcome.next (if_neg hlevel))
  · change execAbortAbsorb e s = _
    unfold execAbortAbsorb
    simp only [hnone, List.isEmpty_nil, if_true]
  · change execAbortAbsorb e s = _
    unfold execAbortAbsorb
    simp only [List.isEmpty_eq_false_iff.2 hsome, Bool.false_eq_true, if_false]
  · rw [retrain_row hat hu hfree hunit, if_pos hfused]
  · subst hk
    rw [retrain_row hat hu hfree hunit, if_neg hlive]
  · subst hk
    rw [retrain_row hat hu hfree hunit, if_neg hlive]
  · exact congrArg Host.Outcome.next ((stateReport_retraining hx hby).trans (by simp [hsent]))
  · exact congrArg Host.Outcome.next ((stateReport_retraining hx hby).trans (by simp [hsent]))
  · exact congrArg Host.Outcome.next ((stateReport_retraining hx hby).trans (by simp))
  · exact congrArg Host.Outcome.next (endRetrain_of_none hnone)

end


section

/-! ## The alert over a table that is not canonical (R326) -/

namespace Sys2Proof.Machine

/-- A state whose partition table lists partition 1 twice: a first entry without cores whose change is due, and behind it one with
a core, which no read of the partition sees. -/
def shadowedPart : State :=
  { State.reset with
    parts := [(1, { Part.reset with changing := some 0 }), (1, { Part.reset with active := { Members.none with cores := [(0, 0, 0)] } })],
    vld := { Veld.reset with floorMhz := 300 } }

/-- The frequency chosen for partition 1 once an instruction has run. -/
def chosenAfter : Result → Nat
  | .next t => (t.part 1).chosen
  | _ => 0

theorem shadowedPart_hubs : partHubs shadowedPart = [(1, [0])] := by decide

/-- The end of the change empties the first entry, its removal takes both from the table, and the alert chooses for no partition. -/
theorem shadowedPart_alert : chosenAfter (exec .alert shadowedPart) = 0 := by decide

end Sys2Proof.Machine

open Sys2Proof Sys2Proof.Machine

/-- Refutes O59: the statement speaks of every state, and in `shadowedPart`, whose partition table is not canonical, the alert leaves
partition 1, which has a core, at the frequency 0 and not at FLOOR_MHZ. -/
theorem not_power : ¬ Obligations.Power := by
  unfold Obligations.Power
  intro h
  obtain ⟨hstates, -⟩ := h
  obtain ⟨-, -, -, -, -, ⟨t, hexec, -, -, -, hchosen⟩, -⟩ := hstates shadowedPart
  have hfloor : (t.part 1).chosen = 300 := hchosen (1, [0]) (by rw [shadowedPart_hubs]; simp)
  have hzero := shadowedPart_alert
  rw [hexec] at hzero
  exact absurd (hfloor.symm.trans hzero) (by decide)

end


section

/-! ## Doorbells (R35, R109, R112)

A doorbell is answered behind what its requester has held for a domain, so its answer rests on this: no read that a doorbell
starts, and no fault of the ring that such a read meets, adds to what is held. -/

namespace Sys2Proof.Machine

@[simp] theorem held_ite (c : Prop) [Decidable c] (s t : State) :
    (if c then s else t).bsn.held = if c then s.bsn.held else t.bsn.held := by
  split <;> rfl

/-- A fold of steps that keep what is held keeps it. -/
theorem held_foldl {α : Type} (f : State → α → State) (h : ∀ s a, (f s a).bsn.held = s.bsn.held) (l : List α) (s : State) :
    (l.foldl f s).bsn.held = s.bsn.held :=
  foldl_keeps (fun t => t.bsn.held) h l s

@[simp] theorem held_setErr (s : State) (p bit addr : Nat) : (setErr s p bit addr).bsn.held = s.bsn.held := by
  obtain ⟨pages, ntf, h⟩ := setErr_eq s p bit addr
  rw [h]

/-! ### What the shared operations leave of what is held -/

@[simp] theorem held_wakeSpine (s : State) : (wakeSpine s).bsn.held = s.bsn.held := by
  simp [wakeSpine]

@[simp] theorem held_wakeSlice (s : State) (k : Nat) : (wakeSlice s k).bsn.held = s.bsn.held := by
  simp [wakeSlice]

@[simp] theorem held_issue (s : State) (k : Nat) (who : Access) (outs : List Out) :
    (issue s k who outs).bsn.held = s.bsn.held := by
  simp [issue]

@[simp] theorem held_countXlt (s : State) (st : Status) : (countXlt s st).bsn.held = s.bsn.held := by
  simp [countXlt]

@[simp] theorem held_putOrDrop (s : State) (page : Nat) (ps : List (Nat × Nat × Nat)) (bs : List Byte) :
    (putOrDrop s page ps bs).bsn.held = s.bsn.held := by
  unfold putOrDrop; split <;> simp

theorem held_vWrite {s t : State} {port c va : Nat} {bs : List Byte} (h : vWrite s port c va bs = .ok t) :
    t.bsn.held = s.bsn.held := by
  simp only [vWrite, putPieces] at h
  split at h
  · cases h
  · cases hbad : badPiece s (pieces (s.ctx c) va bs.length) <;> simp only [hbad] at h <;> cases h
    simp

@[simp] theorem held_sendRuns (s : State) (lane kind : Nat) (es : List Nat) (b0 : Nat) (rest : List Word) :
    (sendRuns s lane kind es b0 rest).bsn.held = s.bsn.held :=
  sendRuns_keeps (fun t => t.bsn.held) (fun _ _ _ _ _ _ _ _ => rfl) ..

@[simp] theorem held_advance (s : State) (c : Nat) : (advance s c).bsn.held = s.bsn.held := by
  simp [advance]

@[simp] theorem held_sendPeer (s : State) (die : Nat) (beat : Nat) : (sendPeer s die beat).bsn.held = s.bsn.held := by
  simp [sendPeer]

@[simp] theorem held_sendTwin (s : State) (st : Nat) : (sendTwin s st).bsn.held = s.bsn.held := by
  simp [sendTwin]

@[simp] theorem held_sendFence (s : State) (die beat : Nat) : (sendFence s die beat).bsn.held = s.bsn.held := by
  simp [sendFence]

/-! ### Fences and their waiters -/

theorem held_takeLine {s t : State} {f : Fence} {l : Nat} (h : takeLine s f = some (l, t)) : t.bsn.held = s.bsn.held := by
  unfold takeLine at h
  split at h
  · cases h; rfl
  · split at h <;> cases h
    rfl

@[simp] theorem held_linkWaiter (s : State) (l : Nat) (w : LineWaiter) : (linkWaiter s l w).bsn.held = s.bsn.held := by
  simp [linkWaiter]

@[simp] theorem held_unlinkWaiter (s : State) (l : Nat) (w : LineWaiter) : (unlinkWaiter s l w).bsn.held = s.bsn.held := by
  simp [unlinkWaiter]

@[simp] theorem held_issueAtomic (s : State) (a : Atomic) :
    (issueAtomic s a).bsn.held = s.bsn.held := by
  simp [issueAtomic]

@[simp] theorem held_HeldRead.go (s : State) (r : HeldRead) :
    (HeldRead.go s r).bsn.held = s.bsn.held := by
  simp [HeldRead.go]

@[simp] theorem held_issueRead (s : State) (r : HeldRead) : (issueRead s r).bsn.held = s.bsn.held := by
  simp only [issueRead]; split <;> simp

@[simp] theorem held_releaseReads (s : State) (pa : Nat) : (releaseReads s pa).bsn.held = s.bsn.held := by
  unfold releaseReads
  split
  · rfl
  · exact held_foldl _ (fun _ _ => held_issue _ _ _ _) _ _

@[simp] theorem held_nextAtomic (s : State) (pa : Nat) : (nextAtomic s pa).bsn.held = s.bsn.held := by
  simp only [nextAtomic]
  (repeat' split) <;> simp

@[simp] theorem held_readFence (s : State) (w : LineWaiter) (f : Fence) :
    (readFence s w f).bsn.held = s.bsn.held := by
  simp [readFence]

@[simp] theorem held_dropReads (s : State) (w : LineWaiter) (pa : Nat) :
    (dropReads s w pa).bsn.held = s.bsn.held := by
  simp [dropReads]

@[simp] theorem held_putWatch (s : State) (x : RemoteWatch) :
    (putWatch s x).bsn.held = s.bsn.held := by
  simp [putWatch]

@[simp] theorem held_relinkQueue (s : State) (q : Nat) : (relinkQueue s q).bsn.held = s.bsn.held := by
  unfold relinkQueue
  dsimp only
  split
  · rfl
  · rename_i hline
    split <;> simp [held_takeLine hline]

@[simp] theorem held_relinkWatch (s : State) (x : RemoteWatch) : (relinkWatch s x).bsn.held = s.bsn.held := by
  unfold relinkWatch
  dsimp only
  split
  · rfl
  · rename_i hline
    simp [held_takeLine hline]

@[simp] theorem held_relink (s : State) : (relink s).bsn.held = s.bsn.held := by
  unfold relink
  (repeat' split) <;> simp

@[simp] theorem held_clearWait (s : State) (q : Nat) (unwatch : Bool) : (clearWait s q unwatch).bsn.held = s.bsn.held := by
  simp only [clearWait]
  (repeat' split) <;> simp

/-! ### Records, zeroing and jobs -/

@[simp] theorem held_putRec (s : State) (k r : Nat) (x : LaunchRec) : (putRec s k r x).bsn.held = s.bsn.held := by
  simp [putRec]

@[simp] theorem held_freeRecord (s : State) (k r : Nat) : (freeRecord s k r).bsn.held = s.bsn.held := by
  simp [freeRecord]

@[simp] theorem held_commandMsgs (s : State) (lane : Nat) (h : CmdHead) (targets : List Nat)
    (desc consts : List Word) (segs : List (Nat × Nat × Nat)) :
    (commandMsgs s lane h targets desc consts segs).bsn.held = s.bsn.held := by
  simp [commandMsgs]

@[simp] theorem held_sendCommand (s : State) (lane : Nat) (h : CmdHead) (targets : List Nat) (desc consts : List Word)
    (segs : List (Nat × Nat × Nat)) : (sendCommand s lane h targets desc consts segs).bsn.held = s.bsn.held := by
  have hcmds (t : State) := held_foldl (fun (t : State) e => t.setEp e { t.ep e with cmds := (t.ep e).cmds ++ [(h.tag, h.ctx)] })
    (fun _ _ => rfl) targets t
  unfold sendCommand
  dsimp only
  split <;> simp [hcmds]

theorem held_issueZero {s t : State} {z : Zeroing} (h : issueZero s z = some t) : t.bsn.held = s.bsn.held := by
  simp only [issueZero] at h
  (repeat' split at h) <;> cases h
  simp

@[simp] theorem held_pumpZeros (l : List Zeroing) (s : State) : (pumpZeros l s).bsn.held = s.bsn.held := by
  induction l generalizing s with
  | nil => rfl
  | cons m ms ih =>
    unfold pumpZeros
    split
    · exact ih _
    · split
      · rename_i hissue; have hkept := held_issueZero hissue; rw [ih]; exact hkept
      · exact ih _

@[simp] theorem held_pumpZero (s : State) : (pumpZero s).bsn.held = s.bsn.held := by
  simp [pumpZero]

@[simp] theorem held_toZeroing (s : State) (part : Nat) (gs : List Nat) : (toZeroing s part gs).bsn.held = s.bsn.held := by
  simp [toZeroing]

@[simp] theorem held_modJob (s : State) (q : Nat) (f : Job → Job) : (modJob s q f).bsn.held = s.bsn.held := by
  simp only [modJob]
  (repeat' split) <;> simp

@[simp] theorem held_schedUpdate (s : State) (p : Nat) : (schedUpdate s p).bsn.held = s.bsn.held := by
  have hrest := congrArg (fun t => t.bsn.held) (schedUpdate_frame s p).rest
  exact hrest

@[simp] theorem held_chargeWait (s : State) (q : Nat) : (chargeWait s q).bsn.held = s.bsn.held := by
  simp only [chargeWait]
  (repeat' split) <;> simp

@[simp] theorem held_chargeHold (s : State) (q : Nat) : (chargeHold s q).bsn.held = s.bsn.held := by
  simp only [chargeHold]
  (repeat' split) <;> simp

@[simp] theorem held_releaseGraph (s : State) (c i : Nat) : (releaseGraph s c i).bsn.held = s.bsn.held := by
  simp only [releaseGraph]
  (repeat' split) <;> simp

@[simp] theorem held_releaseObject (s0 : State) (c i : Nat) : (releaseObject s0 c i).bsn.held = s0.bsn.held := by
  simp [releaseObject]

@[simp] theorem held_unholdHandle (s : State) (c i : Nat) : (unholdHandle s c i).bsn.held = s.bsn.held := by
  simp [unholdHandle]

@[simp] theorem held_unholdPacket (s : State) (q : Nat) : (unholdPacket s q).bsn.held = s.bsn.held := by
  unfold unholdPacket
  split
  · rfl
  · exact held_foldl _ (fun _ _ => held_unholdHandle _ _ _) _ _

@[simp] theorem held_zeroSpill (s : State) (q : Nat) (slot : Option (Nat × Nat)) (len : Nat) :
    (zeroSpill s q slot len).bsn.held = s.bsn.held := by
  simp only [zeroSpill]
  (repeat' split) <;> simp

@[simp] theorem held_releaseBuf (s : State) (q : Nat) : (releaseBuf s q).bsn.held = s.bsn.held := by
  simp only [releaseBuf]
  (repeat' split) <;> simp

@[simp] theorem held_releaseImage (s : State) (q : Nat) : (releaseImage s q).bsn.held = s.bsn.held := by
  simp only [releaseImage]
  (repeat' split) <;> simp

@[simp] theorem held_leaveWaits (s : State) (q : Nat) : (leaveWaits s q).bsn.held = s.bsn.held := by
  simp [leaveWaits]

@[simp] theorem held_dropPlan (s : State) (q : Nat) (p : Plan) : (dropPlan s q p).bsn.held = s.bsn.held := by
  unfold dropPlan
  refine (held_foldl (fun (t : State) e => t.setEp e { t.ep e with reserved := (t.ep e).reserved - 1 }) (fun _ _ => rfl) _ _).trans ?_
  split <;> simp

@[simp] theorem held_dropLoads (s : State) (q : Nat) : (dropLoads s q).bsn.held = s.bsn.held :=
  held_foldl (fun (t : State) e => t.setEp e { t.ep e with held := false }) (fun _ _ => rfl) _ _

@[simp] theorem held_dropPins (s : State) (j : Job) : (dropPins s j).bsn.held = s.bsn.held := by
  refine held_foldl _ (fun t f => ?_) _ _
  (repeat' split) <;> simp

@[simp] theorem held_dropPatch (s : State) (q : Nat) : (dropPatch s q).bsn.held = s.bsn.held := by
  simp only [dropPatch]
  (repeat' split) <;> simp

@[simp] theorem held_dropMove (s : State) (q : Nat) :
    (dropMove s q).bsn.held = s.bsn.held := by
  simp [dropMove]

@[simp] theorem held_endStream (s : State) (q : Nat) : (endStream s q).bsn.held = s.bsn.held := by
  simp [endStream]

@[simp] theorem held_stopJob (s : State) (q : Nat) : (stopJob s q).bsn.held = s.bsn.held := by
  have hkeep (c : Nat) (l : List Nat) (t : State) := held_foldl (fun t i => unholdHandle t c i) (fun _ _ => held_unholdHandle _ _ _) l t
  unfold stopJob
  (repeat' split) <;> simp [hkeep]

/-! ### Faults -/

@[simp] theorem held_rankJob (s : State) (q : Nat) (r : EndRank) (st : Status) (idx : Option Nat) :
    (rankJob s q r st idx).bsn.held = s.bsn.held := by
  simp [rankJob]

@[simp] theorem held_endJob (s : State) (q : Nat) (r : EndRank) (st : Status) (idx : Option Nat) :
    (endJob s q r st idx).bsn.held = s.bsn.held := by
  simp [endJob]

@[simp] theorem held_capture (s v : State) (c : Nat) (st : Status) (cause : Nat) (cycle : List Nat) (badEp : Option Nat) :
    (capture s v c st cause cycle badEp).bsn.held = s.bsn.held := by
  unfold capture
  dsimp only
  split <;> split
  · split
    · rename_i hwrite; simp [held_vWrite hwrite]
    · simp
  · simp
  · split
    · rename_i hwrite; simp [held_vWrite hwrite]
    · simp
  · simp

@[simp] theorem held_haltBlock (s : State) (cause : Nat) (st : Status) (q : Nat) (job : Option (Nat × Option Nat))
    (cycle : List Nat) (badEp : Option Nat) :
    (haltBlock s cause st q job cycle badEp).bsn.held = s.bsn.held := by
  simp [haltBlock]

@[simp] theorem held_endTrace (s : State) : (endTrace s).bsn.held = s.bsn.held := by
  simp [endTrace]

@[simp] theorem held_loseContext (s : State) (c : Nat) (st : Status) (job : Option (Nat × Option Nat))
    (watchdog : Bool) (cycle : List Nat) (badEp : Option Nat) :
    (loseContext s c st job watchdog cycle badEp).bsn.held = s.bsn.held := by
  have hstop (l : List Nat) (t : State) := held_foldl stopJob held_stopJob l t
  unfold loseContext
  dsimp only
  split
  · simp
  · split
    · rw [held_capture]
      split
      all_goals
        simp only [held_ite, held_endTrace, hstop, ite_self]
        refine (held_foldl _ (fun t q => ?_) _ _).trans (by simp)
        (repeat' split) <;> simp
    · simp
    · split <;> simp

@[simp] theorem held_orphan (s : State) (q : Nat) : (orphan s q).bsn.held = s.bsn.held := by
  simp [orphan]

@[simp] theorem held_dropQueue (s : State) (q : Nat) :
    (dropQueue s q).bsn.held = s.bsn.held := by
  simp [dropQueue]

@[simp] theorem held_ringFault (s : State) (q : Nat) (st : Status) : (ringFault s q st).bsn.held = s.bsn.held := by
  simp [ringFault]

/-! ### A queue's reads -/

@[simp] theorem held_issuePi (s : State) (q : Nat) : (issuePi s q).bsn.held = s.bsn.held := by
  simp only [issuePi]
  (repeat' split) <;> simp

@[simp] theorem held_issueFetch (s : State) (q : Nat) : (issueFetch s q).bsn.held = s.bsn.held := by
  simp only [issueFetch]
  (repeat' split) <;> simp

@[simp] theorem held_pump (s : State) (q : Nat) : (pump s q).bsn.held = s.bsn.held := by
  simp [pump]

@[simp] theorem held_wakeFor (s : State) (k n : Nat) : (wakeFor s k n).bsn.held = s.bsn.held := by
  simp [wakeFor]

theorem held_ringDoorbell (s : State) (q : Nat) : (ringDoorbell s q).bsn.held = s.bsn.held := by
  simp [ringDoorbell]

/-! ### The doorbell's write -/

section
variable {s : State} {h : HostReq} {q : Nat} {operator : Bool}

theorem bitsN_doorbell {q : Nat} (hq : q < 2 ^ 18) : bitsN (q * 64) 23 6 = q := by
  simp only [bitsN, Nat.shiftRight_eq_div_pow]; omega

/-- A doorbell write in form is judged by the queue it names, and answered by what came of it. -/
theorem exec_doorbellWrite (hq : q < 2 ^ 18) (w : HostWrites s h operator (q * 64) 4) :
    exec (.doorbellWrite h) s = .next (hostAnswer (doorbell s q h.cls.toNat h.ctx.toNat).1 h.id
      (if (doorbell s q h.cls.toNat h.ctx.toNat).2 then 0 else 2)) := by
  have hregion : hostRegion (q * 64) = .doorbell := hostRegion_doorbell (by omega)
  have hfault := w.noFault (Or.inl rfl) (by omega) (Or.inl hregion)
  obtain ⟨-, -, htwin, -⟩ := w.requester
  change execDoorbellWrite h s = _
  unfold execDoorbellWrite
  rw [w.judged hfault, w.place, hregion]
  simp only [if_true, doorbellAccepted, w.not_inRecovery, htwin, Bool.false_eq_true, if_false, w.place, bitsN_doorbell hq]

end

end Sys2Proof.Machine

open Sys2Proof Sys2Proof.Machine

/-- Settles O17: an accepted doorbell rings its queue, which adds nothing to what its requester's answer would wait behind. -/
theorem doorbellWrites : Obligations.DoorbellWrites := by
  unfold Obligations.DoorbellWrites
  intro s h q operator hq w
  refine ⟨fun howner hst hctx => ?_, fun hnot => ?_, fun hfetched hpend hup => ?_⟩
  · rw [exec_doorbellWrite hq w, doorbell_rings howner hst hctx]
    exact congrArg Host.Outcome.next
      (hostAnswer_of_not_behind ((behind_congr (held_ringDoorbell s q) _).trans w.order) 0)
  · have hdoor : doorbell s q h.cls.toNat h.ctx.toNat = (count s pgHFE 0, false) := if_pos (by simp [hnot])
    rw [exec_doorbellWrite hq w, hdoor]
    exact congrArg Host.Outcome.next
      (hostAnswer_of_not_behind ((behind_congr (t := count s pgHFE 0) rfl _).trans w.order) 2)
  · have hup' : sliceUp (count s pgDBL 0) (s.queue q).home = true := hup
    unfold ringDoorbell
    simp only [hpend, Bool.false_eq_true, if_false, wakeFor, hup', if_true]
    exact pump_of_busy (.inl (by simp [hfetched]))

end
